-- ==== Sys2Proof/Word.lean ====
section
/-! DEFINITION. The names of bytes, words and numbered objects (R8, R50). -/

namespace Sys2Proof

/-- One byte of memory (R8). -/
abbrev Byte := BitVec 8
/-- One register of a control core, or one 8-byte word (R96). -/
abbrev Word := BitVec 64
/-- A household, 0 to 15 (R65). -/
abbrev Hh := Fin 16
/-- A region, its control core, larder, MVE and hallway segment, 0 to 7 (R50). -/
abbrev Rg := Fin 8
/-- A global cluster number, 0 to 33 (R50, R51). -/
abbrev Gl := Fin 34
/-- A physical cluster site, 0 to 33 (R51). -/
abbrev Site := Fin 34
/-- An HBM4 stack and its cellar controller, 0 to 7 (R50). -/
abbrev StackId := Fin 8
/-- A terrace port 0 to 15, or a party-wall port: 16 is PW0 and 17 is PW1 (R50). -/
abbrev PortId := Fin 18
/-- An integer or floating-point register number of a control core (R96). -/
abbrev XReg := Fin 32
/-- A tile register number (R108). -/
abbrev TReg := Fin 8

end Sys2Proof
end

