-- ==== Sys2Proof/Syntax.lean ====
section
/-! DEFINITION. The commands of the block: one constructor of Instr for each row of the table of
operations and events, with what its rule says the outside supplies. -/

namespace Sys2Proof

/-- Who makes a register or memory access (R58, R62, R101). -/
inductive Agent where
  /-- the physical function of the porch -/
  | pf
  /-- virtual function h + 1, of household h -/
  | vf (h : Hh)
  /-- control core CCr at level MON in context 16 (R101) -/
  | cc (r : Rg)
  /-- a house core -/
  | house
deriving DecidableEq, Repr

/-- A queue of commands (R133): one of a cluster's five by global number and engine code, or a region's. -/
inductive QueueId where
  | cluster (k : Gl) (e : Fin 5)
  | mve (r : Rg)
  | larder (r : Rg)
deriving DecidableEq, Repr

/-- Integer operations of the control core (R96). -/
inductive IntOp where
  | add | sub | and | or | xor | shl | shrl | shra | eq | lt | ltu | mul | div | divu | rem | remu
deriving DecidableEq, Repr

/-- The second operand of an integer instruction. -/
inductive IntSrc where
  | reg (x : XReg)
  | imm (v : Word)
deriving DecidableEq, Repr

/-- Floating-point operations of the control core (R96). `d` selects binary64, otherwise binary32. -/
inductive FpOp where
  | add (d : Bool) (fd fa fb : XReg)
  | sub (d : Bool) (fd fa fb : XReg)
  | mul (d : Bool) (fd fa fb : XReg)
  | div (d : Bool) (fd fa fb : XReg)
  | fma (d : Bool) (fd fa fb fc : XReg)
  /-- between the two formats; `toD` widens -/
  | cvtF (toD : Bool) (fd fa : XReg)
  /-- from a 64-bit integer register, signed or unsigned -/
  | cvtFromInt (d signed : Bool) (fd xa : XReg)
  /-- to a 64-bit integer register, signed or unsigned -/
  | cvtToInt (d signed : Bool) (xd fa : XReg)
  | eq (d : Bool) (xd fa fb : XReg)
  | lt (d : Bool) (xd fa fb : XReg)
  | le (d : Bool) (xd fa fb : XReg)
deriving DecidableEq, Repr

/-- Conditions of a conditional branch. -/
inductive Cond where
  | eq | ne | lt | ge | ltu | geu
deriving DecidableEq, Repr

/-- Control-flow instructions (R96); displacements are added to the instruction's own address. -/
inductive CfOp where
  | branch (c : Cond) (xa xb : XReg) (disp : Word)
  | jump (disp : Word)
  | jumpReg (xa : XReg)
  | jal (xd : XReg) (disp : Word)
deriving DecidableEq, Repr

/-- CSR accesses of the control core (R96, R99). -/
inductive CsrOp where
  /-- Xd receives the CSR -/
  | read (xd : XReg)
  /-- the CSR receives Xs -/
  | write (xs : XReg)
  /-- the bits of Xs are set -/
  | set (xs : XReg)
  /-- the bits of Xs are cleared -/
  | clear (xs : XReg)
deriving DecidableEq, Repr

/-- A disturbance inside the matrix array: at one vector (or step of KEYIP) the raw sum of one column (or lane) is
off by a number; where the array computes a value twice, in one of its copies (R169, R171). -/
structure SumFault where
  pos : Nat
  col : Nat
  off : Int
deriving DecidableEq, Repr

/-- What the check bits of the accumulator file find in the entry of a destination element: one bit, corrected, or
more (R162). -/
structure AccFault where
  elem : Nat
  bad : Bool
deriving DecidableEq, Repr

/-- What disturbs one MM or KEYIP: its sums up to the first mismatch and during the retry (R172), and the entries that
it reads in add mode (R162). The comparisons of R169 to R171 find what there is to find. -/
structure ArrayUpset where
  first : List SumFault
  again : List SumFault
  entries : List AccFault
deriving DecidableEq, Repr

/-- Nothing disturbs the command. -/
def ArrayUpset.clean : ArrayUpset := ⟨[], [], []⟩

/-- What the check bits of the accumulator file find while ACCST or CHACC reads it (R162). -/
abbrev AccUpset := List AccFault

/-- What the twiddle check of a transform finds: the limb of the first mismatch and that of the second, counted from 0 in
the command (R190). -/
structure TwUpset where
  first : Option Nat
  second : Option Nat
deriving DecidableEq, Repr

/-- Every stage ends on the twiddle that the root table implies. -/
def TwUpset.clean : TwUpset := ⟨none, none⟩

/-- What the error code of a cellar unit finds (R293). -/
inductive Ecc where
  | clean
  /-- corrected inside the stack -/
  | onDie
  /-- one symbol, corrected by the controller -/
  | corrected
  /-- two or more symbols -/
  | uncorrectable
deriving DecidableEq, Repr

/-- A terrace packet (R381). `rsv` is the reserved byte 0x0F. -/
structure Packet where
  type : Nat
  flags : Nat
  hops : Nat
  srcHh : Nat
  dstHh : Nat
  dst : Nat
  src : Nat
  tag : Nat
  length : Nat
  status : Nat
  rsv : Nat
  addr : Nat
  aux : Nat
  payload : List Byte
deriving DecidableEq, Repr

/-- A packet of a type and length, its other fields zero. -/
def Packet.bare (ty len : Nat) : Packet := ⟨ty, 0, 0, 0, 0, 0, 0, 0, len, 0, 0, 0, 0, List.replicate len 0⟩

/-- The content of a HELLO (R381): TERRACE_ID, port number, TWIN_ID, role. -/
structure Hello where
  id : Nat
  port : Nat
  twin : Nat
  role : Nat
deriving DecidableEq, Repr

/-- The content of a HEARTBEAT (R348). -/
structure Heartbeat where
  role : Nat
  paired : Bool
  /-- last sequence applied, per household -/
  seqs : Vector Nat 16
  /-- first 16 bytes of the pair digest, as a number -/
  digest : Nat
  /-- TX_SEL_BASE and the TWIN_ID of the sender's deed, which pairing compares (R346) -/
  selBase : Nat
  twin : Nat
  id : Nat
deriving DecidableEq, Repr

/-- An image or register write mirrored by the primary (R347, message REGS). -/
inductive Mirror where
  /-- a deed image, by its bytes -/
  | deed (img : List Byte)
  /-- a lease image of a household -/
  | lease (h : Hh) (img : List Byte)
  /-- a write of a household register of the house block -/
  | reg (off size v : Nat)
deriving DecidableEq, Repr

/-- Critical state whose error resets one block alone (R365). -/
inductive CritBlock where
  | strongbox
  | porch
  | terraceHalf (half : Fin 2)
  | partyWall
deriving DecidableEq, Repr

/-- The conditions of a porch reset (R361). -/
inductive PorchCause where
  | perst
  | hotReset
  | linkDown
  | pfFlr
deriving DecidableEq, Repr

/-- The readings of one Hearth tick (R406): package power in mW and the largest junction temperature in °C. -/
structure HearthReading where
  p : Nat
  tj : Nat
deriving DecidableEq, Repr

/-- What the outside supplies to the start-up sequence (R372): the step in progress uses its own part. -/
structure BootInput where
  /-- eight strap samples in mV (R369) -/
  samples : List Nat
  /-- the 64-byte boot header as read from flash (R373) -/
  header : List Byte
  /-- the two firmware copies as read from flash, none when unreadable (R373) -/
  fw1 : Option (List Byte)
  fw2 : Option (List Byte)
  /-- stacks that fail training (R375) -/
  trainFail : List Nat
  /-- channels that fail the cold check (R375) -/
  chanFail : List Nat
  /-- sites that fail self-test (R372 step 6) -/
  testFail : List Nat
  /-- the deed as read from flash (R372 step 9) -/
  deed : Option (List Byte)
  /-- the role with which the twin answered within the pairing time, none for no answer (R376) -/
  twin : Option Nat
  /-- the terrace identifier of the twin that answered -/
  twinId : Nat
  /-- the twin is starting too (R376) -/
  twinStarting : Bool
deriving DecidableEq, Repr

/-- What an MSI-X or SR-IOV configuration write changes (R423). The function is 0 for the physical
function and h + 1 for household h. -/
inductive PorchCfg where
  | msixEnable (f : Fin 17) (on : Bool)
  | funcMask (f : Fin 17) (on : Bool)
  | vectorMask (f : Fin 17) (entry : Fin 64) (on : Bool)
  | vfEnable (on : Bool)
deriving DecidableEq, Repr

/-- The commands. Each constructor is one row of the table of operations and events. An operand with a default says what
coincides with the event or surrounds it: left out, nothing else happens with it, and a link message has a header that is
zero but for its type and length. -/
inductive Instr where
  /- registers -/
  | registerWrite (a : Agent) (off size v hw : Nat)
  | registerRcRead (a : Agent) (off size hw : Nat)
  /- control core -/
  | enqX (r : Rg) (sync : Bool) (xd xa xq : XReg)
  | enqT (r : Rg) (sync : Bool) (xd : XReg) (t : TReg) (xi xq : XReg)
  | enqXN (r : Rg) (sync : Bool) (xd xa xq : XReg)
  | enqTN (r : Rg) (sync : Bool) (xd : XReg) (t : TReg) (xi xq : XReg)
  | mulmod (r : Rg) (xd xa xb xq : XReg)
  | coreLoad (r : Rg) (xd xb : XReg) (disp : Word) (size : Fin 4) (hw : Nat := 0)
  | coreStore (r : Rg) (xs xb : XReg) (disp : Word) (size : Fin 4) (hw : Nat := 0)
  | fenceW (r : Rg)
  | cinv (r : Rg) (xa xn : XReg)
  | csrWrite (r : Rg) (csr : Nat) (op : CsrOp) (hw : Bool := false)
  | svc (r : Rg)
  | debugBreakpoint (r : Rg)
  | rft (r : Rg)
  | interruptEntry (r : Rg)
  | tdef (r : Rg) (t : TReg) (xs : XReg)
  | tclr (r : Rg) (t : TReg)
  | tget (r : Rg) (t : TReg) (xb xs : XReg) (stop : Option Nat)
  | tput (r : Rg) (t : TReg) (xb xs : XReg) (stop : Option Nat)
  | trd (r : Rg) (xd : XReg) (t : TReg) (xi : XReg) (imm : Nat)
  | twr (r : Rg) (t : TReg) (xi : XReg) (imm : Nat) (xs : XReg)
  | tdead (r : Rg) (t : TReg)
  | tsave (r : Rg) (xb : XReg) (stop : Option Nat)
  | trestore (r : Rg) (xb : XReg) (stop : Option Nat)
  | tsumpop (r : Rg) (xd : XReg) (t : TReg)
  | sumpop (r : Rg) (xd xm : XReg)
  | ccHaltRequest (a : Agent) (r : Rg) (on : Bool)
  | ccStep (a : Agent) (r : Rg)
  /- every engine -/
  | nop (q : QueueId)
  | setgeo (q : QueueId)
  | commandStart (q : QueueId)
  | commandComplete (q : QueueId)
  | ringWriteRetry (h : Hh)
  | clQctlResume (a : Agent) (k : Gl) (e : Fin 8)
  | clQctlFlush (a : Agent) (k : Gl) (e : Fin 8)
  | clSemWrite (a : Agent) (k : Gl) (n : Fin 16) (v : Nat) (hw : Option Bool)
  | hhDtValidWrite (a : Agent) (h : Hh) (w : Fin 64) (v : Nat)
  | hhCqBaseWrite (a : Agent) (h : Hh) (v : Nat)
  /- execute sequencer -/
  | xsqStart (a : Agent) (k : Gl) (entry : Nat)
  | xsqStop (a : Agent) (k : Gl)
  | xsqResume (a : Agent) (k : Gl)
  | xsqCacheFill (k : Gl)
  | xsqNop (k : Gl)
  | loop (k : Gl)
  | endloop (k : Gl)
  | hqpush (k : Gl)
  | check (k : Gl)
  | tokenAdvance (k : Gl)
  | halt (k : Gl)
  /- matrix array -/
  | mm (k : Gl) (u : ArrayUpset)
  | modset (k : Gl)
  | keyip (k : Gl) (u : ArrayUpset)
  | accz (k : Gl)
  | accst (k : Gl) (u : AccUpset)
  | mxaRampDown (k : Gl)
  /- transform and permutation engines -/
  | fwd (k : Gl) (u : TwUpset)
  | inv (k : Gl) (u : TwUpset)
  | fwdct (k : Gl) (u : TwUpset)
  | invct (k : Gl) (u : TwUpset)
  | rootTableReady (k : Gl)
  | auto (k : Gl)
  | autoct (k : Gl)
  | gather (k : Gl)
  | scatter (k : Gl)
  /- vector engine -/
  | chain (k : Gl)
  | chacc (k : Gl) (u : AccUpset)
  | chload (k : Gl)
  | kload (k : Gl)
  | rescalect (k : Gl)
  | summaryDeliver (k : Gl)
  /- stream units, larder -/
  | load (k : Gl)
  | store (k : Gl)
  | kwin (k : Gl)
  | kwinClose (k : Gl)
  | streamRequestIssue (q : QueueId)
  | cellarReadReturn (q : QueueId) (cpa : Nat) (ecc : Ecc)
  | cellarWriteAck (q : QueueId) (fail : Option Nat)
  | deadlineMiss (q : QueueId)
  | stream (r : Rg)
  | prex (r : Rg)
  | prexExpansion (r : Rg)
  | ldQctlResume (a : Agent) (r : Rg) (h : Hh)
  | ldQctlFlush (a : Agent) (r : Rg) (h : Hh)
  /- polynomial sequencer -/
  | psqTrigger (k : Gl)
  | combine (k : Gl)
  | psqJobComplete (k : Gl)
  | psResume (a : Agent) (k : Gl)
  | psSkip (a : Agent) (k : Gl)
  /- pantry and move engine -/
  | shelfWakeDone (s : Site) (shelf : Fin 4)
  | pantryZeroing (s : Site)
  | pantryApertureAccess (a : Agent) (k : Gl) (off size : Nat) (write : Option Nat)
  | copy (r : Rg)
  | mvQctlResume (a : Agent) (r : Rg) (h : Hh)
  | mvQctlFlush (a : Agent) (r : Rg) (h : Hh)
  /- cellar -/
  | scrubRead (ch : Fin 256) (lg : Nat) (ecc : Ecc)
  | channelRetireStart (a : Option Agent) (s : StackId) (c : Fin 32)
  | channelMigrationDone (found : List (Nat × Ecc) := [])
  | trafficGeneratorGo (a : Agent) (s : StackId) (c : Fin 32) (v : Nat)
  | trafficGeneratorDone (s : StackId) (c : Fin 32) (errors : Nat)
  /- translation and transactions -/
  | tlbinvGo (a : Agent) (h : Hh) (v : Nat)
  | tlbinvDone (h : Hh)
  | txOpen (a : Agent) (h : Hh) (replay : Bool)
  | txCommit (a : Agent) (h : Hh)
  | commitApply (h : Hh)
  | txAbort (a : Agent) (h : Hh)
  | quantumEnd (i : Fin 8)
  | quantumIdleEnd (i : Fin 8)
  /- fail-operational service -/
  | foRetire (a : Agent) (k : Fin 32)
  | foYield (a : Agent)
  | clusterReplacement (s : Site) (same : Bool := false)
  | clusterCriticalError (s : Site)
  | regionCriticalError (r : Rg)
  | dieFault (d : Fin 2)
  | criticalStateError (b : CritBlock)
  | heartbeatPeriod
  | heartbeatMissed
  | twinAliveInput
  | heartbeat (p : Fin 2) (m : Heartbeat)
  | frame (h : Hh) (seq pair : Nat) (new : Bool) (data : List Byte)
  | commitMark (h : Hh) (seq count digest : Nat)
  | pwAck (h : Hh) (seq : Nat)
  | bulk (cpa : Nat) (data : List Byte)
  | regs (m : Mirror)
  | yield (seqs : Vector Nat 16)
  | pwTakeover (a : Agent)
  | pwBulkGo (a : Agent) (v : Nat)
  | standbyResync
  /- reset and start-up -/
  | powerOn (also : Nat := 0)
  | powerLoss
  | resetPin (also : Nat)
  | porchReset (c : PorchCause) (also : Nat := 0)
  | watchdogExpiry (also : Nat := 0)
  | houseCriticalError (also : Nat := 0)
  | thermalTrip (also : Nat := 0)
  | jtagTrst
  | bootStageAdvance (inp : BootInput)
  | bootFwGo (a : Agent) (v : Nat) (img : Option (List Byte))
  | rstReqGo (a : Agent) (v : Nat)
  | blockResetIdle (us : Nat)
  | resetQuiesceTimeout
  | vfFunctionLevelReset (h : Hh)
  /- terrace -/
  | portTrainingDone (p : PortId)
  | portTrainingTimeout (p : PortId)
  | portRetrainDelay (p : PortId)
  | helloPeriod (p : PortId)
  | hello (p : PortId) (m : Hello) (pk : Packet := .bare 0x10 16)
  | helloWaitTimeout (p : PortId)
  | helloMissed (p : PortId)
  | trWrite (p : Fin 16) (pk : Packet) (fail : Option Nat)
  | trAck (p : Fin 16) (pk : Packet)
  | trNotify (p : Fin 16) (pk : Packet)
  | fence (p : Fin 16) (fenced claimant : Nat) (pk : Packet := .bare 0x11 0)
  | fenceAck (p : Fin 16) (fenced claimant : Nat) (pk : Packet := .bare 0x12 0)
  | routeClaim (p : Fin 16) (fenced claimant : Nat) (pk : Packet := .bare 0x13 0)
  | fenceLapse (fenced claimant : Nat) (claim : Bool := false)
  | trSqTailWrite (a : Agent) (h : Hh) (v : Nat)
  | sqWrite (h : Hh)
  | sqWriteSealed (h : Hh)
  | ackTimeout (h : Hh) (tag : Nat)
  | trSqResume (a : Agent) (h : Hh)
  | trRouteWrite (a : Agent) (d : Fin 4096) (v : Nat) (claimed : Bool)
  /- porch -/
  | porchBar2Read (a : Agent) (off size : Nat)
  | porchBar2Write (a : Agent) (off : Nat) (data : List Byte) (fail : Option Nat := none)
  | porchAtomicOp (a : Agent)
  /- Hearth -/
  | hearthTick (m : HearthReading)
  | auditRead (s : Site) (ok : Bool)
  | coolantSample (inlet outlet : Option Nat)
  | hePdreqGo (a : Agent) (v : Nat)
  | powerDomainSwitch
  | epochMark (a : Agent)
  | epochPeriod
  /- doorbells and timers -/
  | householdTick (t : Fin 16)
  | dbRaise (a : Agent) (src : Nat)
  | doorbellDelivery
  | dbEoi (a : Agent) (tgt src : Nat)
  /- images -/
  | loadDeed (a : Agent) (img : Option (List Byte))
  | loadLease (a : Agent) (h : Hh) (img : Option (List Byte))
  | retireLease (a : Agent) (h : Hh)
  /- Strongbox -/
  | sbGo (a : Agent)
  | sbResume (a : Agent)
  | sbAbort (a : Agent)
  | sbHreqGo (a : Agent) (h : Hh) (va : Nat)
  | sbHreqResume (a : Agent) (h : Hh)
  | sbHreqAbort (a : Agent) (h : Hh)
  | strongboxDispatch
  | smul
  | ecdh
  | sign
  | verify
  | modexp
  | sha384
  | loadcurve
  | attest
  | strongboxComplete (fail : Option Nat)
  | strongboxSuspendTimeout
  | strongboxPreempt
  /- management -/
  | smbusBlockRead (off size : Nat)
  | smbusWrite (off : Nat)
  /- control core, base instructions -/
  | integerInstruction (r : Rg) (op : IntOp) (w32 : Bool) (xd xa : XReg) (b : IntSrc)
  | floatingPointInstruction (r : Rg) (op : FpOp)
  | controlFlowInstruction (r : Rg) (op : CfOp)
  | xsqRecordIssue (k : Gl)
  | clusterSelfTestEnd (s : Site) (pass : Bool)
  | porchLinkUp (speed width : Nat) (flit : Bool)
  | porchConfigurationWrite (c : PorchCfg)
  | crcErrorReplay (p : PortId) (fault : Bool := false)
deriving DecidableEq, Repr

end Sys2Proof
end

