-- ==== Sys2Proof/Decode.lean ====
section
/-! DEFINITION. Words of the table of operations. The table gives none of its rows any bits: its commands arrive
as accesses, packets, queue entries and events, not as words (log 13). -/

namespace Sys2Proof

/-- The command that a word of the table spells: no row has bits, so none. -/
def decodeTableWord (nbits w : Nat) : Option Instr :=
  match nbits, w with
  | _, _ => none

end Sys2Proof
end

