-- ==== Sys2Proof/Machine/StCluster.lean ====
section
/-! DEFINITION. What one cluster site, one household's share of a cluster and one region hold
(R96-R119, R120-R152, R154-R221, R223-R275, R276-R303). Plain data. -/

namespace Sys2Proof.Machine

/-- Sparse memory in numbers: rising keys, no zero value listed. -/
abbrev NMap := List (Nat × Nat)
/-- Byte memory: rising addresses, no zero byte listed. -/
abbrev BMap := List (Nat × Byte)

/-- The 32-byte command record (R120). -/
structure Record where
  opcode : Nat
  ctrl : Nat
  wait : Nat
  signal : Nat
  mod : Nat
  opa : Nat
  opb : Nat
  opd : Nat
deriving DecidableEq, Repr

/-- A geometry slot (R125). `dense` is the value of slot 0, whose strides follow from the operand. -/
structure Geo where
  dense : Bool
  eLog : Nat
  inner : Nat
  c1 : Nat
  c2 : Nat
  s1 : Int
  s2 : Int
  sealOff : Int
deriving DecidableEq, Repr

/-- Slot 0 of R125. -/
def Geo.slot0 : Geo := ⟨true, 2, 1024, 1, 1, 0, 0, 4096⟩

/-- A tensor operand after its form, geometry and handle are resolved (R124). -/
structure Tensor where
  base : Nat
  inner : Nat
  c1 : Nat
  c2 : Nat
  e : Nat
  s1 : Int
  s2 : Int
deriving DecidableEq, Repr

/-- A resolved operand (R123). A cellar operand carries its seal base (R459); a pantry operand the
64-bit field that a hand-off pushes (R142). -/
inductive Opnd where
  | none
  | pantry (t : Tensor) (field : Nat)
  | cellar (t : Tensor) (sealBase : Nat)
  | desc (va : Nat)
  | imm (v : Nat)
deriving DecidableEq, Repr

/-- Where a command stands in its queue. -/
inductive Phase where
  | queued
  | running
  /-- its effect is over and it waits to complete with its status -/
  | done
  /-- stopped at a block by a translation or permission fault, its status word not yet written -/
  | faulted
  /-- suspended (R137), its status word written -/
  | suspended
  /-- resumed behind another command of its unit, to go on when that has ended (R283) -/
  | resumed
deriving DecidableEq, Repr

/-- A schedule check bound to a record (R148). -/
structure SchedCheck where
  produce : Bool
  token : Nat
  gen : Nat
deriving DecidableEq, Repr

/-- A command in an engine queue. -/
structure Entry where
  cmd : Record
  hh : Hh
  seq : Nat
  /-- the control core that pushed it; none for an XSQ, PSQ or prologue record -/
  core : Option Rg
  /-- index of the execute record from XSQ_BASE, 0xFFFF_FFFF for a pushed command (R138) -/
  recIdx : Nat
  /-- naming mode sampled at acceptance (R129) -/
  handle : Bool
  /-- issued by the XSQ -/
  fromXsq : Bool
  /-- operand forms popped from hand-off queues, in place of KIND 6 fields (R129, R142) -/
  popA : Bool
  popB : Bool
  popD : Bool
  /-- timed ACLK at which it starts, in timed mode (R145) -/
  t0 : Option Nat
  /-- accepted after a COMMIT that has not ended (R318 step 1) -/
  late : Bool
  /-- a prologue record of a pool switch (R333) -/
  prologue : Bool
  /-- a record that the PSQ issued, with its private geometry (R263) -/
  fromPsq : Bool
  checks : List SchedCheck
  phase : Phase
  opA : Opnd
  opB : Opnd
  opD : Opnd
  /-- block, limb or part reached, where a resumed command starts -/
  pos : Nat
  status : Nat
  offset : Nat
  /-- FLAGS.OPERAND: 0 none, 1 A, 2 B, 3 D -/
  operand : Nat
  /-- value of the summary it delivers (R212), none once delivered or when it has none -/
  summary : Option Nat
  /-- a VXE command that has met a full summary queue (R116) -/
  sumStalled : Bool
  /-- its status word has been handed to the ring -/
  worded : Bool
  /-- a deadline word has been written for it (R231) -/
  missed : Bool
  /-- what the command read at its start and keeps while suspended: descriptors, a key header -/
  held : List Byte
  /-- it failed a key check, which aborts an open group whatever the status (R46, R235) -/
  keyFail : Bool
  /-- a twiddle mismatch of this command has had its retry (R190) -/
  retried : Bool
deriving DecidableEq, Repr

/-- An engine queue of a cluster for one household (R133). -/
structure EQueue where
  ents : List Entry
  /-- next SEQ of the series (R106) -/
  next : Nat
  halted : Bool
  lastStatus : Nat
  doneSeq : Nat
deriving DecidableEq, Repr

def EQueue.empty : EQueue := ⟨[], 1, false, 0, 0⟩

/-- A semaphore (R135). -/
structure Sem where
  count : Nat
  ovf : Bool
deriving DecidableEq, Repr

/-- States of a key window (R233). -/
inductive KwState where
  | closed | opened | bound | filled | failed
deriving DecidableEq, Repr

/-- A key window (R233). -/
structure KWin where
  state : KwState
  status : Nat
  tag : Nat
  log2n : Nat
  level : Nat
  g : Nat
  /-- first pantry address, and length in blocks -/
  base : Nat
  blocks : Nat
  /-- blocks written so far -/
  fill : Nat
  /-- blocks (offsets in the window) that compute commands have read since FILLED -/
  seen : List Nat
deriving DecidableEq, Repr

def KWin.shut : KWin := ⟨.closed, 0, 0, 0, 0, 0, 0, 0, 0, []⟩

/-- A modulus set (R159). -/
structure MSet where
  valid : Bool
  cols : List Nat
  rows : List Nat
deriving DecidableEq, Repr

/-- A program slot of the VXE (R207): its 32 words. -/
structure Prog where
  valid : Bool
  words : List Nat
deriving DecidableEq, Repr

/-- An open loop of the XSQ (R143): index of the first record of the body, passes still to run after
this one. -/
structure Loop where
  body : Nat
  left : Nat
deriving DecidableEq, Repr

/-- A control record that has acted and waits to complete until its status word is in the ring (R138-R140). -/
structure XsqDue where
  opcode : Nat
  status : Nat
  notify : Bool
  seq : Nat
  idx : Nat
deriving DecidableEq, Repr

/-- The execute sequencer (R143-R148, R152). -/
structure Xsq where
  entry : Nat
  base : Nat
  run : Bool
  pc : Nat
  suspended : Bool
  lastStatus : Nat
  checks : Nat
  /-- records processed since START (R138) -/
  processed : Nat
  loops : List Loop
  /-- checks waiting for the next engine record -/
  pend : List SchedCheck
  /-- a HALT record has issued and its word is still to be written -/
  halting : Bool
  /-- that word waits for the ring (R139) -/
  worded : Bool
  /-- the record whose word keeps the sequencer -/
  due : Option XsqDue
  /-- cached 1 KiB lines of the program: virtual address divided by 1,024, and the 1,024 bytes (R143) -/
  cache : List (Nat × List Byte)
  /-- timed ACLK of the issue of the previous non-CHECK record (R145) -/
  tPrev : Nat
  /-- timed ACLK at which each compute engine accepts its next record (R146) -/
  accept : Vector Nat 5
  /-- generations as XSQ_GEN shows them, and every advance since START: timed ACLK, token, and whether the
  generation has taken it (R148) -/
  gen : Vector Nat 64
  adv : List (Nat × Nat × Bool)
deriving DecidableEq, Repr

def Xsq.init : Xsq :=
  ⟨0, 0, false, 0, false, 0, 0, 0, [], [], false, false, none, [], 0, .replicate 5 0, .replicate 64 0, []⟩

/-- The polynomial sequencer (R257-R275). -/
structure Psq where
  enable : Bool
  doneSem : Nat
  trigSem : Nat
  base : Nat
  next : Nat
  job : Nat
  busy : Bool
  suspended : Bool
  failed : Bool
  lastStatus : Nat
  limb : Nat
  /-- the job record in progress -/
  jobRec : List Byte
  /-- records of the limb in progress that have been issued -/
  issued : Nat
  /-- the last record of the job has been issued -/
  allIssued : Bool
  /-- the job's status word waits for the ring -/
  worded : Bool
  /-- the job has passed the checks of R261 -/
  checked : Bool
  /-- the table is expanded for the limb in progress -/
  expanded : Bool
  /-- SEQ of the job's last MM once it has been issued, and that MM has completed (R264) -/
  lastSeq : Nat
  lastDone : Bool
  /-- event flags of PS_EVENT, which are the household's (R275) -/
  evFail : Bool
  evSusp : Bool
deriving DecidableEq, Repr

def Psq.init : Psq :=
  { enable := false, doneSem := 0, trigSem := 0, base := 0, next := 0, job := 0, busy := false, suspended := false,
    failed := false, lastStatus := 0, limb := 0, jobRec := [], issued := 0, allIssued := false, worded := false,
    checked := false, expanded := false, lastSeq := 0, lastDone := false, evFail := false, evSusp := false }
/-- A job stands before its first limb (R264, R265). -/
def Psq.restart (p : Psq) : Psq :=
  { p with limb := 0, issued := 0, allIssued := false, worded := false, checked := false, expanded := false, lastDone := false }

/-- What one household holds on one cluster (R125, R133, R135, R142, R159, R206, R207, R233). -/
structure HSet where
  queues : Vector EQueue 5
  geo : Vector (Vector Geo 16) 5
  sems : Vector Sem 16
  hqs : Vector (List Nat) 8
  wins : Vector KWin 4
  msets : Vector MSet 8
  progs : Vector Prog 16
  consts : Vector (Option (List Nat)) 76
  xsq : Xsq
  psq : Psq
  /-- NTE root table prepared (R186) -/
  roots : Bool
  /-- ST_DEFDL: the default deadline of the household's STU streams, in units of 64 ACLK (R227, R254) -/
  defDl : Nat
  /-- a pool member that has saved state here (R331) -/
  ran : Bool
  /-- accumulator lines in its save area (R331) -/
  lines : List Nat
deriving DecidableEq, Repr

def MSet.invalid : MSet := ⟨false, [], []⟩
def Prog.invalid : Prog := ⟨false, []⟩

def HSet.init : HSet :=
  { queues := .replicate 5 EQueue.empty, geo := .replicate 5 (.replicate 16 Geo.slot0),
    sems := .replicate 16 ⟨0, false⟩, hqs := .replicate 8 [], wins := .replicate 4 KWin.shut,
    msets := .replicate 8 MSet.invalid, progs := .replicate 16 Prog.invalid,
    consts := .replicate 76 none, xsq := Xsq.init, psq := Psq.init, roots := false, defDl := 0x100, ran := false, lines := [] }

/-- Shelf states (R280), coded as PN_SHELF.STATE. -/
inductive Shelf where
  | off | waking | on | retain
deriving DecidableEq, Repr

/-- Why a cluster stands frozen (R144). -/
inductive FreezeCause where
  | handoffEmpty | cacheMiss | landingBusy | summaryFull | handoffFull | ringFull | fault
deriving DecidableEq, Repr

/-- A pantry block written by a timed record: the timed ACLK of its readiness and what it held before
(R146, R147). -/
structure Inflight where
  ready : Nat
  addr : Nat
  bytes : List Byte
  slotSeal : Nat
deriving DecidableEq, Repr

/-- An accumulator entry written by a timed record: the timed ACLK before which no result comes and that from which it
is readable, and what the entry held before (R146, R161). -/
structure AccFly where
  start : Nat
  ready : Nat
  entry : Nat
  old : Nat
deriving DecidableEq, Repr

/-- MXA registers (R182). -/
structure MxRegs where
  ramp : Nat
  /-- length of the ramp in progress: that of RAMP when it began (R182) -/
  rampNow : Nat
  /-- ramp step in progress and whether it rises or falls; with neither the array is at rest at step 0 and in full
  activity at step 7 (R174) -/
  step : Nat
  rampUp : Bool
  rampDown : Bool
  shape : Nat
  format : Nat
  retries : Nat
  fails : Nat
  nonfinite : Nat
  accCorrected : Nat
  lastSeq : Nat
  lastGroup : Nat
  retryPassed : Bool
  lastPos : Nat
  evAccCorr : Bool
  evFail : Bool
  evRetry : Bool
deriving DecidableEq, Repr

/-- NTE registers (R200). -/
structure NtRegs where
  limbsDone : Nat
  chainPos : Nat
  retries : Nat
  fails : Nat
  lastSeq : Nat
  evFail : Bool
  evRetry : Bool
deriving DecidableEq, Repr

/-- PME registers (R201). -/
structure PmRegs where
  lastG : Nat
  errSeq : Nat
  errPos : Nat
  evIdx : Bool
deriving DecidableEq, Repr

/-- VXE registers (R221). -/
structure VxRegs where
  slot : Nat
  sent : Nat
  stalls : Nat
  evAccFail : Bool
  evSumStall : Bool
deriving DecidableEq, Repr

/-- A request of a stream (R223): its place in the cellar, the block of the transfer that it serves, and its number in the
rule of R226: among the requests of a stream unit, among the blocks of a larder. -/
structure Request where
  cpa : Nat
  bytes : Nat
  blk : Nat
  rank : Nat
deriving DecidableEq, Repr

/-- A stream of the STU, the larder or the MVE (R223-R226): the command it belongs to by household, SEQ and engine code, the
ACLK of its start, its deadline window in ACLK, the number of its requests (of a larder: its blocks), the first block for
which none has been made, the requests still to issue and those outstanding. -/
structure Strm where
  hh : Hh
  seq : Nat
  eng : Nat
  write : Bool
  start : Nat
  window : Nat
  total : Nat
  upto : Nat
  left : List Request
  out : List Request
deriving DecidableEq, Repr

/-- STU registers (R254). -/
structure StRegs where
  dlSeq : Nat
  dlCount : Nat
  evDlMiss : Bool
  evWinFail : Bool
  streams : List Strm
deriving DecidableEq, Repr

/-- Pantry registers (R302). -/
structure PnRegs where
  zeroBusy : Bool
  zeroCount : Nat
  apBase : Nat
  evShelfRef : Bool
  evZeroDone : Bool
deriving DecidableEq, Repr

/-- Lost-clear counters of a cluster's blocks (R13): common, MXA, NTE, PME, VXE, STU, PSQ, pantry. -/
abbrev SiteLost := Vector Nat 8

/-- One physical cluster site (R51). -/
structure SiteSt where
  retired : Bool
  /-- failed or retired while its replacement is still to come (R340) -/
  dead : Bool
  /-- status of that failure, 0 when none caused it (R359) -/
  failStatus : Nat
  /-- household served, none for 0x1F -/
  served : Option Hh
  /-- held in reset (R59, R366) -/
  inReset : Bool
  /-- cause of a freeze, and the unit that waits: 0 to 3 a compute engine, 5 the XSQ -/
  frozen : Option (FreezeCause × Nat)
  /-- CL_QCTL.ENGINE -/
  qctl : Nat
  mx : MxRegs
  nt : NtRegs
  pm : PmRegs
  vx : VxRegs
  st : StRegs
  pn : PnRegs
  lost : SiteLost
  shelves : Vector Shelf 4
  mask : Nat
  pantry : BMap
  seals : NMap
  acc : NMap
  /-- accumulator lines written since the last zeroing (R331) -/
  accLines : List Nat
  inflight : List Inflight
  /-- accumulator entries of timed records, newest first -/
  accFly : List AccFly
  /-- the pantry blocks most recently written with their lengths, newest first (R413) -/
  recent : List (Nat × Nat)
  /-- stall counts by engine and cause (R417): the live count and the count of the last marker -/
  stallLive : Vector (Vector Nat 10) 8
  /-- units that have completed a command since the last tick; the model's own (log 7) -/
  worked : Vector Bool 8
  stallLatched : Vector (Vector Nat 10) 8
  /-- a self-test has been asked for or runs (R412) -/
  testing : Bool
  /-- it has passed its self-test since the package reset (R63) -/
  testOk : Bool
  /-- state of each household on this cluster (R133) -/
  sets : Vector HSet 16
deriving DecidableEq, Repr

def MxRegs.init : MxRegs := ⟨0x20, 0x20, 0, false, false, 0, 0, 0, 0, 0, 0, 0, 0, false, 0, false, false, false⟩
def NtRegs.init : NtRegs := ⟨0, 0, 0, 0, 0, false, false⟩
def PmRegs.init : PmRegs := ⟨0, 0, 0, false⟩
def VxRegs.init : VxRegs := ⟨0, 0, 0, false, false⟩
def StRegs.init : StRegs := ⟨0, 0, false, false, []⟩
def PnRegs.init : PnRegs := ⟨false, 0, 0, false, false⟩

/-- A site right after package reset (R151, R182, R200, R201, R221, R254, R275, R302). -/
def SiteSt.init : SiteSt :=
  { retired := false, dead := false, failStatus := 0, served := none, inReset := true, frozen := none, qctl := 0,
    mx := MxRegs.init, nt := NtRegs.init, pm := PmRegs.init, vx := VxRegs.init, st := StRegs.init,
    pn := PnRegs.init, lost := .replicate 8 0, shelves := .replicate 4 .off,
    mask := 0xF, pantry := [], seals := [], acc := [], accLines := [], inflight := [], accFly := [], recent := [],
    stallLive := .replicate 8 (.replicate 10 0), worked := .replicate 8 false, stallLatched := .replicate 8 (.replicate 10 0),
    testing := false, testOk := true, sets := .replicate 16 HSet.init }

/-- The queue of an MVE or a larder (R133, R238, R283). -/
structure RQueue where
  ents : List Entry
  next : Nat
  doneSeq : Nat
  /-- households whose commands are halted -/
  halted : Vector Bool 16
  /-- geometry slots of each household -/
  geo : Vector (Vector Geo 16) 16
  /-- HOUSEHOLD of LD_QCTL or MV_QCTL -/
  qctl : Nat
  streams : List Strm
  /-- the unit has completed a command since the last tick; the model's own (log 7) -/
  worked : Bool
deriving DecidableEq, Repr

def RQueue.init : RQueue :=
  ⟨[], 1, 0, .replicate 16 false, .replicate 16 (.replicate 16 Geo.slot0), 0, [], false⟩

/-- One tile register (R108): shape and its 16 rows of 256 bytes. -/
structure Tile where
  conf : Bool
  rowsM1 : Nat
  bprwM1 : Nat
  live : Bool
  rows : Vector (Vector Byte 256) 16
deriving DecidableEq, Repr

/-- A set of trap CSRs (R102). TRAP_CAUSE by its fields. -/
structure TrapSet where
  sub : Nat
  prev : Nat
  row : Nat
  kind : Nat
  code : Nat
  addr : Word
  pc : Word
  vec : Word
deriving DecidableEq, Repr

/-- TRAP_ROUTE (R102). -/
structure TrapRoute where
  svc : Bool
  brk : Bool
  illegal : Bool
  status : Bool
  memory : Bool
deriving DecidableEq, Repr

/-- A summary (R115). -/
structure Summary where
  value : Nat
  seq : Nat
  cluster : Nat
  tag : Nat
  status : Nat
deriving DecidableEq, Repr

/-- A summary queue with CC_SUMQ_h (R115, R119). -/
structure SumQ where
  ents : List Summary
  thresh : Nat
  full : Bool
deriving DecidableEq, Repr

/-- A line of a control core's caches (R96, R97): its CPA divided by 64, its bytes and dirty bytes. -/
structure CLine where
  line : Nat
  bytes : List Byte
  dirty : List Bool
deriving DecidableEq, Repr

/-- CC_TRAP (R117). -/
structure CcTrap where
  tile : Nat
  ctx : Nat
  sub : Nat
  row : Nat
  count : Nat
  kind : Nat
  code : Nat
deriving DecidableEq, Repr

/-- A control core (R96-R119). -/
structure Core where
  x : Vector Word 32
  f : Vector Word 32
  pc : Word
  level : Nat
  ctx : Nat
  sup : TrapSet
  mon : TrapSet
  route : TrapRoute
  tiles : Vector Tile 8
  /-- a TDEF waits (R111, R117) -/
  tdefWait : Bool
  /-- the instruction at the pc is a tile instruction that stalled and has not retired (R111) -/
  tileStall : Bool
  haltReq : Bool
  halted : Bool
  /-- one instruction may run although HALTED (R117 STEP) -/
  stepArmed : Bool
  trap : CcTrap
  rejStatus : Nat
  rejCtx : Nat
  rejCount : Nat
  lost : Nat
  /-- the doorbell controller has delivered an interrupt that the core has not taken (R425) -/
  irq : Bool
  cache : List CLine
  sumqs : Vector SumQ 16
deriving DecidableEq, Repr

def Tile.init : Tile := ⟨false, 0, 0, false, .replicate 16 (.replicate 256 0)⟩
def TrapSet.init : TrapSet := ⟨0, 0, 0, 0, 0, 0, 0, 0⟩

/-- A control core right after reset (R96, R102, R108, R117, R119). -/
def Core.init : Core :=
  { x := .replicate 32 0, f := .replicate 32 0, pc := 0, level := 2, ctx := 16, sup := TrapSet.init,
    mon := TrapSet.init, route := ⟨false, false, false, false, false⟩, tiles := .replicate 8 Tile.init,
    tdefWait := false, tileStall := false, haltReq := false, halted := false, stepArmed := false,
    trap := ⟨0, 0, 0, 0, 0, 0, 0⟩, rejStatus := 0, rejCtx := 0, rejCount := 0, lost := 0, irq := false,
    cache := [], sumqs := .replicate 16 ⟨[], 1, false⟩ }

/-- Subscriber of a STREAM (R239): cluster of the region, window, and whether it still takes blocks. -/
structure Subscriber where
  cl : Nat
  win : Nat
  live : Bool
deriving DecidableEq, Repr

/-- A larder slot (R237, R255). -/
structure LdSlot where
  active : Bool
  hh : Nat
  subs : Nat
  bound : Nat
  left : Nat
  seq : Nat
deriving DecidableEq, Repr

/-- An announcement for pre-expansion (R245), with the key header as PREX read it. -/
structure Announce where
  hh : Hh
  header : List Byte
  /-- epoch markers since its PREX -/
  marks : Nat
  /-- virtual address of the key header, and of the expansion area -/
  key : Nat
  area : Nat
  /-- expansion finished -/
  done : Bool
deriving DecidableEq, Repr

/-- Larder registers (R255) and hallway counts (R256). -/
structure LdRegs where
  dlMiss : Nat
  slots : Vector LdSlot 4
  regenKw : Nat
  short : Nat
  mmStatus : Nat
  mmHh : Nat
  mmCluster : Nat
  mmCount : Nat
  mmSeq : Nat
  evPrexDrop : Bool
  evPrexDone : Bool
  evDlMiss : Bool
  evMismatch : Bool
  ann : List Announce
  hwMcast : Nat
  hwBlocks : Nat
deriving DecidableEq, Repr

def LdRegs.init : LdRegs :=
  ⟨0, .replicate 4 ⟨false, 0, 0, 0, 0, 0⟩, 0, 0, 0, 0, 0, 0, 0, false, false, false, false, [], 0, 0⟩

/-- One region (R49): control core, larder, MVE, hallway, landing buffers. -/
structure RegionSt where
  inReset : Bool
  core : Core
  larder : RQueue
  mve : RQueue
  ld : LdRegs
  ldLost : Nat
  /-- cluster of the region whose PME command holds LB0 or LB1 (R149) -/
  landing : Vector (Option (Fin 34)) 2
  /-- PME commands that have found no free buffer, in order of arrival: cluster, household and SEQ (R149) -/
  lbWait : List (Fin 34 × Hh × Nat)
  /-- stall counts of the larder and of the MVE (R417), live and at the last marker -/
  ldStall : Vector Nat 10
  ldLatched : Vector Nat 10
  mvStall : Vector Nat 10
  mvLatched : Vector Nat 10
deriving DecidableEq, Repr

def RegionSt.init : RegionSt :=
  ⟨false, Core.init, RQueue.init, RQueue.init, LdRegs.init, 0, .replicate 2 none, [], .replicate 10 0, .replicate 10 0,
   .replicate 10 0, .replicate 10 0⟩

end Sys2Proof.Machine
end

