-- ==== Sys2Proof/Machine/StHouse.lean ====
section
/-! DEFINITION. What the house holds for the package and for each household: images in force, household
registers, pools, doorbells, the cellar and its controllers (R63, R70-R95, R130-R153, R289-R337,
R419-R428). Plain data. -/

namespace Sys2Proof.Machine

/-- Grade and identity records of manufacture (R3, R63, R81, R373, R435); no command changes them. -/
structure Attic where
  part : Nat
  stepping : Nat
  package : Nat
  /-- bit k: site k is fused off -/
  fused : Nat
  serial : Nat
  /-- the four signer digests and their revocation bits -/
  signers : Vector Nat 4
  revoked : Vector Bool 4
  fwFloor : Nat
  /-- attestation scalar (R435) -/
  attestKey : Nat
deriving DecidableEq, Repr

/-- Grant of one household (R73). -/
structure Grant where
  enabled : Bool
  pool : Option (Fin 8)
  vecBase : Nat
  vecCount : Nat
  excl : Nat
  floor : Nat
  gib : Nat
  signer : Nat
deriving DecidableEq, Repr

/-- A pool of the deed (R73). -/
structure PoolDef where
  enabled : Bool
  /-- quantum in units of 100 µs, the default resolved -/
  quantum : Nat
  shelfMask : Nat
  clusters : Nat
  members : Nat
  weights : Vector Nat 16
deriving DecidableEq, Repr

/-- A timer claim (R73, R77). -/
structure TimerClaim where
  timer : Nat
  func : Nat
  period : Nat
deriving DecidableEq, Repr

/-- A routing entry (R73, R77). -/
structure RouteEntry where
  source : Nat
  targets : Nat
deriving DecidableEq, Repr

/-- BALLAST of the deed (R73), defaults resolved. -/
structure Ballast where
  enable : Nat
  mode : Nat
  band : Nat
  setpoint : Nat
  slew : Nat
  outlet : Nat
deriving DecidableEq, Repr

/-- A deed in force or parsed (R73). -/
structure Deed where
  terraceId : Nat
  twinId : Nat
  portEnable : Nat
  pwEnable : Nat
  grants : Vector Grant 16
  pools : List PoolDef
  pinmux : List (Nat × Nat)
  timers : List TimerClaim
  /-- (region, buffer, user); none without a LANDING section -/
  landing : Option (List (Nat × Nat × Nat))
  /-- domains set off -/
  powerOff : Vector Bool 64
  pfVecBase : Nat
  pfVecCount : Nat
  routes : List RouteEntry
  ballast : Ballast
  sequence : Nat
  /-- SHA-384 of the signed bytes, as a big-endian number (R70) -/
  digest : Nat
  /-- the pair digest of R356, as a big-endian number -/
  pairDigest : Nat
  raiseFloor : Bool
  /-- the image, which the primary mirrors (R347, R357) -/
  image : List Byte
deriving DecidableEq, Repr

/-- A lease in force or parsed (R77), ROW_LOG2 as given. -/
structure Lease where
  log2n : Nat
  primes : List Nat
  specials : List Nat
  roots : List Nat
  decs : List Nat
  excl : Nat
  usePool : Bool
  mode : Nat
  naming : Nat
  sched : Bool
  rowLog2 : Nat
  shelves : List (Nat × Nat)
  routes : List RouteEntry
  timers : List TimerClaim
  sequence : Nat
  digest : Nat
  /-- the image, which the primary mirrors (R347, R357) -/
  image : List Byte
deriving DecidableEq, Repr

/-- A status word waiting for the ring (R139): its 16 bytes with PHASE still clear, and the command it
belongs to as (unit code, engine code, SEQ), none for a word of no queued command. -/
structure RingWait where
  word : List Byte
  owner : Option (QueueId × Nat)
deriving DecidableEq, Repr

/-- Command registers of a household (R139, R153). -/
structure HhCmd where
  handle : Bool
  cqBase : Nat
  cqEnable : Bool
  cqLog2 : Nat
  cqHead : Nat
  cqTail : Nat
  /-- words held on a ring fault or a full ring, oldest first -/
  cqWait : List RingWait
  /-- the oldest waits on a ring fault (R139) -/
  cqFault : Bool
  dtBase : Nat
  dtValid : Vector Nat 64
  /-- bytes of an entry when its VALID bit was last set (R131) -/
  dtSnap : List (Nat × List Byte)
deriving DecidableEq, Repr

/-- A translated page of 64 KiB: its frame (copy 0 for a transactional page) and rights (R305, R307). -/
structure PageX where
  frame : Nat
  tx : Bool
  x : Bool
  w : Bool
  r : Bool
deriving DecidableEq, Repr

/-- An entry of a translation cache of a household (R309): the unit that holds it, the page, its translation. -/
structure TlbEnt where
  unit : Nat
  page : Nat
  tab : PageX
deriving DecidableEq, Repr

/-- Translation registers of a household (R336). -/
structure HhTrans where
  root : Nat
  valid : Bool
  tlbBusy : Bool
  tlbSpan : Nat
  tlbVa : Nat
  faultStatus : Nat
  faultAgent : Nat
  faultVa : Nat
  /-- what the household's translation caches hold (R309, R310) -/
  tlb : List TlbEnt
deriving DecidableEq, Repr

/-- The transaction group of a household (R312-R323, R336). -/
structure HhTx where
  opened : Bool
  committing : Bool
  replay : Bool
  aborted : Bool
  cause : Nat
  result : Nat
  seq : Nat
  journal : Nat
  /-- frame pairs written, oldest first, each with the NEW selector value -/
  writeSet : List (Nat × Bool)
  /-- OPEN writes that wait for the end of a lease replacement (R88), each with its REPLAY, oldest first -/
  waitOpen : List Bool
deriving DecidableEq, Repr

/-- Pool registers of a household (R336). -/
structure HhPool where
  save : Nat
  proCount : Nat
  proVa : Nat
deriving DecidableEq, Repr

/-- A Strongbox request register of a household (R441). -/
structure HhSb where
  pending : Bool
  overrun : Bool
  status : Nat
  va : Nat
  /-- address of the block of the request that waits or runs -/
  block : Nat
  /-- the waiting request came after a COMMIT that has not ended (R318 step 1) -/
  late : Bool
deriving DecidableEq, Repr

/-- A packet sent and not yet acknowledged (R390): tag, offset of its data in the descriptor. -/
structure OutPkt where
  tag : Nat
  offset : Nat
deriving DecidableEq, Repr

/-- A send descriptor in progress (R389, R390): its index modulo 2^32, its 64 bytes, packets sent so far, packets
outstanding. -/
structure SendDesc where
  index : Nat
  raw : List Byte
  next : Nat
  out : List OutPkt
deriving DecidableEq, Repr

/-- Terrace registers of a household (R389-R392, R399). `sqHead` counts modulo 2^32. -/
structure HhTerr where
  sqBase : Nat
  sqEnable : Bool
  sqLog2 : Nat
  sqHalted : Bool
  sqHead : Nat
  sqTail : Nat
  /-- descriptors in progress, oldest first -/
  out : List SendDesc
  nextTag : Nat
  rxEnable : Bool
  rxLast : Nat
  rxFaults : Nat
  rxPeer : Nat
deriving DecidableEq, Repr

/-- A household (R65). -/
structure HhSt where
  lease : Option Lease
  /-- a replacement that takes effect at the next quantum (R91) -/
  nextLease : Option Lease
  cmd : HhCmd
  tr : HhTrans
  tx : HhTx
  pool : HhPool
  sb : HhSb
  terr : HhTerr
  /-- PO_VFWIN_h.BASE (R400) -/
  vfWin : Nat
  vfOn : Bool
  /-- PW_SEQ_h (R360) -/
  mirrored : Nat
  shipped : Nat
deriving DecidableEq, Repr

def HhCmd.init : HhCmd := ⟨false, 0, false, 6, 0, 0, [], false, 0, .replicate 64 0, []⟩
def HhTrans.init : HhTrans := ⟨0, false, false, 0, 0, 0, 0, 0, []⟩
def HhTx.init : HhTx := ⟨false, false, false, false, 0, 0, 0, 0, [], []⟩
def HhTerr.init : HhTerr := ⟨0, false, 6, false, 0, 0, [], 0, false, 0, 0, 0xFFFF⟩
def HhSt.init : HhSt :=
  ⟨none, none, HhCmd.init, HhTrans.init, HhTx.init, ⟨0, 0, 0⟩, ⟨false, false, 0, 0, 0, false⟩, HhTerr.init, 0,
   false, 0, 0⟩

/-- Where a pool switch stands (R331): none, stopping the outgoing household's work, or zeroing the clusters. -/
inductive SwStage where
  | none | stopping | zeroing
deriving DecidableEq, Repr

/-- A pool in service (R329-R337). -/
structure PoolSt where
  switches : Nat
  lastUs : Nat
  /-- a switch in progress, and the household it brings in -/
  stage : SwStage
  next : Option Hh
  /-- household whose quantum runs: none until a member has run, after that member's retirement or loss of the pool -/
  running : Option Hh
  /-- household that ran last, none until a member has run (R337) -/
  last : Option Hh
  /-- remainder of the quantum in units of 10 µs -/
  left : Nat
  /-- quanta given to the running member in this round -/
  given : Nat
  /-- units of 10 µs for which the running member has had no pending work (R329) -/
  idle : Nat
deriving DecidableEq, Repr

def PoolSt.init : PoolSt := ⟨0, 0, .none, none, none, none, 0, 0, 0⟩

/-- A doorbell target (R428). -/
structure DbTgt where
  enable : Bool
  busy : Bool
  active : Nat
deriving DecidableEq, Repr

/-- The doorbell controller (R419-R428). Route masks and LAST are sparse: source to mask with 0 unlisted,
source to LAST with 73 unlisted. -/
structure Doorbell where
  pend : Vector Nat 16
  mask : NMap
  last : NMap
  tgts : Vector DbTgt 74
  delivered : Nat
  merged : Nat
  spurious : Nat
  lost : Nat
deriving DecidableEq, Repr

def Doorbell.init : Doorbell :=
  ⟨.replicate 16 0, [], [], .replicate 74 ⟨true, false, 0⟩, 0, 0, 0, 0⟩

/-- A channel's registers (R304) and the times in µs of its errors of the last second (R296). -/
structure ChanSt where
  ue : Nat
  ce : Nat
  odc : Nat
  scrubs : Nat
  lastUe : Bool
  lastGr : Nat
  tgBusy : Bool
  tgPattern : Nat
  tgMix : Nat
  tgErrors : Nat
  tgLength : Nat
  /-- MIX and LENGTH with which the run in progress started (R300) -/
  tgRunMix : Nat
  tgRunLength : Nat
  ceTimes : List Nat
  ueTimes : List Nat
deriving DecidableEq, Repr

/-- A stack's controller (R304). -/
structure StackSt where
  trained : Bool
  temp : Nat
  auto : Bool
  state : Nat
  channel : Nat
  progress : Nat
  ueLimit : Nat
  ceLimit : Nat
  evRetired : Bool
  evUe : Bool
  evLimit : Bool
  lost : Nat
  chans : Vector ChanSt 32
deriving DecidableEq, Repr

def ChanSt.init : ChanSt := ⟨0, 0, 0, 0, false, 0, false, 0, 0, 0, 0, 0, 0, [], []⟩
def StackSt.init : StackSt :=
  ⟨false, 0, true, 0, 0, 0, 4, 0x400, false, false, false, 0, .replicate 32 ChanSt.init⟩

/-- The cellar (R289-R300). Bytes and poison are keyed by physical place, after the redirection of a
retired channel. -/
structure Cellar where
  mem : BMap
  /-- poisoned 64-byte units, by place divided by 64, rising -/
  poison : List Nat
  stackSts : Vector StackSt 8
  /-- the channel migrating or retired, and whether its migration has ended -/
  retired : Option (Fin 256 × Bool)
  /-- die of a stack of which a second channel has failed, and whether the die fault has been handled (R299) -/
  second : Option (Fin 2 × Bool)
deriving DecidableEq, Repr

/-- What the loader still has to do after an image passed its first checks, or a retire its own (R83, R90-R93): an
image of a deed or of a household's lease that waits for the Strongbox; a new household whose clusters are being zeroed; a lease in force whose clusters are zeroed or wake; a replacement that
waits for a quantum; a retired household whose clusters are being zeroed. -/
inductive LoadJob where
  | verify (h : Option Hh) (img : List Byte)
  | create (h : Hh) (l : Lease)
  | current (h : Hh)
  | quantum (h : Hh)
  | retire (h : Hh)
deriving DecidableEq, Repr

/-- The image loader (R95). -/
structure Loader where
  op : Nat
  src : Bool
  hh : Nat
  addr : Nat
  len : Nat
  busy : Bool
  done : Bool
  overrun : Bool
  status : Nat
  reason : Nat
  sect : Nat
  offset : Nat
  /-- household whose lease is being replaced: its commands wait at queue entry (R88) -/
  waits : Option Hh
  job : Option LoadJob
  /-- sites whose zeroing the operation waits for, as a mask -/
  watch : Nat
  /-- clusters of the lease being applied that had a serving site when it passed its checks, as a mask (R92) -/
  needs : Nat
deriving DecidableEq, Repr

def Loader.init : Loader := ⟨0, false, 0, 0, 0, false, false, false, 0, 0, 0xFF, 0, none, none, 0, 0⟩

end Sys2Proof.Machine
end

