-- ==== Sys2Proof/Machine/Bits.lean ====
section
/-! DEFINITION. Bit fields, byte order, saturation, signed numbers, sparse memory: the helpers the
meanings share. -/

namespace Sys2Proof.Machine

/-- Bits lo to lo + w - 1 of v (R8). -/
def bits (v lo w : Nat) : Nat := v / 2 ^ lo % 2 ^ w
/-- Bit n of v. -/
def bit (v n : Nat) : Bool := v.testBit n
/-- 1 or 0. -/
def b2n (b : Bool) : Nat := if b then 1 else 0
/-- Increment that saturates at the largest value of w bits. -/
def satInc (w v : Nat) : Nat := if v + 1 < 2 ^ w then v + 1 else 2 ^ w - 1
/-- Sum that saturates at the largest value of w bits. -/
def satAdd (w v n : Nat) : Nat := if v + n < 2 ^ w then v + n else 2 ^ w - 1
/-- Increment modulo 2^w. -/
def wrapInc (w v : Nat) : Nat := (v + 1) % 2 ^ w
/-- v with bit n set. -/
def setBit (v n : Nat) : Nat := v ||| 2 ^ n
/-- v with bit n cleared. -/
def clrBit (v n : Nat) : Nat := if v.testBit n then v - 2 ^ n else v
/-- The n low bits of v as a two's-complement number. -/
def sext (n v : Nat) : Int := if v % 2 ^ n < 2 ^ (n - 1) then (v % 2 ^ n : Nat) else ((v % 2 ^ n : Nat) : Int) - 2 ^ n
/-- An integer modulo 2^n as an n-bit word. -/
def wrapTo (n : Nat) (i : Int) : Nat := (i % (2 ^ n : Int)).toNat
/-- Smallest number of parts of size d that cover n. -/
def cdiv (n d : Nat) : Nat := if d = 0 then 0 else (n + d - 1) / d

/-- Little-endian number of a byte list (R8). -/
def leNat : List Byte → Nat
  | [] => 0
  | b :: bs => b.toNat + 256 * leNat bs
/-- The n low bytes of v, little-endian (R8). -/
def leBytes : Nat → Nat → List Byte
  | 0, _ => []
  | n + 1, v => BitVec.ofNat 8 v :: leBytes n (v / 256)
/-- Big-endian number of a byte list. -/
def beNat (bs : List Byte) : Nat := bs.foldl (fun a b => a * 256 + b.toNat) 0
/-- The n low bytes of v, big-endian. -/
def beBytes (n v : Nat) : List Byte := (leBytes n v).reverse
/-- n bytes of a list from offset o, with zeros past its end. -/
def slice (bs : List Byte) (o n : Nat) : List Byte :=
  let p := (bs.drop o).take n
  p ++ List.replicate (n - p.length) 0
/-- Little-endian field of n bytes at offset o. -/
def leAt (bs : List Byte) (o n : Nat) : Nat := leNat (slice bs o n)
/-- bs with the bytes of d written from offset o; the length stays. -/
def overlay (bs : List Byte) (o : Nat) (d : List Byte) : List Byte :=
  bs.take o ++ (d.take (bs.length - o)) ++ bs.drop (o + d.length)

/-- A vector with entry i changed by f. -/
def vmod {α : Type} {n : Nat} (v : Vector α n) (i : Fin n) (f : α → α) : Vector α n :=
  v.set i.val (f (v.get i)) i.isLt

/-- Number as an index below n, none when it is not. -/
def fin? (n v : Nat) : Option (Fin n) := if h : v < n then some ⟨v, h⟩ else none

/-- First index with p, in rising order. -/
def findFin (n : Nat) (p : Fin n → Bool) : Option (Fin n) := (List.finRange n).find? p

/-- The word of n bits whose bit i is p i. -/
def maskOf (n : Nat) (p : Nat → Bool) : Nat := ((List.range n).filter p).foldl (fun a i => a + 2 ^ i) 0

/-- Number of set bits among the n low bits. -/
def popCount (n v : Nat) : Nat := ((List.range n).filter (fun i => v.testBit i)).length

/- Sparse maps with rising keys and a default that is never listed. -/

/-- Value at a key, d when the key is not listed. -/
def spGet {α : Type} (d : α) : List (Nat × α) → Nat → α
  | [], _ => d
  | (k, v) :: m, a => if k = a then v else if a < k then d else spGet d m a

/-- Map with key a set to v: the entry is dropped when v is the default, so the form stays canonical. -/
def spSet {α : Type} [DecidableEq α] (d : α) : List (Nat × α) → Nat → α → List (Nat × α)
  | [], a, v => if v = d then [] else [(a, v)]
  | (k, w) :: m, a, v =>
    if k = a then (if v = d then m else (a, v) :: m)
    else if a < k then (if v = d then (k, w) :: m else (a, v) :: (k, w) :: m)
    else (k, w) :: spSet d m a v

/-- Keys rise strictly from lo on, and no default is listed. -/
def spWfFrom {α : Type} [DecidableEq α] (d : α) : Nat → List (Nat × α) → Bool
  | _, [] => true
  | lo, (k, v) :: m => decide (lo ≤ k) && decide (v ≠ d) && spWfFrom d (k + 1) m

/-- The canonical form of a sparse map. -/
def spWf {α : Type} [DecidableEq α] (d : α) (m : List (Nat × α)) : Bool := spWfFrom d 0 m

/-- Entries whose key satisfies p. -/
def spKeep {α : Type} (p : Nat → Bool) (m : List (Nat × α)) : List (Nat × α) := m.filter (fun e => p e.1)

/-- n values from address a. -/
def spRead {α : Type} (d : α) (m : List (Nat × α)) (a n : Nat) : List α :=
  (List.range n).map (fun i => spGet d m (a + i))

/-- Values written from address a on. -/
def spWrite {α : Type} [DecidableEq α] (d : α) (m : List (Nat × α)) (a : Nat) : List α → List (Nat × α)
  | [] => m
  | v :: vs => spWrite d (spSet d m a v) (a + 1) vs

/-- A number kept in a rising list, without repeats. -/
def insNat : List Nat → Nat → List Nat
  | [], a => [a]
  | k :: m, a => if k = a then k :: m else if a < k then a :: k :: m else k :: insNat m a

/-- a^e mod m, for m ≥ 1. -/
def powMod (a : Nat) (e : Nat) (m : Nat) : Nat := go 4096 a e 1 % m
where
  /-- square and multiply, with fuel for 4,096-bit exponents -/
  go : Nat → Nat → Nat → Nat → Nat
    | 0, _, _, r => r
    | f + 1, b, e, r => if e = 0 then r else go f (b * b % m) (e / 2) (if e % 2 = 1 then r * b % m else r)

/-- Number of bits of v. -/
def bitLen (v : Nat) : Nat := if v = 0 then 0 else Nat.log2 v + 1

/-- The n low bits of k in reverse order (R19). -/
def bitRev : Nat → Nat → Nat
  | 0, _ => 0
  | n + 1, k => (k % 2) * 2 ^ n + bitRev n (k / 2)

/-- Inverse of a modulo a prime q. -/
def invMod (a q : Nat) : Nat := powMod (a % q) (q - 2) q

end Sys2Proof.Machine
end

