-- ==== Sys2Proof/Machine/StSystem.lean ====
section
/-! DEFINITION. What the package holds outside its clusters, regions and households: the fault log, the
pair and the party wall, the terrace, the porch, reset and start-up, the Hearth, the Strongbox, and what the
package has sent (R338-R456). Plain data. -/

namespace Sys2Proof.Machine

/-- A fault-log entry (R358, R359). -/
structure LogEnt where
  ms : Nat
  event : Nat
  phys : Nat
  status : Nat
  hh : Nat
  unit : Nat
deriving DecidableEq, Repr

/-- Fail-operational registers (R359). -/
structure FoSt where
  log : Vector LogEnt 64
  head : Nat
  replaced : Nat
  lastUs : Nat
  degraded : Bool
  regionFaults : Nat
  degrade : Bool
  cluster : Nat
deriving DecidableEq, Repr

def LogEnt.empty : LogEnt := ⟨0, 0, 0x3F, 0, 0, 0⟩
def FoSt.init : FoSt := ⟨.replicate 64 LogEnt.empty, 0, 0, 0, false, 0, false, 0⟩

/-- Roles of a package (R346), coded as PW_STAT.ROLE. -/
inductive Role where
  | solo | primary | standby | deposed | survivor
deriving DecidableEq, Repr

/-- A frame received for a set that its COMMIT_MARK has not closed (R349). -/
structure SetFrame where
  hh : Nat
  seq : Nat
  pair : Nat
  new : Bool
deriving DecidableEq, Repr

/-- A committed set on its way to the standby (R349): its sequence, its frames with the NEW values, and whether it has
been fully sent: its mark leaves when every frame has been delivered (R393). -/
structure ShipSet where
  seq : Nat
  frames : List (Nat × Bool)
  sent : Bool
deriving DecidableEq, Repr

/-- Where a takeover stands (R354): no takeover, or the fence waits for the neighbours of these ports. -/
inductive TakeState where
  | none
  | fencing (fenced : Nat) (ports : List Nat)
deriving DecidableEq, Repr

/-- The pair and the party wall (R346-R360, R393). -/
structure PwSt where
  role : Role
  paired : Bool
  linkUp : Bool
  pinAlive : Bool
  synced : Bool
  missed : Nat
  twinId : Nat
  evPairFail : Bool
  evPartition : Bool
  evLinkDown : Bool
  evDeposed : Bool
  evTakeover : Bool
  lost : Nat
  bulkBusy : Bool
  /-- frames of that copy have left and wait for their delivery (R360) -/
  bulkSent : Bool
  bulkFrames : Nat
  bulkBase : Nat
  /-- periods without a toggle of the twin-alive input (R352) -/
  quiet : Nat
  /-- level of the twin-alive output (R351) -/
  aliveOut : Bool
  /-- the package fault output is asserted (R353) -/
  faultOut : Bool
  /-- a survivor has heard a new standby that passes the checks of R346 (R357) -/
  candidate : Bool
  /-- a resynchronisation has been shipped and is not yet delivered (R357) -/
  syncing : Bool
  /-- heartbeats and the twin-alive output are stopped (R353) -/
  stopped : Bool
  frames : List SetFrame
  mirDeed : Option (List Byte)
  mirLease : Vector (Option (List Byte)) 16
  ship : Vector (Option ShipSet) 16
  take : TakeState
  /-- a YIELD after serving is still to be sent, with the recovered sequences (R376) -/
  oweYield : Option (Vector Nat 16)
deriving DecidableEq, Repr

def PwSt.init : PwSt :=
  { role := .solo, paired := false, linkUp := false, pinAlive := false, synced := false, missed := 0, twinId := 0,
    evPairFail := false, evPartition := false, evLinkDown := false, evDeposed := false, evTakeover := false,
    lost := 0, bulkBusy := false, bulkSent := false, bulkFrames := 0, bulkBase := 0, quiet := 0, aliveOut := false, faultOut := false, candidate := false, syncing := false, stopped := false,
    frames := [], mirDeed := none, mirLease := .replicate 16 none, ship := .replicate 16 none, take := .none,
    oweYield := none }

/-- Port states (R384), coded as TR_PORT_p.STATE. -/
inductive PortState where
  | off | training | hello | active | failed
deriving DecidableEq, Repr

/-- What the package has sent to the outside: packets on a port, party-wall messages, interrupt messages. -/
inductive Emit where
  | packet (port : Nat) (pk : Packet)
  | hello (port : Nat) (m : Hello)
  | heartbeat (m : Heartbeat)
  | frame (h seq pair : Nat) (new : Bool) (data : List Byte)
  | mark (h seq count digest : Nat)
  | ack (h seq : Nat)
  | bulk (cpa : Nat) (data : List Byte)
  | regs (m : Mirror)
  | yield (seqs : Vector Nat 16)
  | msix (vector : Nat)
  /-- a toggle of the twin-alive output -/
  | alive
deriving DecidableEq, Repr

/-- A terrace or party-wall port (R384, R386, R399). -/
structure Port where
  state : PortState
  detours : Nat
  replays : Nat
  bad : Nat
  dup : Bool
  neighbour : Nat
  /-- consecutive HELLO periods without a HELLO -/
  missed : Nat
  /-- the replay buffer: what has left by the port and the neighbour's link layer has not acknowledged, oldest first
  (R380, R386) -/
  replay : List Emit
deriving DecidableEq, Repr

def Port.init : Port := ⟨.off, 0, 0, 0, false, 0xFFFF, 0, []⟩

/-- A FENCE or ROUTE_CLAIM known by its pair (R388), with the time in µs at which it was received or made. -/
structure Flood where
  claim : Bool
  fenced : Nat
  claimant : Nat
  at_ : Nat
deriving DecidableEq, Repr

/-- The terrace (R383-R392, R399). -/
structure TerrSt where
  ports : Vector Port 18
  /-- TR_ROUTE_d, zero unlisted -/
  routes : NMap
  drops : Nat
  evRouteLost : Bool
  evFenced : Bool
  evPortFail : Bool
  lost : Nat
  claimed : Option Nat
  floods : List Flood
deriving DecidableEq, Repr

def TerrSt.init : TerrSt := ⟨.replicate 18 Port.init, [], 0, false, false, false, 0, none, []⟩

/-- The porch (R394-R400). MSI-X state by function: 0 is the physical function, h + 1 household h. -/
structure PorchSt where
  up : Bool
  flit : Bool
  speed : Nat
  width : Nat
  pfWin : Nat
  ur : Nat
  ca : Nat
  poisoned : Nat
  discarded : Nat
  vfEnable : Bool
  msixOn : Vector Bool 17
  funcMask : Vector Bool 17
  /-- masked entries as function · 64 + entry -/
  vecMask : List Nat
deriving DecidableEq, Repr

def PorchSt.init : PorchSt :=
  ⟨false, false, 0, 0, 0, 0, 0, 0, 0, false, .replicate 17 false, .replicate 17 false, []⟩

/-- The latched configuration strap (R369, R371). -/
structure Strap where
  valid : Bool
  ambiguous : Bool
  code : Nat
  mv : Nat
deriving DecidableEq, Repr

/-- The pair identity kept across a warm reset (R363). -/
structure PairId where
  id : Nat
  twin : Nat
  pwEnable : Nat
deriving DecidableEq, Repr

/-- A block reset in progress (R366, R367). -/
structure BlockReset where
  block : Nat
  forced : Bool
deriving DecidableEq, Repr

/-- Reset controller (R361-R368, R378). -/
structure RstSt where
  cellarKept : Bool
  wasServing : Bool
  thermtrip : Bool
  houseCrit : Bool
  watchdog : Bool
  perst : Bool
  resetPin : Bool
  por : Bool
  porch : Bool
  region : Bool
  cluster : Bool
  block : Bool
  timeout : Nat
  reqBlock : Nat
  forcedCount : Nat
  lastUs : Nat
  active : Option BlockReset
  forced : Bool
  refused : Bool
  overrun : Bool
  lastBlock : Nat
  lost : Nat
deriving DecidableEq, Repr

def RstSt.init : RstSt :=
  ⟨false, false, false, false, false, false, false, true, false, false, false, false, 0x64, 0, 0, 0, none, false,
   false, false, 0, 0⟩

/-- Start-up (R369-R377). -/
structure BootSt where
  strap : Strap
  stage : Nat
  error : Nat
  status : Nat
  warm : Bool
  /-- µs of BOOT_STAT.TIME_US, standing still from READY on -/
  timeUs : Nat
  fwAddr : Nat
  fwLen : Nat
  fwBusy : Bool
  /-- SEQUENCE of the house firmware that runs (R435) -/
  fwSeq : Nat
  /-- firmware has been accepted (R373) -/
  fwOk : Bool
  /-- an image from the host that waits for the Strongbox (R83, R374) -/
  fwWait : Option (List Byte)
  /-- the firmware that runs came from the host (R374) -/
  fwHost : Bool
  /-- PWROK is high -/
  powered : Bool
  /-- held in reset after a thermal trip until PWROK falls (R361); THERMTRIP_N is asserted meanwhile (R449) -/
  tripped : Bool
  /-- retained pair identity (R363) -/
  pairId : Option PairId
  /-- the strap is to be measured in step 2 (R370) -/
  measure : Bool
deriving DecidableEq, Repr

def BootSt.init : BootSt :=
  { strap := ⟨false, false, 0, 0⟩, stage := 1, error := 0, status := 0, warm := false, timeUs := 0, fwAddr := 0,
    fwLen := 0, fwBusy := false, fwSeq := 0, fwOk := false, fwWait := none, fwHost := false, powered := true, tripped := false, pairId := none,
    measure := true }

/-- Ballast units that run (R412): kind 1 to 5, unit number, steps granted. -/
structure BallastUnit where
  kind : Nat
  unit : Nat
  steps : Nat
deriving DecidableEq, Repr

/-- The Hearth (R404-R418). Powers r, u and jcap in mW. -/
structure HearthSt where
  mode : Bool
  enable : Nat
  outletDc : Nat
  slew : Nat
  band : Nat
  setpoint : Nat
  pW : Nat
  refW : Nat
  capW : Nat
  tj : Nat
  inlet : Nat
  outlet : Nat
  inletSet : Nat
  r : Int
  /-- r has been set since the deed applied (R410) -/
  started : Bool
  u : Int
  theta : Nat
  jcap : Int
  capped : Bool
  running : List BallastUnit
  /-- consecutive failed coolant samples -/
  missed : Nat
  epoch : Nat
  periodMs : Nat
  /-- a marker has been made and not every counter has latched -/
  marking : Bool
  pdOn : Bool
  pdDomain : Nat
  /-- an accepted power-domain request that has not completed -/
  pdBusy : Bool
  /-- HE_PDSTAT.ON -/
  domains : Nat
  mismatches : Nat
  auSite : Nat
  auSlot : Nat
  evOverrun : Bool
  evPdRefused : Bool
  evAudit : Bool
  evSensor : Bool
  evJguard : Bool
  evCap : Bool
  lost : Nat
  /-- accumulated energy in mW · 10 µs (R406) -/
  energy : Nat
deriving DecidableEq, Repr

def HearthSt.init : HearthSt :=
  { mode := false, enable := 0, outletDc := 0x262, slew := 0x32, band := 0x14, setpoint := 0x708, pW := 0,
    refW := 0, capW := 0x384, tj := 0, inlet := 0, outlet := 0, inletSet := 0x1F4, r := 0, started := false,
    u := 0, theta := 0, jcap := 1800000, capped := false, running := [], missed := 0, epoch := 0, periodMs := 0,
    marking := false, pdOn := false, pdDomain := 0, pdBusy := false, domains := 0, mismatches := 0, auSite := 0,
    auSlot := 0, evOverrun := false, evPdRefused := false, evAudit := false, evSensor := false,
    evJguard := false, evCap := false, lost := 0, energy := 0 }

/-- An elliptic curve of a slot (R432, R434): y² = x³ + ax + b over the field of p. -/
structure Curve where
  w : Nat
  nb : Nat
  h : Nat
  p : Nat
  a : Nat
  b : Nat
  gx : Nat
  gy : Nat
  n : Nat
deriving DecidableEq, Repr

/-- Requesters of the Strongbox (R429). -/
inductive SbOwner where
  | house
  | pf
  | hh (h : Hh)
deriving DecidableEq, Repr

/-- Stages of a Strongbox operation. -/
inductive SbStage where
  /-- block and inputs fetched, the operation is to be computed -/
  | fetched
  /-- suspended before its arithmetic on an input unit (R436) -/
  | inFault
  /-- computed, the result is to be written -/
  | computed
  /-- suspended on a page of the result (R436) -/
  | outFault
deriving DecidableEq, Repr

/-- The operation in flight (R429-R439): its command block, the units fetched, its outcome. -/
structure SbOp where
  owner : SbOwner
  block : List Byte
  stage : SbStage
  /-- the input bytes as fetched -/
  input : List Byte
  /-- operand bytes of the result -/
  result : List Byte
  status : Nat
deriving DecidableEq, Repr

/-- The Strongbox (R429-R440). -/
structure SbSt where
  cmdAddr : Nat
  overrun : Bool
  elapsed : Nat
  owner : Nat
  op : Nat
  status : Nat
  curves : Vector (Option Curve) 5
  evWiped : Bool
  evPreempt : Bool
  evDone : Bool
  lost : Nat
  /-- the 16 KiB operand memory -/
  mem : BMap
  /-- waiting requests of the house and the physical function: CPA of the block -/
  house : Option Nat
  pf : Option Nat
  /-- household last served -/
  lastHh : Nat
  cur : Option SbOp
  /-- Strongbox request count of each household (R439) -/
  counts : Vector Nat 16
deriving DecidableEq, Repr

def SbSt.init : SbSt :=
  { cmdAddr := 0, overrun := false, elapsed := 0, owner := 0xFF, op := 0, status := 0,
    curves := .replicate 5 none, evWiped := false, evPreempt := false, evDone := false, lost := 0, mem := [],
    house := none, pf := none, lastHh := 15, cur := none, counts := .replicate 16 0 }

end Sys2Proof.Machine
end

