-- ==== Sys2Proof/Machine/Crypto.lean ====
section
/-! DEFINITION. The algorithms that the spec names: SHA-384 (FIPS 180-4), HMAC and the nonce of RFC 6979, curve
arithmetic, ECDSA (FIPS 186-5), the NIST curves, prime tests (R16, R17, R80, R432-R435). -/

namespace Sys2Proof.Machine

/- SHA-384. -/

/-- Largest r with r^e ≤ n, by bisection from the bit b down. -/
def natRoot (e n : Nat) : Nat → Nat → Nat
  | 0, r => if (r + 1) ^ e ≤ n then r + 1 else r
  | b + 1, r => natRoot e n b (if (r + 2 ^ (b + 1)) ^ e ≤ n then r + 2 ^ (b + 1) else r)
/-- Integer square root of numbers below 2^1100. -/
def natSqrt (n : Nat) : Nat := natRoot 2 n 549 0

/-- The first primes. -/
def firstPrimes : List Nat := (List.range 410).filter fun n => 2 ≤ n && (List.range n).all fun d => d < 2 || n % d ≠ 0
/-- Round constants: fractions of the cube roots of the first eighty primes. -/
def shaK : List (BitVec 64) := (firstPrimes.take 80).map fun p => BitVec.ofNat 64 (natRoot 3 (p * 2 ^ 192) 68 0)
/-- Initial value of SHA-384: fractions of the square roots of the ninth to sixteenth primes. -/
def sha384Init : List (BitVec 64) :=
  ((firstPrimes.drop 8).take 8).map fun p => BitVec.ofNat 64 (natRoot 2 (p * 2 ^ 128) 68 0)

def shaS (a b c : Nat) (x : BitVec 64) : BitVec 64 := x.rotateRight a ^^^ x.rotateRight b ^^^ x.rotateRight c
def shaG (a b c : Nat) (x : BitVec 64) : BitVec 64 := x.rotateRight a ^^^ x.rotateRight b ^^^ (x >>> c)
/-- Message schedule: the last sixteen words, newest first. -/
def shaNext (w : List (BitVec 64)) : BitVec 64 :=
  shaG 19 61 6 (w.getD 1 0) + w.getD 6 0 + shaG 1 8 7 (w.getD 14 0) + w.getD 15 0
/-- One round on the working words a to h. -/
def shaRound (st : List (BitVec 64)) (k w : BitVec 64) : List (BitVec 64) :=
  match st with
  | [a, b, c, d, e, f, g, h] =>
    let t1 := h + shaS 14 18 41 e + ((e &&& f) ^^^ (~~~e &&& g)) + k + w
    let t2 := shaS 28 34 39 a + ((a &&& b) ^^^ (a &&& c) ^^^ (b &&& c))
    [t1 + t2, a, b, c, d + t1, e, f, g]
  | _ => st
/-- The rounds of a block: `w` holds the last sixteen words, newest first, oldest next to be used. -/
def shaRounds : List (BitVec 64) → List (BitVec 64) → List (BitVec 64) → List (BitVec 64)
  | [], _, st => st
  | k :: ks, w, st => shaRounds ks ((shaNext w :: w).take 16) (shaRound st k (w.getD 15 0))
/-- Compression of one 128-byte block. -/
def shaBlock (st : List (BitVec 64)) (b : List Byte) : List (BitVec 64) :=
  let w := (List.range 16).map fun i => BitVec.ofNat 64 (beNat (slice b (8 * i) 8))
  (st.zip (shaRounds shaK w.reverse st)).map fun p => p.1 + p.2
def shaBlocks : Nat → List (BitVec 64) → List Byte → List (BitVec 64)
  | 0, st, _ => st
  | n + 1, st, m => shaBlocks n (shaBlock st (m.take 128)) (m.drop 128)
/-- SHA-384 digest of a message, 48 bytes. -/
def sha384 (m : List Byte) : List Byte :=
  let n := m.length
  let p := m ++ [0x80] ++ List.replicate ((239 - n % 128) % 128) 0 ++ beBytes 16 (8 * n)
  ((shaBlocks (p.length / 128) sha384Init p).take 6).flatMap fun x => beBytes 8 x.toNat

def xorPad (k : List Byte) (c : Byte) : List Byte := (k ++ List.replicate (128 - k.length) 0).map (· ^^^ c)
/-- HMAC with SHA-384 for keys of at most 128 bytes. -/
def hmac384 (k m : List Byte) : List Byte := sha384 (xorPad k 0x5C ++ sha384 (xorPad k 0x36 ++ m))

/- Curves (R432-R434). -/

abbrev Pt := Option (Nat × Nat)

def subMod (a b p : Nat) : Nat := (a + (p - b % p)) % p
/-- Sum of two points of a curve. -/
def ptAdd (c : Curve) (x y : Pt) : Pt := match x, y with
  | none, q => q
  | q, none => q
  | some (x1, y1), some (x2, y2) =>
    let p := c.p
    if x1 = x2 ∧ (y1 + y2) % p = 0 then none
    else
      let l := if x1 = x2 ∧ y1 = y2 then (3 * x1 * x1 + c.a) * invMod (2 * y1) p % p
               else subMod y2 y1 p * invMod (subMod x2 x1 p) p % p
      let x3 := subMod (l * l) (x1 + x2) p
      some (x3, subMod (l * subMod x1 x3 p) y1 p)
/-- d·P, over the bits of d from the top. -/
def ptMul (c : Curve) (d : Nat) (q : Pt) : Pt :=
  (List.range (bitLen d)).reverse.foldl (fun r i =>
    let r := ptAdd c r r
    if d.testBit i then ptAdd c r q else r) none
def onCurve (c : Curve) (x y : Nat) : Bool := y * y % c.p == (x * x * x + c.a * x + c.b) % c.p
def Curve.base (c : Curve) : Pt := some (c.gx, c.gy)
/-- Bytes of a coordinate and of a scalar (R432). -/
def Curve.lp (c : Curve) : Nat := cdiv c.w 8
def Curve.ln (c : Curve) : Nat := cdiv c.nb 8

/-- NIST P-256 (SP 800-186). -/
def p256 : Curve :=
  { w := 256, nb := 256, h := 1, p := 2 ^ 256 - 2 ^ 224 + 2 ^ 192 + 2 ^ 96 - 1
    a := 2 ^ 256 - 2 ^ 224 + 2 ^ 192 + 2 ^ 96 - 4
    b := 0x5ac635d8aa3a93e7b3ebbd55769886bc651d06b0cc53b0f63bce3c3e27d2604b
    gx := 0x6b17d1f2e12c4247f8bce6e563a440f277037d812deb33a0f4a13945d898c296
    gy := 0x4fe342e2fe1a7f9b8ee7eb4a7c0f9e162bce33576b315ececbb6406837bf51f5
    n := 0xffffffff00000000ffffffffffffffffbce6faada7179e84f3b9cac2fc632551 }
/-- NIST P-384 (SP 800-186). -/
def p384 : Curve :=
  { w := 384, nb := 384, h := 1, p := 2 ^ 384 - 2 ^ 128 - 2 ^ 96 + 2 ^ 32 - 1
    a := 2 ^ 384 - 2 ^ 128 - 2 ^ 96 + 2 ^ 32 - 4
    b := 0xb3312fa7e23ee7e4988e056be3f82d19181d9c6efe8141120314088f5013875ac656398d8a2ed19d2a85c8edd3ec2aef
    gx := 0xaa87ca22be8b05378eb1c71ef320ad746e1d3b628ba79b9859f741e082542a385502f25dbf55296c3a545e3872760ab7
    gy := 0x3617de4a96262c6f5d9e98bf9292dc29f8f41dbd289a147ce9da3113b5f0b8c00a60b1ce1d7e819d7a431d7c90ea0e5f
    n := 0xffffffffffffffffffffffffffffffffffffffffffffffffc7634d81f4372ddf581a0db248b0a77aecec196accc52973 }
/-- NIST P-521 (SP 800-186). -/
def p521 : Curve :=
  { w := 521, nb := 521, h := 1, p := 2 ^ 521 - 1, a := 2 ^ 521 - 4
    b := 0x051953eb9618e1c9a1f929a21a0b68540eea2da725b99b315f3b8b489918ef109e156193951ec7e937b1652c0bd3bb1bf073573df883d2c34f1ef451fd46b503f00
    gx := 0xc6858e06b70404e9cd9e3ecb662395b4429c648139053fb521f828af606b4d3dbaa14b5e77efe75928fe1dc127a2ffa8de3348b3c1856a429bf97e7e31c2e5bd66
    gy := 0x11839296a789a3bc0045c8a5fb42c7d1bd998f54449579b446817afbd17273e662c97ee72995ef42640c550b9013fad0761353c7086a272c24088be94769fd16650
    n := 0x01fffffffffffffffffffffffffffffffffffffffffffffffffffffffffffffffffa51868783bf2f966b7fcc0148f709a5d03bb5c9b8899c47aebb6fb71e91386409 }

/-- Left bits of a digest as a number, as ECDSA takes them: at most nb bits. -/
def digestInt (c : Curve) (d : List Byte) : Nat :=
  let v := beNat d
  if 8 * d.length > c.nb then v / 2 ^ (8 * d.length - c.nb) else v
/-- ECDSA verification of e under the point Q (FIPS 186-5); ranges of r and s are the caller's. -/
def ecdsaVerify (c : Curve) (e : Nat) (q : Nat × Nat) (r s : Nat) : Bool :=
  let w := invMod s c.n
  match ptAdd c (ptMul c (e * w % c.n) c.base) (ptMul c (r * w % c.n) (some q)) with
  | none => false
  | some (x, _) => x % c.n == r
/-- ECDSA signature of e under d with nonce k (FIPS 186-5); none when r or s is zero. -/
def ecdsaSign (c : Curve) (e d k : Nat) : Option (Nat × Nat) :=
  match ptMul c k c.base with
  | none => none
  | some (x, _) =>
    let r := x % c.n
    let s := invMod k c.n * ((e + r * d) % c.n) % c.n
    if r = 0 ∨ s = 0 then none else some (r, s)

/-- The nonce of RFC 6979 with SHA-384 on P-384 for a key and a digest; retries while out of range. -/
def nonce6979 (d : Nat) (h1 : List Byte) : Nat :=
  let n := p384.n
  let x := beBytes 48 d
  let hh := beBytes 48 (beNat h1 % n)
  let v0 := List.replicate 48 (1 : Byte)
  let k0 := List.replicate 48 (0 : Byte)
  let k1 := hmac384 k0 (v0 ++ [0] ++ x ++ hh)
  let v1 := hmac384 k1 v0
  let k2 := hmac384 k1 (v1 ++ [1] ++ x ++ hh)
  go n 16 k2 (hmac384 k2 v1)
where
  go (n : Nat) : Nat → List Byte → List Byte → Nat
    | 0, _, v => beNat v
    | f + 1, k, v =>
      let v := hmac384 k v
      if 1 ≤ beNat v ∧ beNat v < n then beNat v
      else
        let k' := hmac384 k (v ++ [0])
        go n f k' (hmac384 k' v)

/- Primes (R16, R434). -/

/-- n - 1 = d·2^r with d odd. -/
def splitTwo : Nat → Nat → Nat → Nat × Nat
  | 0, d, r => (d, r)
  | f + 1, d, r => if d % 2 = 0 then splitTwo f (d / 2) (r + 1) else (d, r)
/-- x^(2^i) = n - 1 for some i < r. -/
def hitsMinusOne (n : Nat) : Nat → Nat → Bool
  | 0, _ => false
  | r + 1, x => x == n - 1 || hitsMinusOne n r (x * x % n)
/-- Miller-Rabin to base b. -/
def millerRabin (b n : Nat) : Bool :=
  let (d, r) := splitTwo 1024 (n - 1) 0
  let x := powMod b d n
  b % n == 0 || x == 1 || hitsMinusOne n r x

/-- The prime checks of R17. -/
def primeAccepted (q : Nat) : Bool :=
  decide (2 ≤ q) && decide (q < 2 ^ 31) && q % 2 ^ 18 == 1 && millerRabin 2 q && millerRabin 7 q && millerRabin 61 q
/-- The root check of R79: ψ^N ≡ -1 (mod q). -/
def rootAccepted (q psi log2n : Nat) : Bool := powMod psi (2 ^ log2n) q == q - 1

/-- Jacobi symbol (a / n) for odd n, with fuel. -/
def jacobi : Nat → Nat → Nat → Int
  | 0, _, _ => 0
  | f + 1, a, n =>
    let a := a % n
    if a = 0 then (if n = 1 then 1 else 0)
    else if a % 2 = 0 then (if n % 8 = 3 ∨ n % 8 = 5 then -1 else 1) * jacobi f (a / 2) n
    else (if a % 4 = 3 ∧ n % 4 = 3 then -1 else 1) * jacobi f n a
/-- Selfridge's D: the first of 5, -7, 9, ... with symbol -1; none when one shares a factor with n. -/
def selfridge (n : Nat) : Nat → Nat → Option Int
  | 0, _ => none
  | f + 1, m =>
    let d : Int := if m % 4 = 1 then (m : Int) else -(m : Int)
    let j := jacobi 4096 (d % (n : Int)).toNat n
    if j = -1 then some d
    else if j = 0 ∧ m % n ≠ 0 then none
    else selfridge n f (m + 2)
/-- Half of x modulo odd n. -/
def halve (x n : Nat) : Nat := (if x % 2 = 0 then x else x + n) / 2 % n
/-- U_k, V_k and Q^k modulo n for P = 1, over the bits of k from the top. -/
def lucasUV (n k : Nat) (dd q : Nat) : Nat × Nat × Nat :=
  (List.range (bitLen k)).reverse.foldl (fun t i =>
    let (u, v, qk) := t
    let u2 := u * v % n
    let v2 := subMod (v * v) (2 * qk) n
    let q2 := qk * qk % n
    if k.testBit i then (halve (u2 + v2) n, halve (dd * u2 + v2) n, q2 * q % n) else (u2, v2, q2)) (0, 2, 1)
/-- V_{d·2^i} = 0 for some i < r. -/
def lucasZero (n : Nat) : Nat → Nat → Nat → Bool
  | 0, _, _ => false
  | r + 1, v, qk => v == 0 || lucasZero n r (subMod (v * v) (2 * qk) n) (qk * qk % n)
/-- Strong Lucas test with Selfridge's parameters. -/
def strongLucas (n : Nat) : Bool :=
  let r := natSqrt n
  if r * r = n then false
  else match selfridge n 4096 5 with
    | none => false
    | some d =>
      let dd := (d % (n : Int)).toNat
      let q := (((1 - d) / 4) % (n : Int)).toNat
      let (m, e) := splitTwo 1024 (n + 1) 0
      let (u, v, qk) := lucasUV n m dd q
      u == 0 || lucasZero n e v qk
/-- Baillie-PSW (R434 check 3). -/
def bailliePsw (n : Nat) : Bool :=
  if n < 2 then false else if n = 2 then true else if n % 2 = 0 then false
  else if n < 9 then true
  else millerRabin 2 n && strongLucas n

end Sys2Proof.Machine
end

