-- ==== Sys2Proof/Machine/Keccak.lean ====
section
/-! DEFINITION. SHAKE128 of FIPS 202, and the regeneration of key halves that rests on it (R47). -/

namespace Sys2Proof.Machine

/-- Lane (x, y) of a state of 25 lanes of 64 bits. -/
def lane (a : List (BitVec 64)) (x y : Nat) : BitVec 64 := a.getD (x % 5 + 5 * (y % 5)) 0

/-- Round constants of Keccak-f[1600]. -/
def keccakRc : List (BitVec 64) :=
  [0x0000000000000001, 0x0000000000008082, 0x800000000000808A, 0x8000000080008000, 0x000000000000808B,
   0x0000000080000001, 0x8000000080008081, 0x8000000000008009, 0x000000000000008A, 0x0000000000000088,
   0x0000000080008009, 0x000000008000000A] ++
  [0x000000008000808B, 0x800000000000008B, 0x8000000000008089, 0x8000000000008003, 0x8000000000008002,
   0x8000000000000080, 0x000000000000800A, 0x800000008000000A, 0x8000000080008081, 0x8000000000008080,
   0x0000000080000001, 0x8000000080008008]
/-- Rotations of the lanes, by x + 5y. -/
def keccakRot : List Nat :=
  [0, 1, 62, 28, 27, 36, 44, 6, 55, 20, 3, 10, 43, 25, 39, 41, 45, 15, 21, 8, 18, 2, 61, 56, 14]

/-- One round. -/
def keccakRound (a : List (BitVec 64)) (rc : BitVec 64) : List (BitVec 64) :=
  let c := (List.range 5).map fun x => lane a x 0 ^^^ lane a x 1 ^^^ lane a x 2 ^^^ lane a x 3 ^^^ lane a x 4
  let d := (List.range 5).map fun x => c.getD ((x + 4) % 5) 0 ^^^ (c.getD ((x + 1) % 5) 0).rotateLeft 1
  let t := (List.range 25).map fun i => a.getD i 0 ^^^ d.getD (i % 5) 0
  -- the lane that moves to (y, 2x + 3y) stands at (x, y)
  let b := (List.range 25).map fun i =>
    let y := i % 5
    let z := i / 5
    let x := (3 * z + y) % 5
    -- z = 2x + 3y, so x = 3z - 9y = 3z + y modulo 5
    (lane t x y).rotateLeft (keccakRot.getD (x + 5 * y) 0)
  (List.range 25).map fun i =>
    let x := i % 5
    let y := i / 5
    let v := lane b x y ^^^ (~~~ lane b (x + 1) y &&& lane b (x + 2) y)
    if i = 0 then v ^^^ rc else v

def keccakF (a : List (BitVec 64)) : List (BitVec 64) := keccakRc.foldl keccakRound a

/-- Eight bytes as a lane. -/
def laneOf (bs : List Byte) (i : Nat) : BitVec 64 := BitVec.ofNat 64 (leAt bs (8 * i) 8)
/-- A 168-byte block absorbed. -/
def absorb (a : List (BitVec 64)) (bs : List Byte) : List (BitVec 64) :=
  keccakF ((List.range 25).map fun i => a.getD i 0 ^^^ (if i < 21 then laneOf bs i else 0))

/-- State after the message, shorter than one block, with the padding of SHAKE128. -/
def shakeState (msg : List Byte) : List (BitVec 64) :=
  let b := msg ++ [0x1F] ++ List.replicate (167 - msg.length) 0
  absorb (List.replicate 25 0) (overlay b 167 [(b.getD 167 0) ||| 0x80])

/-- Words of 32 bits of one squeezed block. -/
def shakeWords (a : List (BitVec 64)) : List Nat :=
  (List.range 42).map fun i => (a.getD (i / 2) 0).toNat / 2 ^ (32 * (i % 2)) % 2 ^ 32

/-- Accepted words of successive blocks, up to n (R47). -/
def regenGo (q m : Nat) : Nat → List (BitVec 64) → Nat → List Nat → List Nat
  | 0, _, _, acc => acc
  | fuel + 1, a, n, acc =>
    if n = 0 then acc
    else
      let ws := ((shakeWords a).map fun u => u % 2 ^ m).filter fun t => decide (t < q)
      let ws := ws.take n
      regenGo q m fuel (keccakF a) (n - ws.length) (acc ++ ws)

/-- The a half of a digit at limb identifier `id`, for prime q and n words (R47). -/
def regenLimb (seed : List Byte) (d id q n : Nat) : List Nat :=
  regenGo q (bitLen q) (n + 64) (shakeState (seed ++ leBytes 1 d ++ leBytes 1 id)) n []

end Sys2Proof.Machine
end

