-- ==== Sys2Proof/Machine/Float.lean ====
section
/-! DEFINITION. Floating-point numbers of any width: exact values, rounding to nearest with ties to even, and the
formats of the array, the vector engine and the control core (R96, R166, R167, R208, R210). -/

namespace Sys2Proof.Machine

/-- A format: bits of exponent and of fraction. -/
structure FFmt where
  eb : Nat
  mb : Nat
deriving DecidableEq, Repr

def fp32 : FFmt := ⟨8, 23⟩
def fp64 : FFmt := ⟨11, 52⟩
def bf16 : FFmt := ⟨8, 7⟩
def e5m2 : FFmt := ⟨5, 2⟩

/-- A floating-point value; finite ones are m · 2^e. -/
inductive FVal where
  | nan
  | inf (neg : Bool)
  | fin (neg : Bool) (m : Nat) (e : Int)
deriving DecidableEq, Repr

/-- Exponent of the least unit of a format. -/
def FFmt.emin (f : FFmt) : Int := 2 - (2 : Int) ^ (f.eb - 1) - f.mb
/-- Number of bits. -/
def FFmt.width (f : FFmt) : Nat := 1 + f.eb + f.mb

/-- Value of a word in a format. -/
def fDecode (f : FFmt) (v : Nat) : FVal :=
  let neg := v.testBit (f.eb + f.mb)
  let ex := bits v f.mb f.eb
  let m := bits v 0 f.mb
  if ex = 2 ^ f.eb - 1 then (if m = 0 then .inf neg else .nan)
  else if ex = 0 then .fin neg m f.emin
  else .fin neg (m + 2 ^ f.mb) (f.emin + (ex : Int) - 1)

/-- Infinity and the canonical quiet NaN of a format. -/
def fInf (f : FFmt) (neg : Bool) : Nat := b2n neg * 2 ^ (f.eb + f.mb) + (2 ^ f.eb - 1) * 2 ^ f.mb
def fNan (f : FFmt) : Nat := (2 ^ f.eb - 1) * 2 ^ f.mb + 2 ^ (f.mb - 1)

/-- m divided by 2^k, to nearest with ties to even. -/
def rneShift (m k : Nat) : Nat :=
  let q := m / 2 ^ k
  let r := m % 2 ^ k
  if k = 0 then m
  else if 2 * r < 2 ^ k then q
  else if 2 * r > 2 ^ k then q + 1
  else q + q % 2

/-- m · 2^e rounded into a format. -/
def fRound (f : FFmt) (neg : Bool) (m : Nat) (e : Int) : Nat :=
  let sg := b2n neg * 2 ^ (f.eb + f.mb)
  if m = 0 then sg
  else
    let q := max (e + bitLen m - (f.mb + 1)) f.emin
    let m1 := if q ≤ e then m * 2 ^ (e - q).toNat else rneShift m (q - e).toNat
    let (m2, q2) := if m1 = 2 ^ (f.mb + 1) then (2 ^ f.mb, q + 1) else (m1, q)
    if m2 < 2 ^ f.mb then sg + m2
    else
      let ex := (q2 - f.emin + 1).toNat
      if ex ≥ 2 ^ f.eb - 1 then fInf f neg else sg + ex * 2 ^ f.mb + (m2 - 2 ^ f.mb)

/-- A signed value i · 2^e rounded into a format; an exact zero takes the sign given. -/
def fRoundInt (f : FFmt) (zeroNeg : Bool) (i : Int) (e : Int) : Nat :=
  if i = 0 then b2n zeroNeg * 2 ^ (f.eb + f.mb) else fRound f (decide (i < 0)) i.natAbs e

/-- A value as a signed multiple of 2^e, for e not above its exponent. -/
def fScaled (neg : Bool) (m : Nat) (e lo : Int) : Int :=
  let v : Int := (m : Int) * 2 ^ (e - lo).toNat
  if neg then -v else v

/-- Sum; none for a NaN result. -/
def fAdd (f : FFmt) (a b : FVal) : Option Nat := match a, b with
  | .nan, _ => none
  | _, .nan => none
  | .inf x, .inf y => if x = y then some (fInf f x) else none
  | .inf x, _ => some (fInf f x)
  | _, .inf y => some (fInf f y)
  | .fin s m e, .fin t n k =>
    let lo := min e k
    some (fRoundInt f (s && t) (fScaled s m e lo + fScaled t n k lo) lo)

/-- Product; none for a NaN result. -/
def fMul (f : FFmt) (a b : FVal) : Option Nat := match a, b with
  | .nan, _ => none
  | _, .nan => none
  | .inf x, .inf y => some (fInf f (xor x y))
  | .inf x, .fin t n _ => if n = 0 then none else some (fInf f (xor x t))
  | .fin s m _, .inf y => if m = 0 then none else some (fInf f (xor s y))
  | .fin s m e, .fin t n k => some (fRound f (xor s t) (m * n) (e + k))

/-- a · b + c with one rounding; none for a NaN result. -/
def fFma (f : FFmt) (a b c : FVal) : Option Nat := match a, b, c with
  | .nan, _, _ => none
  | _, .nan, _ => none
  | _, _, .nan => none
  | .fin s m e, .fin t n k, .fin u p l =>
    let lo := min (e + k) l
    some (fRoundInt f (xor s t && u) (fScaled (xor s t) (m * n) (e + k) lo + fScaled u p l lo) lo)
  | .fin _ _ _, .fin _ _ _, .inf u => some (fInf f u)
  | .inf x, .inf y, c => fmaInf f (xor x y) c
  | .inf x, .fin t n _, c => if n = 0 then none else fmaInf f (xor x t) c
  | .fin s m _, .inf y, c => if m = 0 then none else fmaInf f (xor s y) c
where
  /-- An infinite product plus c. -/
  fmaInf (f : FFmt) (neg : Bool) : FVal → Option Nat
    | .inf u => if u = neg then some (fInf f neg) else none
    | _ => some (fInf f neg)

/-- Quotient; none for a NaN result. -/
def fDiv (f : FFmt) (a b : FVal) : Option Nat := match a, b with
  | .nan, _ => none
  | _, .nan => none
  | .inf _, .inf _ => none
  | .inf x, .fin t _ _ => some (fInf f (xor x t))
  | .fin s _ _, .inf y => some (b2n (xor s y) * 2 ^ (f.eb + f.mb))
  | .fin s m e, .fin t n k =>
    if n = 0 then (if m = 0 then none else some (fInf f (xor s t)))
    else
      let sh := f.mb + 4 + bitLen n
      let q := m * 2 ^ sh / n
      let st := if m * 2 ^ sh % n = 0 then 0 else 1
      some (fRound f (xor s t) (2 * q + st) (e - k - sh - 1))

/-- Comparison of two values that are no NaN: -1, 0, 1. -/
def fCmp (a b : FVal) : Int := match a, b with
  | .inf x, .inf y => if x = y then 0 else if x then -1 else 1
  | .inf x, _ => if x then -1 else 1
  | _, .inf y => if y then 1 else -1
  | .fin s m e, .fin t n k =>
    let lo := min e k
    let d := fScaled s m e lo - fScaled t n k lo
    if d < 0 then -1 else if d = 0 then 0 else 1
  | .nan, _ => 0
  | _, .nan => 0

/-- A finite value as an integer, to nearest with ties to even; infinities lie beyond every range. -/
def fToInt (v : FVal) : Int := match v with
  | .nan => 0
  | .inf neg => if neg then -(2 ^ 128) else 2 ^ 128
  | .fin neg m e =>
    let a := if 0 ≤ e then m * 2 ^ e.toNat else rneShift m (-e).toNat
    if neg then -(a : Int) else a

/-- An integer clamped to lo … hi. -/
def clampInt (lo hi i : Int) : Int := if i < lo then lo else if hi < i then hi else i
/-- An integer saturated to w bits, as a word. -/
def satInt (w : Nat) (i : Int) : Nat := wrapTo w (clampInt (-(2 ^ (w - 1))) (2 ^ (w - 1) - 1) i)

/-- A word with a subnormal read as zero of its sign (R167, R208). -/
def flushSub (f : FFmt) (v : Nat) : Nat :=
  if bits v f.mb f.eb = 0 then v / 2 ^ (f.eb + f.mb) * 2 ^ (f.eb + f.mb) else v

/-- The canonical NaN of the engines (R166, R208). -/
def canonNan : Nat := 0x7FC00000

/-- FP32 sum of the engines, as IEEE 754 gives it, with the canonical NaN. -/
def f32Add (a b : Nat) : Nat := (fAdd fp32 (fDecode fp32 a) (fDecode fp32 b)).getD canonNan

/-- E4M3 as a multiple of 2^-9, none for NaN (R166). -/
def e4m3Int (v : Nat) : Option Int :=
  let ex := bits v 3 4
  let m := bits v 0 3
  if ex = 15 ∧ m = 7 then none
  else
    let a : Int := if ex = 0 then m else (8 + m : Nat) * 2 ^ (ex - 1)
    some (if v.testBit 7 then -a else a)
/-- E5M2 as a multiple of 2^-16, none when it is not finite (R166). -/
def e5m2Int (v : Nat) : Option Int :=
  let ex := bits v 2 5
  let m := bits v 0 2
  if ex = 31 then none
  else
    let a : Int := if ex = 0 then m else (4 + m : Nat) * 2 ^ (ex - 1)
    some (if v.testBit 7 then -a else a)

/-- E4M3 widened to FP32 (R210). -/
def e4m3ToF32 (v : Nat) : Nat := match e4m3Int v with
  | none => canonNan
  | some i => fRoundInt fp32 (v.testBit 7) i (-9)
/-- A word of a format widened to FP32. -/
def toF32 (f : FFmt) (v : Nat) : Nat := match fDecode f v with
  | .nan => canonNan
  | .inf neg => fInf fp32 neg
  | .fin neg m e => fRound fp32 neg m e

/-- FP32 narrowed to BF16 or E5M2: rounded, saturated to the largest finite magnitude, NaN as given (R210). -/
def narrowF32 (f : FFmt) (nanWord v : Nat) : Nat := match fDecode fp32 v with
  | .nan => nanWord
  | .inf neg => fInf f neg - 1
  | .fin neg m e =>
    let r := fRound f neg m e
    if r = fInf f neg then r - 1 else r
/-- FP32 narrowed to E4M3: magnitudes beyond 448 saturate (R210). -/
def narrowE4m3 (v : Nat) : Nat := match fDecode fp32 v with
  | .nan => 0x7F
  | .inf neg => b2n neg * 128 + 0x7E
  | .fin neg m e =>
    let r := fRound ⟨4, 3⟩ neg m e
    if r % 128 < 0x78 then r else e4m3Big neg m e
where
  /-- E4M3 uses the exponent 15 for 256 to 448: values there are rounded to multiples of 32. -/
  e4m3Big (neg : Bool) (m : Nat) (e : Int) : Nat :=
    let q := if 5 ≤ e then m * 2 ^ (e - 5).toNat else rneShift m (5 - e).toNat
    let u := min q 14
    b2n neg * 128 + 0x78 + (u - 8)

end Sys2Proof.Machine
end

