-- ==== Sys2Proof/Config.lean ====
section
/-! DEFINITION. The free values: results the spec leaves open. Each is an opaque constant without a body,
applied to the counter State.fresh (or to the operands), so that no proof can rest on its value. -/

namespace Sys2Proof.Config

/-- A 64-bit value the spec leaves open (log 5). -/
opaque freeWord : Nat → BitVec 64
/-- A 64-bit value the spec leaves open, by occasion and position (log 5). -/
opaque freeWordAt : Nat → Nat → BitVec 64
/-- A natural number the spec leaves open (log 5); its users reduce it to the range the spec sets. -/
opaque freeNat : Nat → Nat
/-- A byte the spec leaves open, by occasion and position (log 5). -/
opaque freeByte : Nat → Nat → BitVec 8
/-- A choice the spec leaves open, by occasion and position (log 5). -/
opaque freeBool : Nat → Nat → Bool

/-- Serial number of the package with a terrace identifier, which the spec gives its twin no way to learn (log 22). -/
opaque peerSerial : Nat → Nat

end Sys2Proof.Config
end

