-- ==== Sys2Proof/Machine/State.lean ====
section
/-! DEFINITION. The state of the block and its reset. -/

namespace Sys2Proof.Machine

/-- Why the block stops with a fault: no rule of the spec stops the block, every error it names has a
status, a trap, an event or a reset; so the type is empty and no command raises a fault (safe). -/
inductive Fault where
deriving DecidableEq, Repr

/-- Why a command has no meaning. -/
inductive Refusal where
  /-- raised by the dispatcher for a command that has no meaning yet; safe -/
  | notModelled (mnemonic : String)
deriving DecidableEq, Repr

/-- The state of the block. -/
structure State where
  /-- commands that wait, first in, first out -/
  pending : List Instr
  /-- the counter that free values are applied to; the model's own -/
  fresh : Nat
  /-- value returned by the last read access -/
  bus : Nat
  /-- physical sites (R51) -/
  sites : Vector SiteSt 34
  /-- CLUSTER_MAP_k.PHYS (R63) -/
  map : Vector Nat 34
  /-- site that last served a global number (R59) -/
  lastSite : Vector (Fin 34) 34
  regions : Vector RegionSt 8
  hhs : Vector HhSt 16
  pools : Vector PoolSt 8
  db : Doorbell
  cellar : Cellar
  attic : Attic
  /-- DEED_FLOOR of the attic, which only rises (R81, R82) -/
  deedFloor : Nat
  deed : Option Deed
  loader : Loader
  /-- TX_SEL_BASE.BASE as a CPA (R335) -/
  selBase : Nat
  /-- DISCARD_COUNT (R63) -/
  discFunc : Nat
  discCount : Nat
  /-- lost-clear counter of the house block, which no register shows (R13) -/
  houseLost : Nat
  /-- µs since the end of the package reset -/
  us : Nat
  fo : FoSt
  pw : PwSt
  terr : TerrSt
  porch : PorchSt
  rst : RstSt
  boot : BootSt
  hearth : HearthSt
  sb : SbSt
  /-- everything the package has sent, newest first -/
  sent : List Emit
deriving DecidableEq, Repr

/-- Identity and grade of the part (R3, R63): an SFM-8400-LQ, stepping A2, no site fused off; the signer digests,
the serial number and the attestation scalar are values the model names (log 4). -/
def Attic.init : Attic :=
  { part := 0x8400, stepping := 0xA2, package := 1, fused := 0, serial := 1, signers := #v[1, 2, 3, 4],
    revoked := .replicate 4 false, fwFloor := 0, attestKey := 1 }

/-- The machine right after a power-on reset (R361-R378): start-up stands at step 1. -/
def State.reset : State :=
  { pending := [], fresh := 0, bus := 0, sites := .replicate 34 SiteSt.init, map := .ofFn fun k => k.val,
    lastSite := .ofFn fun k => k, regions := .replicate 8 RegionSt.init, hhs := .replicate 16 HhSt.init,
    pools := .replicate 8 PoolSt.init, db := Doorbell.init, cellar := ⟨[], [], .replicate 8 StackSt.init, none, none⟩,
    attic := Attic.init, deedFloor := 0, deed := none, loader := Loader.init, selBase := 0, discFunc := 0, discCount := 0, houseLost := 0, us := 0,
    fo := FoSt.init, pw := PwSt.init, terr := TerrSt.init, porch := PorchSt.init, rst := RstSt.init,
    boot := BootSt.init, hearth := HearthSt.init, sb := SbSt.init, sent := [] }

end Sys2Proof.Machine
end

