-- ==== Sys2Proof/Machine/Ops.lean ====
section
/-! DEFINITION. The named operations over the state that the meanings share: parts of the state, the
doorbell controller, the cellar, translation, household memory, faults and the completion ring. -/

namespace Sys2Proof.Machine

/-- What a meaning answers. -/
abbrev Out := Host.Outcome State Fault Refusal

/- Parts of the state. -/

def upSite (s : State) (i : Fin 34) (f : SiteSt → SiteSt) : State := { s with sites := vmod s.sites i f }
def upReg (s : State) (r : Rg) (f : RegionSt → RegionSt) : State := { s with regions := vmod s.regions r f }
def upHh (s : State) (h : Hh) (f : HhSt → HhSt) : State := { s with hhs := vmod s.hhs h f }
def upPool (s : State) (i : Fin 8) (f : PoolSt → PoolSt) : State := { s with pools := vmod s.pools i f }
def upCore (s : State) (r : Rg) (f : Core → Core) : State := upReg s r fun g => { g with core := f g.core }
/-- The share of household h on site i. -/
def upSet (s : State) (i : Fin 34) (h : Hh) (f : HSet → HSet) : State :=
  upSite s i fun c => { c with sets := vmod c.sets h f }
def upCmd (s : State) (h : Hh) (f : HhCmd → HhCmd) : State := upHh s h fun c => { c with cmd := f c.cmd }
def upTr (s : State) (h : Hh) (f : HhTrans → HhTrans) : State := upHh s h fun c => { c with tr := f c.tr }
def upTx (s : State) (h : Hh) (f : HhTx → HhTx) : State := upHh s h fun c => { c with tx := f c.tx }
def upTerr (s : State) (h : Hh) (f : HhTerr → HhTerr) : State := upHh s h fun c => { c with terr := f c.terr }
def upSb (s : State) (h : Hh) (f : HhSb → HhSb) : State := upHh s h fun c => { c with sb := f c.sb }
def upStack (s : State) (k : StackId) (f : StackSt → StackSt) : State :=
  { s with cellar := { s.cellar with stackSts := vmod s.cellar.stackSts k f } }
def upChan (s : State) (k : StackId) (c : Fin 32) (f : ChanSt → ChanSt) : State :=
  upStack s k fun st => { st with chans := vmod st.chans c f }

def siteAt (s : State) (i : Fin 34) : SiteSt := s.sites.get i
def hhAt (s : State) (h : Hh) : HhSt := s.hhs.get h
def setAt (s : State) (i : Fin 34) (h : Hh) : HSet := (siteAt s i).sets.get h
def regAt (s : State) (r : Rg) : RegionSt := s.regions.get r
def coreAt (s : State) (r : Rg) : Core := (regAt s r).core

/-- The free-value counter moves on by one occasion (log 5). -/
def tickFresh (s : State) : State := { s with fresh := s.fresh + 1 }

/- Clusters, households and regions (R50, R51, R65). -/

/-- Site that serves global number k, none when the map reads 0x3F (R63). -/
def siteOf (s : State) (k : Gl) : Option Site := fin? 34 (s.map.get k)
/-- ACTIVE bit of k in FEAT_ACTIVE (R63). -/
def isActive (s : State) (k : Gl) : Bool := decide (k.val < 32) && (siteOf s k).isSome
/-- Region of a cluster number below 32 (R50). -/
def regionOf (k : Gl) : Rg := ⟨k.val / 4 % 8, by omega⟩
/-- Cluster c of region r (R50). -/
def clusterOf (r : Rg) (c : Fin 4) : Gl := ⟨4 * r.val + c.val, by omega⟩
/-- Global number of which a site is the serving or last serving site (R51, R59). -/
def globalOf (s : State) (i : Site) : Option Gl := findFin 34 fun k => s.map.get k == i.val

/-- Pool of which h is a member under the deed in force. -/
def poolOf (s : State) (h : Hh) : Option (Fin 8) := s.deed.bind fun d => (d.grants.get h).pool
/-- Pool definition by number. -/
def poolDef (s : State) (i : Fin 8) : Option PoolDef := s.deed.bind fun d => d.pools[i.val]?
/-- A retire of the household is under way: its queues are closed (R93). -/
def retiring (s : State) (h : Hh) : Bool := s.loader.job == some (.retire h)
/-- The cluster is held exclusively by h under its lease (R65). -/
def holdsExcl (s : State) (h : Hh) (k : Gl) : Bool :=
  match (hhAt s h).lease with
  | none => false
  | some l => !retiring s h && l.excl.testBit k.val
/-- The cluster belongs to the pool on which h's lease runs (R65). -/
def holdsPool (s : State) (h : Hh) (k : Gl) : Bool :=
  match (hhAt s h).lease, poolOf s h with
  | some l, some p => !retiring s h && l.usePool && (match poolDef s p with
      | some d => d.enabled && d.clusters.testBit k.val
      | none => false)
  | _, _ => false
def holds (s : State) (h : Hh) (k : Gl) : Bool := holdsExcl s h k || holdsPool s h k
/-- Household h has a cluster in region r (R66). -/
def inRegion (s : State) (h : Hh) (r : Rg) : Bool :=
  (List.range 4).any fun c => match fin? 34 (4 * r.val + c) with
    | some k => holds s h k
    | none => false
/-- The cluster serves h at this moment: exclusively, or in its quantum outside a switch (R65, R331). -/
def serves (s : State) (i : Site) (h : Hh) : Bool := decide ((siteAt s i).served = some h)

/-- N of a household's lease (R18). -/
def ringN (l : Lease) : Nat := 2 ^ l.log2n
/-- Primes in chain order (R183). -/
def chain (l : Lease) : List Nat := l.primes ++ l.specials
/-- L + K. -/
def chainLen (l : Lease) : Nat := (chain l).length
/-- Prime of an identifier of R47: j for q_j, 64 + j for p_j. -/
def primeOfId (l : Lease) (id : Nat) : Option Nat :=
  if id < 64 then l.primes[id]? else l.specials[id - 64]?
/-- Chain position of an identifier of R47. -/
def posOfId (l : Lease) (id : Nat) : Nat := if id < 64 then id else l.primes.length + (id - 64)
/-- ROW_LOG2 in force: 0 selects half of log2 N rounded up (R77). -/
def rowLog2 (l : Lease) : Nat := if l.rowLog2 = 0 then (l.log2n + 1) / 2 else l.rowLog2

/-- CMD_MODE of the lease in force (R141). -/
def modeOf (s : State) (h : Hh) : Nat := match (hhAt s h).lease with
  | none => 0
  | some l => l.mode

/- Doorbells (R419-R424). -/

def dbPending (s : State) (src : Nat) : Bool := match fin? 16 (src / 64) with
  | some w => (s.db.pend.get w).testBit (src % 64)
  | none => false
def dbSetPend (d : Doorbell) (src : Nat) (on : Bool) : Doorbell := match fin? 16 (src / 64) with
  | some w => { d with pend := vmod d.pend w fun v => if on then setBit v (src % 64) else clrBit v (src % 64) }
  | none => d
/-- A raise: the pending bit is set, or the raise merges with one already set (R421). -/
def raise (s : State) (src : Nat) : State :=
  if dbPending s src then { s with db := { s.db with merged := satInc 16 s.db.merged } }
  else { s with db := dbSetPend s.db src true }
/-- Source j of household h (R420). -/
def hhSrc (h : Hh) (j : Nat) : Nat := 256 + 48 * h.val + j
/-- The household's error doorbell (R140, R420). -/
def errBell (s : State) (h : Hh) : State := raise s (hhSrc h 0)
/-- Doorbell of a site's event flags (R419). -/
def siteBell (s : State) (i : Site) : State := raise s (16 + i.val)
/-- Doorbell of a region (R419). -/
def regBell (s : State) (r : Rg) : State := raise s (64 + r.val)

/- The cellar (R290-R298). -/

def cellarSize : Nat := 2 ^ 39
/-- First byte of the retirement reserve (R290). -/
def reserveBase : Nat := 0x7F80000000
def reserveLg : Nat := 8355840
/-- Channel of a granule (R291). -/
def chanOf (g : Nat) : Nat := (g % 256) ^^^ (g / 256 % 256) ^^^ (g / 65536 % 256) ^^^ (g / 16777216 % 128)
/-- Granule of a channel and its channel-local granule number (R291). -/
def granuleOf (ch lg : Nat) : Nat :=
  lg * 256 + (ch ^^^ (lg % 256) ^^^ (lg / 256 % 256) ^^^ (lg / 65536 % 128))
/-- Target of granule lg of a retired channel c (R298). -/
def retireTarget (c lg : Nat) : Nat :=
  let b := lg % 255
  granuleOf (if b < c then b else b + 1) (reserveLg + lg / 255)
/-- Place of a CPA after the redirection of a retired channel (R297). -/
def place (s : State) (a : Nat) : Nat :=
  match s.cellar.retired with
  | some (c, true) =>
    let g := a / 256
    if chanOf g = c.val && decide (g / 256 < reserveLg) then retireTarget c.val (g / 256) * 256 + a % 256 else a
  | _ => a
/-- Byte at a CPA. -/
def cGet (s : State) (a : Nat) : Byte := spGet 0 s.cellar.mem (place s a)
/-- n bytes from a CPA. -/
def cRead (s : State) (a n : Nat) : List Byte := (List.range n).map fun i => cGet s (a + i)
/-- The 64-byte unit of a CPA is poisoned (R293). -/
def poisoned (s : State) (a : Nat) : Bool := s.cellar.poison.contains (place s a / 64)
/-- Store of one byte; a poison stays. -/
def cPut (s : State) (a : Nat) (b : Byte) : State :=
  { s with cellar := { s.cellar with mem := spSet 0 s.cellar.mem (place s a) b } }
/-- Whole 64-byte units from a on, within n bytes, lose their poison (R293). -/
def clearPoison (s : State) (a n : Nat) : State :=
  let us := ((List.range (n / 64 + 1)).map fun i => (a + 63) / 64 * 64 + 64 * i).filter fun u => decide (u + 64 ≤ a + n)
  { s with cellar := { s.cellar with poison := s.cellar.poison.filter fun p => !us.any fun u => place s u / 64 == p } }
/-- Store of bytes from a CPA on. -/
def cWrite (s : State) (a : Nat) (bs : List Byte) : State :=
  clearPoison ((bs.zip (List.range bs.length)).foldl (fun t e => cPut t (a + e.2) e.1) s) a bs.length
/-- First poisoned byte of a range. -/
def firstPoison (s : State) (a n : Nat) : Option Nat := (List.range n).find? fun i => poisoned s (a + i)
/-- The unit of a CPA is poisoned. -/
def poisonUnit (s : State) (a : Nat) : State :=
  { s with cellar := { s.cellar with poison := insNat s.cellar.poison (place s a / 64) } }

/- Translation (R305-R309). -/

/-- What an access needs of its leaf (R308). -/
inductive Acc where
  | read | write | fetch
deriving DecidableEq, Repr

/-- Status codes (R10). -/
def stOk : Nat := 0x00
def stTileShape : Nat := 0x11
def stTileUnconf : Nat := 0x12
def stTileRow : Nat := 0x13
def stEngAbsent : Nat := 0x21
def stBadOpcode : Nat := 0x22
def stZeroStride : Nat := 0x23
def stRange : Nat := 0x24
def stHandle : Nat := 0x25
def stShape : Nat := 0x26
def stOverflow : Nat := 0x27
def stKey : Nat := 0x31
def stLevel : Nat := 0x32
def stGalois : Nat := 0x33
def stModulus : Nat := 0x34
def stDomain : Nat := 0x35
def stSeal : Nat := 0x41
def stAbft : Nat := 0x42
def stCellar : Nat := 0x43
def stSched : Nat := 0x44
def stTrans : Nat := 0x51
def stPerm : Nat := 0x52
def stPartial : Nat := 0x53
def stTxAbort : Nat := 0x61
def stTxCap : Nat := 0x62
def stTxNest : Nat := 0x63
def stImgSig : Nat := 0x71
def stImgConf : Nat := 0x72
def stImgForm : Nat := 0x73
def stPkCurve : Nat := 0x81
def stPkParam : Nat := 0x82
def stPkAbort : Nat := 0x83
def stPkRange : Nat := 0x84
def stDeadline : Nat := 0x91

/-- Shift and width of the index of level n of a walk (R305): levels 3, 2, 1, 0. -/
def levelShift : Nat → Nat
  | 0 => 16
  | 1 => 25
  | 2 => 34
  | _ => 43

/-- A leaf at level n, checked by R307, as the 64 KiB page of va. -/
def leafPage (n e va : Nat) : Option PageX :=
  let size := 2 ^ levelShift n
  let addr := bits e 12 27 * 4096
  let tx := e.testBit 5
  let span := if tx then 131072 else size
  if addr % size ≠ 0 then none
  else if tx && (decide (n ≠ 0) || decide (addr % 131072 ≠ 0)) then none
  else if addr + span > reserveBase then none
  else some ⟨if tx then addr else addr + va % size / 65536 * 65536, tx, e.testBit 4, e.testBit 3, e.testBit 2⟩

/-- The walk from level n, on a table at CPA t (R307). A poisoned table unit reads as an invalid entry. -/
def walkFrom (s : State) : Nat → Nat → Nat → Option PageX
  | n, t, va =>
    let ix := if n = 3 then bits va 43 5 else bits va (levelShift n) 9
    let e := leNat (cRead s (t + 8 * ix) 8)
    if !e.testBit 0 || decide (bits e 39 25 ≠ 0) || decide (bits e 6 6 ≠ 0) then none
    else if e.testBit 1 then (if n = 3 then none else leafPage n e va)
    else match n with
      | 0 => none
      | m + 1 => if bits e 2 4 ≠ 0 then none else walkFrom s m (bits e 12 27 * 4096) va

/-- The page of a virtual address by the tables (R307). -/
def walk (s : State) (h : Hh) (va : Nat) : Option PageX :=
  let tr := (hhAt s h).tr
  if va ≥ 2 ^ 48 || !tr.valid then none else walkFrom s 3 tr.root va

/-- The page of a virtual address as an access finds it: the tables' answer, or that of an entry which a translation cache
of the household still holds; where they differ the choice is open until an invalidation (R309, R310, log 14). -/
def pageOf (s : State) (h : Hh) (va : Nat) : Option PageX :=
  let tr := (hhAt s h).tr
  let cached := if va ≥ 2 ^ 48 || !tr.valid then [] else (tr.tlb.filter fun e => e.page == va / 65536).map fun e => some e.tab
  match cached with
  | [] => walk s h va
  | _ =>
    let all := walk s h va :: cached
    all.getD ((Config.freeWordAt s.fresh (2 ^ 32 + va / 65536)).toNat % all.length) none
/-- Units that hold a translation cache, by the AGENT of HH_FAULT and their number (R309, R336). -/
def tlbUnit (agent n : Nat) : Nat := 64 * agent + n
/-- A unit has translated these addresses: its cache may hold their pages from now on (R309). -/
def cachePages (s : State) (h : Hh) (unit : Nat) (vas : List Nat) : State :=
  vas.foldl (fun t va => match pageOf t h va with
    | none => t
    | some p => upTr t h fun x => { x with
        tlb := ⟨unit, va / 65536, p⟩ :: x.tlb.filter fun e => !(e.unit == unit && e.page == va / 65536) }) s
/-- First addresses of the pages of a range. -/
def pagesOf (va n : Nat) : List Nat :=
  if n = 0 then [] else (List.range ((va + n - 1) / 65536 - va / 65536 + 1)).map fun i =>
    (if i = 0 then va else (va / 65536 + i) * 65536) % 2 ^ 64

/-- The status with which an access is refused (R307, R308), or its page. `agent`: a household agent of
R313, otherwise a requester outside the group. -/
def xlate (s : State) (h : Hh) (agent : Bool) (acc : Acc) (va : Nat) : Except Nat PageX :=
  match pageOf s h va with
  | none => .error stTrans
  | some p =>
    match acc with
    | .read => if p.r then .ok p else .error stPerm
    | .fetch => if p.x && p.r then .ok p else .error stPerm
    | .write =>
      if !p.w then .error stPerm
      else if p.tx && (!agent || !(hhAt s h).tx.opened) then .error stPerm
      else .ok p

/- Transactional frames (R312-R317). -/

def pairOf (p : PageX) : Nat := p.frame / 131072
/-- Selector bit of a pair: copy 1 is current (R312). -/
def selector (s : State) (pair : Nat) : Bool := (cGet s (s.selBase + pair / 8)).toNat.testBit (pair % 8)
def setSelector (s : State) (pair : Nat) (v : Bool) : State :=
  let a := s.selBase + pair / 8
  let b := (cGet s a).toNat
  cPut s a (BitVec.ofNat 8 (if v then setBit b (pair % 8) else clrBit b (pair % 8)))
def inWriteSet (s : State) (h : Hh) (pair : Nat) : Bool := (hhAt s h).tx.writeSet.any fun e => e.1 == pair
/-- CPA that a read of va reaches (R313). -/
def readCpa (s : State) (h : Hh) (agent : Bool) (p : PageX) (va : Nat) : Nat :=
  if p.tx then
    let cur := selector s (pairOf p)
    let shadow := agent && (hhAt s h).tx.opened && inWriteSet s h (pairOf p)
    p.frame + (if xor cur shadow then 65536 else 0) + va % 65536
  else p.frame + va % 65536
/-- CPA that a write of va reaches, once its frame is in the write set. -/
def writeCpa (s : State) (p : PageX) (va : Nat) : Nat :=
  if p.tx then p.frame + (if selector s (pairOf p) then 0 else 65536) + va % 65536 else p.frame + va % 65536
/-- Copy of n bytes from one CPA to another, poison included. -/
def cCopy (s : State) (src dst n : Nat) : State :=
  (List.range (n / 64)).foldl (fun t i =>
    let t := cWrite t (dst + 64 * i) (cRead t (src + 64 * i) 64)
    if poisoned t (src + 64 * i) then poisonUnit t (dst + 64 * i) else t) s
/-- The journal header of R317. -/
def journalHeader (s : State) (h : Hh) (st count seq : Nat) : State :=
  let tx := (hhAt s h).tx
  if tx.journal = 0 then s
  else cWrite s tx.journal (leBytes 4 st ++ leBytes 4 count ++ leBytes 4 seq ++ List.replicate 4084 0)
/-- First write to a frame (R315): pair added, journal entry appended, current copy copied to the shadow.
None when the write set is full. -/
def firstWrite (s : State) (h : Hh) (p : PageX) : Option State :=
  let tx := (hhAt s h).tx
  let pair := pairOf p
  if inWriteSet s h pair then some s
  else if tx.writeSet.length ≥ 2 ^ 20 then none
  else
    let cur := selector s pair
    let k := tx.writeSet.length
    let s := upTx s h fun t => { t with writeSet := t.writeSet ++ [(pair, !cur)] }
    let s := if tx.journal = 0 then s
      else cWrite (cWrite s (tx.journal + 4096 + 8 * k) (leBytes 8 (pair * 131072 + b2n (!cur)))) (tx.journal + 4)
        (leBytes 4 (k + 1))
    some (cCopy s (p.frame + (if cur then 65536 else 0)) (p.frame + (if cur then 0 else 65536)) 65536)

/- Household memory (R309-R316). -/

/-- Why an access of a household ends: a translation or permission fault at an address, an uncorrectable
unit, or a full write set. -/
inductive MErr where
  | fault (status va : Nat)
  | ue (va : Nat)
  | txCap (va : Nat)
deriving DecidableEq, Repr

def MErr.status : MErr → Nat
  | .fault st _ => st
  | .ue _ => stCellar
  | .txCap _ => stTxCap

/-- First address of a range that fails translation, with its status. -/
def xlateRange (s : State) (h : Hh) (agent : Bool) (acc : Acc) (va n : Nat) : Option (Nat × Nat) :=
  let pages := if n = 0 then [] else (List.range ((va + n - 1) / 65536 - va / 65536 + 1)).map fun i =>
    if i = 0 then va else (va / 65536 + i) * 65536
  pages.findSome? fun a => match xlate s h agent acc (a % 2 ^ 64) with
    | .error st => some (st, a % 2 ^ 64)
    | .ok _ => none

/-- Bytes of a range, read whole: translated first, then checked for uncorrectable units. -/
def hRead (s : State) (h : Hh) (agent : Bool) (acc : Acc) (va n : Nat) : Except MErr (List Byte) :=
  match xlateRange s h agent acc va n with
  | some (st, a) => .error (.fault st a)
  | none =>
    let cpas := (List.range n).map fun i =>
      match xlate s h agent acc ((va + i) % 2 ^ 64) with
      | .ok p => readCpa s h agent p ((va + i) % 2 ^ 64)
      | .error _ => 0
    match (List.range n).find? fun i => poisoned s (cpas.getD i 0) with
    | some i => .error (.ue (va + i))
    | none => .ok (cpas.map (cGet s))

/-- The frames of the pages of a range enter the write set (R315). -/
def openFrames (s : State) (h : Hh) (va n : Nat) : Except MErr State :=
  let pages := if n = 0 then [] else (List.range ((va + n - 1) / 65536 - va / 65536 + 1)).map fun i =>
    if i = 0 then va else (va / 65536 + i) * 65536
  pages.foldl (fun r a => match r with
    | .error e => .error e
    | .ok t => match xlate t h true .write (a % 2 ^ 64) with
      | .error st => .error (.fault st (a % 2 ^ 64))
      | .ok p => if p.tx then (match firstWrite t h p with
          | some u => .ok u
          | none => .error (.txCap a)) else .ok t) (.ok s)

/-- Bytes written to a range, whole: translated first, then stored, in shadows where R313 says so. -/
def hWrite (s : State) (h : Hh) (agent : Bool) (va : Nat) (bs : List Byte) : Except MErr State :=
  match xlateRange s h agent .write va bs.length with
  | some (st, a) => .error (.fault st a)
  | none =>
    match (if agent then openFrames s h va bs.length else .ok s) with
    | .error e => .error e
    | .ok t =>
      let cpa := fun a => match xlate t h agent .write (a % 2 ^ 64) with
        | .ok p => writeCpa t p (a % 2 ^ 64)
        | .error _ => 0
      let u := (bs.zip (List.range bs.length)).foldl (fun w e => cPut w (cpa (va + e.2)) e.1) t
      let units := ((List.range (bs.length / 64 + 1)).map fun i => (va + 63) / 64 * 64 + 64 * i).filter
        fun x => decide (x + 64 ≤ va + bs.length)
      .ok (units.foldl (fun w x => clearPoison w (cpa x) 64) u)

/-- What a split write of which a part fails leaves: the bytes from the first failing one on are open (R328). -/
def splitWrite (occasion : Nat) (bs : List Byte) : Option Nat → List Byte
  | none => bs
  | some o => bs.take o ++ (List.range (bs.length - o)).map (Config.freeByte occasion)

/-- HH_FAULT records a fault (R336). -/
def recordFault (s : State) (h : Hh) (agent st va : Nat) : State :=
  upTr s h fun t => { t with faultStatus := st, faultAgent := agent, faultVa := va % 2 ^ 48 }

/- The completion ring (R138, R139). -/

/-- FLAGS of a status word without PHASE (R138). -/
def wordFlags (h : Hh) (susp : Bool) (operand : Nat) : Nat := b2n susp * 64 + operand * 16 + h.val
/-- The 16 bytes of a status word, PHASE clear (R138). -/
def statusWord (st opcode unit flags seq offset recd : Nat) : List Byte :=
  leBytes 1 st ++ leBytes 1 opcode ++ leBytes 1 unit ++ leBytes 1 flags ++ leBytes 4 seq ++ leBytes 4 offset ++
    leBytes 4 recd
/-- What keeps the next word from the ring: none, a full ring, or a fault at an address. -/
inductive RingBlock where
  | free | full | fault (status va : Nat)
deriving DecidableEq, Repr

def ringState (s : State) (h : Hh) : RingBlock :=
  let c := (hhAt s h).cmd
  let va := c.cqBase + 16 * (c.cqTail % 2 ^ c.cqLog2)
  if (c.cqTail + 2 ^ 32 - c.cqHead) % 2 ^ 32 ≥ 2 ^ c.cqLog2 then .full
  else match walk s h va with
    | none => .fault stTrans va
    | some p => if p.w then .free else .fault stPerm va
/-- The word enters the ring: always the current copy, PHASE by the position (R139). -/
def ringPut (s : State) (h : Hh) (w : List Byte) : State :=
  let c := (hhAt s h).cmd
  let va := c.cqBase + 16 * (c.cqTail % 2 ^ c.cqLog2)
  let ph := (c.cqTail / 2 ^ c.cqLog2 + 1) % 2
  let w := w.zip (List.range 16) |>.map fun e => if e.2 = 3 then BitVec.ofNat 8 (e.1.toNat % 128 + 128 * ph) else e.1
  let s := match walk s h va with
    | some p => cWrite s (readCpa s h false p va) w
    | none => s
  upCmd s h fun c => { c with cqTail := wrapInc 32 c.cqTail }
/-- Waiting words enter the ring in order while nothing blocks it (R139). -/
def ringDrain (s : State) (h : Hh) : State :=
  let n := (hhAt s h).cmd.cqWait.length
  go n s
where
  go : Nat → State → State
    | 0, s => s
    | n + 1, s =>
      match (hhAt s h).cmd.cqWait with
      | [] => s
      | w :: ws => match ringState s h with
        | .free =>
          let s := ringPut s h w.word
          go n (upCmd s h fun c => { c with cqWait := ws, cqFault := false })
        | .full => upCmd s h fun c => { c with cqFault := false }
        | .fault st va =>
          if (hhAt s h).cmd.cqFault then s
          else errBell (recordFault (upCmd s h fun c => { c with cqFault := true }) h 10 st va) h
/-- A word becomes ready (R139): written when nothing blocks the ring, otherwise it waits its turn. While
ENABLE = 0 no word is written. A new ring fault is recorded and raises the error doorbell. -/
def postWord (s : State) (h : Hh) (w : List Byte) (owner : Option (QueueId × Nat)) : State :=
  let c := (hhAt s h).cmd
  if !c.cqEnable then s
  else if !c.cqWait.isEmpty then upCmd s h fun c => { c with cqWait := c.cqWait ++ [⟨w, owner⟩] }
  else match ringState s h with
    | .free => ringPut s h w
    | .full => upCmd s h fun c => { c with cqWait := [⟨w, owner⟩] }
    | .fault st va =>
      errBell (recordFault (upCmd s h fun c => { c with cqWait := [⟨w, owner⟩], cqFault := true }) h 10 st va) h
/-- A word of this command still waits for the ring. -/
def wordWaits (s : State) (h : Hh) (q : QueueId) (seq : Nat) : Bool :=
  (hhAt s h).cmd.cqWait.any fun w => w.owner == some (q, seq)

end Sys2Proof.Machine
end

