-- ==== Sys2Proof/Machine/Flags.lean ====
section
/-! DEFINITION. Flags: every status flag a command sets, clears or counts, the lost clears of R12 and R13,
and the conditions of results that the engines and the control core compute. -/

namespace Sys2Proof.Machine

/-- A W1C flag after a write of v to its bit in a cycle in which hardware may set it too: the set wins (R12). -/
def w1c (old wr hw : Bool) : Bool := hw || (old && !wr)
/-- A clear was discarded: software cleared and hardware set the flag in one cycle (R12, R13). -/
def clearLost (wr hw : Bool) : Bool := wr && hw
/-- The lost-clear counter moves once for a cycle that discards a clear (R13). -/
def lostInc (c : Nat) (lost : Bool) : Nat := if lost then satInc 16 c else c
/-- A status aborts an open group (R321). -/
def abortsGroup (st : Nat) : Bool :=
  [stSeal, stKey, stGalois, stLevel, stAbft, stCellar, stPartial, stTxCap].contains st
/-- A status suspends a command that meets it on a block (R137). -/
def suspends (st : Nat) : Bool := st == stTrans || st == stPerm

/-- An entry of the fault log, written at HEAD (R358). -/
def logFault (s : State) (event unit phys status hh : Nat) : State :=
  let n : Fin 64 := ⟨s.fo.head % 64, by omega⟩
  { s with fo := { s.fo with
      log := s.fo.log.set n.val ⟨s.us / 1000 % 2 ^ 32, event, phys, status, hh, unit⟩ n.isLt
      head := (n.val + 1) % 64 } }
/-- The retry of a command in place is logged with the mismatch that caused it (R338, R358). -/
def logRetry (s : State) (k : Gl) (i : Site) (h : Hh) : State := logFault s 0x01 k.val i.val stAbft h.val
/-- A message leaves the package. -/
def send (s : State) (m : Emit) : State := { s with sent := m :: s.sent }

/- Event flags of a site and its doorbell (R419). -/

def evMx (s : State) (i : Site) (f : MxRegs → MxRegs) : State := siteBell (upSite s i fun c => { c with mx := f c.mx }) i
def evNt (s : State) (i : Site) (f : NtRegs → NtRegs) : State := siteBell (upSite s i fun c => { c with nt := f c.nt }) i
def evPm (s : State) (i : Site) (f : PmRegs → PmRegs) : State := siteBell (upSite s i fun c => { c with pm := f c.pm }) i
def evVx (s : State) (i : Site) (f : VxRegs → VxRegs) : State := siteBell (upSite s i fun c => { c with vx := f c.vx }) i
def evSt (s : State) (i : Site) (f : StRegs → StRegs) : State := siteBell (upSite s i fun c => { c with st := f c.st }) i
def evPs (s : State) (i : Site) (h : Hh) (f : Psq → Psq) : State := siteBell (upSet s i h fun t => { t with psq := f t.psq }) i
def evPn (s : State) (i : Site) (f : PnRegs → PnRegs) : State := siteBell (upSite s i fun c => { c with pn := f c.pn }) i
/-- Event flags of a region's larder and its doorbell. -/
def evLd (s : State) (r : Rg) (f : LdRegs → LdRegs) : State := regBell (upReg s r fun g => { g with ld := f g.ld }) r
/-- Event flags of a stack and its doorbell. -/
def evStack (s : State) (k : StackId) (f : StackSt → StackSt) : State := raise (upStack s k f) (8 + k.val)

end Sys2Proof.Machine
end

