-- ==== Sys2Proof/Machine/Cellar.lean ====
section
/-! DEFINITION. The cellar's controllers: error outcomes, scrubbers, channel retirement and traffic generators
(R289-R300, R304). -/

namespace Sys2Proof.Machine

/-- Stack and channel within the stack of a channel number (R50). -/
def chanStack (ch : Nat) : StackId := ⟨ch / 32 % 8, by omega⟩
def chanIn (ch : Nat) : Fin 32 := ⟨ch % 32, by omega⟩
def chanAt (s : State) (ch : Nat) : ChanSt := (s.cellar.stackSts.get (chanStack ch)).chans.get (chanIn ch)

/-- A retirement starts (R296, R345): STATE, the log entry and the fault doorbell. -/
def retireBegin (s : State) (ch : Fin 256) : State :=
  let s := upStack { s with cellar := { s.cellar with retired := some (ch, false) } } (chanStack ch.val) fun k =>
    { k with state := 1, channel := ch.val % 32, progress := 0 }
  raise (logFault s 0x04 ch.val 0x3F 0 0) 0

/-- START of CE_RETIRE, or the automatic start (none): refused while another channel migrates or is retired. -/
def retireStart (s : State) (k : StackId) (c : Fin 32) (auto : Bool) : State :=
  let ch : Fin 256 := ⟨32 * k.val + c.val, by omega⟩
  match s.cellar.retired with
  | none => retireBegin s ch
  | some (d, _) =>
    -- after a warm reset the retired channel's STATE reads 0, and every START is refused (R362)
    if auto || (d == ch && decide ((s.cellar.stackSts.get k).state ≠ 0)) then s else upStack s k fun x => { x with state := 3 }

/-- Times of the last second (R296). -/
def lastSecond (now : Nat) (ts : List Nat) : List Nat := ts.filter fun t => decide (now < t + 1000000)

/-- The automatic start of a retirement (R296); the failure of a second channel becomes a die fault (R299). -/
def retireAuto (s : State) (ch : Nat) : State := match s.cellar.retired with
  | some (d, _) =>
    if d.val = ch ∨ s.cellar.second.isSome then s
    else { s with cellar := { s.cellar with second := some (⟨ch / 128 % 2, by omega⟩, false) } }
  | none => retireStart s (chanStack ch) (chanIn ch) true
/-- A channel whose corrected count of the last second exceeds CE_LIMIT, or whose uncorrectable count reaches
UE_LIMIT, has passed a limit; with AUTO = 1 its retirement starts (R296). -/
def limitCheck (s : State) (ch : Nat) : State :=
  let s := upChan s (chanStack ch) (chanIn ch) fun x => { x with ceTimes := lastSecond s.us x.ceTimes, ueTimes := lastSecond s.us x.ueTimes }
  let k := s.cellar.stackSts.get (chanStack ch)
  let c := k.chans.get (chanIn ch)
  if decide (c.ceTimes.length > k.ceLimit) || decide (c.ueTimes.length ≥ k.ueLimit) then
    let s := evStack s (chanStack ch) fun x => { x with evLimit := true }
    if k.auto then retireAuto s ch else s
  else s

/-- A unit read with an outcome of the table "Cellar error outcomes" (R293): `a` is its place, `g` the granule
that CE_LAST_c names. A poisoned unit counts as uncorrectable. -/
def eccNote (s : State) (a g : Nat) (e : Ecc) : State :=
  let ch := chanOf (a / 256)
  let k := chanStack ch
  let c := chanIn ch
  let e := if s.cellar.poison.contains (a / 64) then Ecc.uncorrectable else e
  match e with
  | .clean => s
  | .onDie => upChan s k c fun x => { x with odc := satInc 16 x.odc }
  | .corrected => limitCheck (upChan s k c fun x => { x with
      ce := satInc 16 x.ce, lastUe := false, lastGr := g, ceTimes := s.us :: x.ceTimes }) ch
  | .uncorrectable =>
    let s := { s with cellar := { s.cellar with poison := insNat s.cellar.poison (a / 64) } }
    let s := upChan s k c fun x => { x with
      ue := satInc 16 x.ue, lastUe := true, lastGr := g, ueTimes := s.us :: x.ueTimes }
    limitCheck (evStack s k fun x => { x with evUe := true }) ch

/-- A read by CPA meets a poisoned unit (R293, R294). -/
def noteUe (s : State) (cpa : Nat) : State := eccNote s (place s cpa / 64 * 64) (cpa / 256) .uncorrectable
/-- A read of a household meets a poisoned unit at a virtual address. -/
def noteUeVa (s : State) (h : Hh) (agent : Bool) (acc : Acc) (va : Nat) : State := match xlate s h agent acc va with
  | .ok p => noteUe s (readCpa s h agent p va)
  | .error _ => s
/-- What a failed read of a household leaves: a fault in HH_FAULT, or a counted unit. -/
def noteMErr (s : State) (h : Hh) (agentCode : Nat) (e : MErr) : State := match e with
  | .fault st va => recordFault s h agentCode st va
  | .ue va => noteUeVa s h true .read va
  | .txCap _ => s

/-- SCRUB_READ (R295): 64-byte unit `u` of a channel is read with an outcome; the pass ends with the channel's
last unit (log 15). -/
def scrubOp (s : State) (ch : Fin 256) (u : Nat) (e : Ecc) : State :=
  if u ≥ 2 ^ 25 then s
  else
    let g := granuleOf ch.val (u / 4)
    let s := eccNote s (g * 256 + u % 4 * 64) g e
    if u + 1 = 2 ^ 25 then upChan s (chanStack ch.val) (chanIn ch.val) fun x => { x with scrubs := satInc 16 x.scrubs }
    else s

/-- Place to which migration moves a place of channel c (R297, R298); the reserve of c stays. -/
def migrated (c a : Nat) : Nat :=
  let g := a / 256
  if chanOf g = c ∧ g / 256 < reserveLg then retireTarget c (g / 256) * 256 + a % 256 else a
/-- A place in the reserve of another channel, which migration overwrites. -/
def overwritten (c a : Nat) : Bool := decide (a / 65536 ≥ reserveLg) && decide (chanOf (a / 256) ≠ c)

/-- What the migration finds as it reads the granules of channel c: the units given with their outcomes, and every poisoned
one, are counted (R293, R297). -/
def migrationReads (s : State) (c : Nat) (found : List (Nat × Ecc)) : State :=
  let bad := (s.cellar.poison.filter fun u => chanOf (u / 4) == c && decide (u / 1024 < reserveLg)).map fun u =>
    (u / 1024 * 4 + u % 4, Ecc.uncorrectable)
  (found.filter (fun x => decide (x.1 < 4 * reserveLg) && !bad.any fun y => y.1 == x.1) ++ bad).foldl (fun t x =>
    eccNote t (granuleOf c (x.1 / 4) * 256 + x.1 % 4 * 64) (granuleOf c (x.1 / 4)) x.2) s
/-- CHANNEL_MIGRATION_DONE (R297, R345): every granule stands at its target, poison included. `found`: 64-byte units of the
channel, by their number, that were not read clean. -/
def migrationOp (s : State) (found : List (Nat × Ecc)) : State := match s.cellar.retired with
  | some (c, false) =>
    let s := migrationReads s c.val found
    let mem := (s.cellar.mem.filter fun e => !overwritten c.val e.1).foldl
      (fun m e => spSet 0 m (migrated c.val e.1) e.2) ([] : BMap)
    let poison := (s.cellar.poison.filter fun u => !overwritten c.val (u * 64)).foldl
      (fun m u => insNat m (migrated c.val (u * 64) / 64)) []
    let s := { s with cellar := { s.cellar with mem := mem, poison := poison, retired := some (c, true) } }
    let s := evStack s (chanStack c.val) fun k => { k with state := 2, progress := reserveLg, evRetired := true }
    raise (logFault s 0x05 c.val 0x3F 0 0) 0
  | _ => s

def execChannelMigrationDone (s : State) (found : List (Nat × Ecc) := []) : Out := .next (migrationOp s found)

/-- The write modes of a traffic generator run before a deed is in force, or on the retired channel (R300). -/
def tgWriteOk (s : State) (ch : Nat) : Bool := s.deed.isNone || match s.cellar.retired with
  | some (c, true) => c.val == ch
  | _ => false

/-- A write of CE_TG_c with GO (R300, R304). -/
def tgGo (s : State) (k : StackId) (c : Fin 32) (v : Nat) : State :=
  upChan s k c fun x =>
    let y := { x with tgPattern := bits v 60 2, tgMix := bits v 58 2, tgLength := bits v 0 32 }
    let mix := y.tgMix
    let ok := mix == 0 || (decide (mix ≤ 2) && tgWriteOk s (32 * k.val + c.val))
    if v.testBit 63 && !x.tgBusy && ok then { y with tgBusy := true, tgErrors := 0, tgRunMix := mix, tgRunLength := y.tgLength } else y

/-- Granules that a run covers. -/
def tgLen (x : ChanSt) : Nat := if x.tgRunLength = 0 then 2 ^ 23 else min x.tgRunLength (2 ^ 23)

/-- TRAFFIC_GENERATOR_DONE (R300): the count is recorded. A run that wrote leaves its pattern, whose bytes the
spec does not fix, from lg = 0 on. -/
def tgDoneOp (s : State) (k : StackId) (c : Fin 32) (errors : Nat) : State :=
  let ch := 32 * k.val + c.val
  let x := chanAt s ch
  if !x.tgBusy then s
  else
    let wrote := x.tgRunMix != 0
    let s1 := if !wrote then s else
      let mem := (List.range (tgLen x)).foldl (fun m lg =>
        spWrite 0 m (granuleOf ch lg * 256) ((List.range 256).map fun i => Config.freeByte s.fresh (256 * lg + i))) s.cellar.mem
      let poison := s.cellar.poison.filter fun u => !(chanOf (u / 4) == ch && decide (u / 1024 < tgLen x))
      tickFresh { s with cellar := { s.cellar with mem := mem, poison := poison } }
    upChan s1 k c fun y => { y with tgBusy := false, tgErrors := if x.tgRunMix = 1 then 0 else min errors 0xFFFF }

def execTrafficGeneratorDone (k : StackId) (c : Fin 32) (errors : Nat) (s : State) : Out := .next (tgDoneOp s k c errors)

end Sys2Proof.Machine
end

