-- ==== Sys2Proof/Machine/Operands.lean ====
section
/-! DEFINITION. Operand forms: fields, geometry, handles, the checks of R126 to R128, sealed blocks, and
reading and writing tensors in the pantry and in the cellar. -/

namespace Sys2Proof.Machine

/- Sealed blocks (R20-R25). -/

/-- 2^32 - 5 (R21). -/
def sealP : Nat := 4294967291

/-- Seal of a block, its missing bytes counted as zero (R20, R21). -/
def blockSeal (bs : List Byte) : Nat := go 1 bs 0
where
  go : Nat → List Byte → Nat → Nat
    | i, a :: b :: c :: d :: t, acc =>
      go (i + 1) t ((acc + i * (a.toNat + 256 * b.toNat + 65536 * c.toNat + 16777216 * d.toNat)) % sealP)
    | _, [], acc => acc
    | i, t, acc => (acc + i * leNat t) % sealP

/-- Bytes of a row. -/
def rowBytes (t : Tensor) : Nat := t.inner * t.e
/-- Rows of a tensor (R124). -/
def rowCount (t : Tensor) : Nat := t.c1 * t.c2
/-- Elements of a tensor. -/
def elemCount (t : Tensor) : Nat := t.inner * rowCount t
/-- Address of row r = i1 + C1·i2, modulo 2^64 (R124). -/
def rowAddr (t : Tensor) (r : Nat) : Nat :=
  wrapTo 64 ((t.base : Int) + (r % t.c1 : Nat) * t.s1 + (r / t.c1 : Nat) * t.s2)
/-- Blocks of a row (R23). -/
def rowBlocks (t : Tensor) : Nat := cdiv (rowBytes t) 4096
/-- Bytes cut into elements of e bytes. -/
def elems (e : Nat) (bs : List Byte) : List Nat :=
  (List.range (bs.length / (if e = 0 then 1 else e))).map fun i => leAt bs (i * e) e
/-- Elements as bytes. -/
def unElems (e : Nat) (vs : List Nat) : List Byte := vs.flatMap (leBytes e)

/- The pantry (R24, R25, R279). -/

def pantrySize : Nat := 12582912

/-- Contents a reader sees: pantry bytes and seal slots. -/
structure PView where
  bytes : BMap
  seals : NMap
deriving DecidableEq, Repr

def viewOf (c : SiteSt) : PView := ⟨c.pantry, c.seals⟩
/-- Seal check of the block at a (R24, R25). -/
def sealOk (v : PView) (a : Nat) (bs : List Byte) : Bool := spGet 0 v.seals (a / 128) == blockSeal bs

/-- A row read from the pantry. Blocks read whole are verified when the row starts at a multiple of 128 and
verification applies (R25); the tail block of a stream unit's row counts as whole. None at a seal mismatch,
which the re-read of R26 finds again. -/
def pReadRow (v : PView) (a len : Nat) (verify tails : Bool) : Option (List Byte) :=
  let bs := spRead 0 v.bytes a len
  let bad := verify && decide (a % 128 = 0) && (List.range (cdiv len 4096)).any fun j =>
    (tails || decide (4096 * j + 4096 ≤ len)) && !sealOk v (a + 4096 * j) ((bs.drop (4096 * j)).take 4096)
  if bad then none else some bs

/-- The rows of a pantry tensor as elements, up to the first row with a bad block, whose index follows. -/
def pRead (v : PView) (t : Tensor) (verify : Bool) : List (List Nat) × Option Nat :=
  (List.range (rowCount t)).foldl (fun acc r => match acc.2 with
    | some _ => acc
    | none => match pReadRow v (rowAddr t r) (rowBytes t) verify false with
      | some bs => (acc.1 ++ [elems t.e bs], none)
      | none => (acc.1, some r)) ([], none)

/-- Listed blocks that a write of n bytes from a does not overlap (R413). -/
def unlist (l : List (Nat × Nat)) (a n : Nat) : List (Nat × Nat) :=
  l.filter fun x => decide (x.1 + x.2 ≤ a) || decide (a + n ≤ x.1)

/-- A block and its seal are stored as one commit (R22, R279). In timed mode the block's readiness and its
old contents are kept for early readers (R147); a block of an untimed writer is there for every reader. The block joins
the audit list (R413). -/
def pStoreBlock (c : SiteSt) (a : Nat) (bs : List Byte) (ready : Option Nat) : SiteSt :=
  { c with
    pantry := spWrite 0 c.pantry a bs
    seals := spSet 0 c.seals (a / 128) (blockSeal bs)
    recent := ((a, bs.length) :: unlist c.recent a bs.length).take 64
    inflight := match ready with
      | none => c.inflight.filter fun f => decide (f.addr + f.bytes.length ≤ a) || decide (a + bs.length ≤ f.addr)
      | some t => ⟨t, a, spRead 0 c.pantry a bs.length, spGet 0 c.seals (a / 128)⟩ :: c.inflight }

/-- One row is written in blocks, those that `keep` names; `ready j` is the readiness of block j of the row. -/
def pWriteRow (c : SiteSt) (a : Nat) (bs : List Byte) (keep : Nat → Bool) (ready : Nat → Option Nat) : SiteSt :=
  (List.range (cdiv bs.length 4096)).foldl (fun c j =>
    if keep j then pStoreBlock c (a + 4096 * j) ((bs.drop (4096 * j)).take 4096) (ready j) else c) c

/-- Rows of values are written to a pantry destination, in ascending linear index (R128). `keep r j` names the
blocks written; readiness follows the block number in ascending order. -/
def pWrite (c : SiteSt) (t : Tensor) (rows : List (List Nat)) (keep : Nat → Nat → Bool) (ready : Nat → Option Nat) :
    SiteSt :=
  (rows.zip (List.range rows.length)).foldl (fun c e =>
    pWriteRow c (rowAddr t e.2) (unElems t.e e.1) (keep e.2) fun j => ready (e.2 * rowBlocks t + j)) c

/-- The pantry as a timed record sees it whose reads fall from t1 to t2: blocks not ready at t1 read as before,
and those that become ready up to t2 read either way, by a free choice (R146, R147). -/
def timedView (c : SiteSt) (occasion t1 : Nat) (t2 : Nat) : PView :=
  c.inflight.foldl (fun v f =>
    let old := decide (t2 < f.ready) || (decide (t1 < f.ready) && Config.freeBool occasion f.addr)
    if old then ⟨spWrite 0 v.bytes f.addr f.bytes, spSet 0 v.seals (f.addr / 128) f.slotSeal⟩ else v) (viewOf c)

/-- An accumulator entry as a timed command reads it between t1 and t2: before a result can have come as it was, once it
is readable as written, and in between either way, by a free choice; the newest write decides last (R146, R161). -/
def accSeen (c : SiteSt) (occasion t1 t2 n : Nat) : Nat :=
  ((c.accFly.filter fun f => f.entry == n).takeWhile fun f =>
    decide (t2 ≤ f.start) || (decide (t1 < f.ready) && Config.freeBool occasion n)).foldl (fun _ f => f.old) (spGet 0 c.acc n)

/- Overlap (R128). -/

/-- Bytes of a row: a bit-plane row holds one-bit elements (R124). -/
def checkRowBytes (t : Tensor) (plane : Bool) : Nat := if plane then cdiv t.inner 8 else rowBytes t
/-- Byte a belongs to the tensor. -/
def covers (t : Tensor) (a : Nat) : Bool :=
  (List.range (rowCount t)).any fun r => decide (rowAddr t r ≤ a) && decide (a < rowAddr t r + rowBytes t)
/-- Byte a belongs to a bit-plane tensor. -/
def planeCovers (t : Tensor) (a : Nat) : Bool :=
  (List.range (rowCount t)).any fun r => decide (rowAddr t r ≤ a) && decide (a < rowAddr t r + checkRowBytes t true)
/-- Source and destination are the same in base, extents and strides that count. -/
def sameTensor (a d : Tensor) : Bool :=
  a.base == d.base && a.inner == d.inner && a.c1 == d.c1 && a.c2 == d.c2 && a.e == d.e &&
    (a.c1 == 1 || a.s1 == d.s1) && (a.c2 == 1 || a.s2 == d.s2)
/-- Rows of a destination with the elements that hold one of the bytes `cov` replaced by free values. -/
def freeWhere (occasion : Nat) (cov : Nat → Bool) (d : Tensor) (rows : List (List Nat)) : List (List Nat) :=
  (rows.zip (List.range rows.length)).map fun e =>
    (e.1.zip (List.range e.1.length)).map fun x =>
      let a := rowAddr d e.2 + x.2 * d.e
      if (List.range d.e).any fun b => cov (a + b) then
        (Config.freeWordAt occasion (e.2 * d.inner + x.2)).toNat % 2 ^ (8 * d.e)
      else x.1
/-- Rows of a destination with the elements that another operand overlaps, other than in place, replaced by free
values (R128). -/
def overlapFree (occasion : Nat) (src d : Tensor) (rows : List (List Nat)) : List (List Nat) :=
  if sameTensor src d then rows else freeWhere occasion (covers src) d rows

/- Operand fields (R123-R131). -/

/-- An operand before the checks of R126: its resolved form and whether its field and its entry keep every
reserved bit at zero and every range. -/
structure RawOp where
  op : Opnd
  clean : Bool
deriving DecidableEq, Repr

/-- Strides and extents of a slot for a pantry operand with the given extents (R125). -/
def pantryTensor (g : Geo) (base inner c1 c2 : Nat) : Tensor :=
  if g.dense then ⟨base, inner, c1, c2, 4, 4 * inner, 4 * inner * c1⟩ else ⟨base, inner, c1, c2, 2 ^ g.eLog, g.s1, g.s2⟩
/-- A cellar operand through a slot (R124, R125). -/
def cellarTensor (g : Geo) (va : Nat) : Tensor :=
  if g.dense then ⟨va, 1024, 1, 1, 4, 4096, 4096⟩ else ⟨va, g.inner, g.c1, g.c2, 2 ^ g.eLog, g.s1, g.s2⟩
/-- The geometry slot a field names. -/
def geoOf (gs : Vector Geo 16) (field : Nat) : Geo := match fin? 16 (bits field 57 4) with
  | some i => gs.get i
  | none => Geo.slot0

/-- A pantry field (KIND 1). -/
def rawPantry (gs : Vector Geo 16) (f : Nat) : RawOp :=
  ⟨.pantry (pantryTensor (geoOf gs f) (128 * bits f 40 17) (bits f 22 18) (bits f 10 12 + 1) (bits f 0 10 + 1)) f, true⟩
/-- A cellar field (KIND 2), with its seal base (R459). -/
def rawCellar (gs : Vector Geo 16) (f : Nat) : RawOp :=
  let g := geoOf gs f
  let va := bits f 0 48
  ⟨.cellar (cellarTensor g va) (wrapTo 64 ((va : Int) + g.sealOff)), bits f 48 9 == 0 && g.sealOff % 4 == 0⟩
def rawDesc (f : Nat) : RawOp := ⟨.desc (bits f 0 48), bits f 48 13 == 0⟩
def rawImm (f : Nat) : RawOp := ⟨.imm (bits f 0 32), bits f 32 29 == 0⟩

/-- A descriptor-table entry in the form it stands for (R130); none for a FORM it may not have. -/
def rawEntry (e : List Byte) : Option RawOp :=
  let form := leAt e 0 1
  let es := leAt e 1 1
  let so := sext 32 (leAt e 4 4)
  let addr := leAt e 8 8
  let inner := leAt e 0x10 4
  let c1 := leAt e 0x14 2
  let c2 := leAt e 0x16 2
  let t : Tensor := ⟨addr, inner, c1, c2, 2 ^ es, sext 32 (leAt e 0x18 4), sext 32 (leAt e 0x1C 4)⟩
  let res := leAt e 2 2 == 0
  let ext := es ≤ 2 && 1 ≤ inner && inner ≤ 131072 && 1 ≤ c1 && c1 ≤ 4096 && 1 ≤ c2 && c2 ≤ 1024
  if form = 1 then
    some ⟨.pantry t (2 ^ 61 + bits addr 7 17 * 2 ^ 40 + inner * 2 ^ 22 + (c1 - 1) * 1024 + (c2 - 1)),
      res && ext && so == 0 && addr % 128 == 0⟩
  else if form = 2 then some ⟨.cellar t (wrapTo 64 ((addr : Int) + so)), res && ext && so % 4 == 0⟩
  else if form = 4 then some ⟨.desc addr, res && so == 0⟩
  else if form = 5 then some ⟨.imm addr, res && so == 0 && decide (addr < 2 ^ 32)⟩
  else none

/-- Why row 3 of the decode checks refuses an operand: a status, with the address of an entry read that
faulted. -/
structure OpErr where
  status : Nat
  va : Option Nat
deriving DecidableEq, Repr

/-- The entry of a handle, read through the household's translation (R130, R131). An entry rewritten while its
VALID bit stood gives free operand values. -/
def readEntry (s : State) (h : Hh) (x : Nat) : Except OpErr (List Byte) :=
  let c := (hhAt s h).cmd
  let valid := match fin? 64 (x / 64) with
    | some w => (c.dtValid.get w).testBit (x % 64)
    | none => false
  if !valid then .error ⟨stHandle, none⟩
  else match hRead s h true .read (c.dtBase + 32 * x) 32 with
    | .error (.fault st va) => .error ⟨st, some va⟩
    | .error (.ue a) => .error ⟨stCellar, some a⟩
    | .error e => .error ⟨e.status, none⟩
    | .ok bs =>
      let same := match c.dtSnap.find? fun e => e.1 == x with
        | some (_, old) => old == bs
        | none => true
      .ok (if same then bs else (List.range 32).map fun i => Config.freeByte (s.fresh + x) i)

/-- An operand field under the naming mode in force (R129, R130): row 3 of the decode checks. -/
def rawOperand (s : State) (h : Hh) (gs : Vector Geo 16) (handle popped : Bool) (f : Nat) : Except OpErr RawOp :=
  let kind := bits f 61 3
  if popped then .ok (rawPantry gs f)
  else match kind with
    | 0 => .ok ⟨.none, f == 0⟩
    | 1 => if handle then .error ⟨stRange, none⟩ else .ok (rawPantry gs f)
    | 2 => if handle then .error ⟨stRange, none⟩ else .ok (rawCellar gs f)
    | 3 =>
      if !handle then .error ⟨stHandle, none⟩
      else if bits f 0 16 ≥ 4096 then .error ⟨stHandle, none⟩
      else match readEntry s h (bits f 0 16) with
        | .error e => .error e
        | .ok bs => match rawEntry bs with
          | none => .error ⟨stRange, none⟩
          | some r => .ok { r with clean := r.clean && bits f 16 45 == 0 }
    | 4 => if handle then .error ⟨stRange, none⟩ else .ok (rawDesc f)
    | 5 => .ok (rawImm f)
    | 6 => .error ⟨stRange, none⟩
    | _ => .ok ⟨.none, false⟩

/-- Lowest byte of a tensor and the byte after its highest (R126). -/
def extent (t : Tensor) (plane : Bool) : Int × Int :=
  let a := ((t.c1 : Int) - 1) * t.s1
  let b := ((t.c2 : Int) - 1) * t.s2
  ((t.base : Int) + min 0 a + min 0 b, (t.base : Int) + max 0 a + max 0 b + checkRowBytes t plane)
/-- Shelves that a byte range of the pantry touches are all ON (R126, R280). -/
def shelvesOn (c : SiteSt) (lo hi : Nat) : Bool :=
  (List.range 4).all fun i => match fin? 4 i with
    | some k => decide (hi ≤ 3145728 * i) || decide (3145728 * (i + 1) ≤ lo) || c.shelves.get k == .on
    | none => true

/-- Strides that count are multiples of m. -/
def stridesBy (t : Tensor) (m : Nat) : Bool :=
  (t.c1 == 1 || t.s1 % (m : Int) == 0) && (t.c2 == 1 || t.s2 % (m : Int) == 0)

/-- R126 and R28 for an operand; `dest` marks a destination, `plane` a bit-plane operand. -/
def check126 (c : SiteSt) (r : RawOp) (dest plane : Bool) : Bool :=
  r.clean && match r.op with
    | .none => true
    | .imm _ => true
    | .desc va => va % 64 == 0
    | .cellar t sb => t.base % 64 == 0 && sb % 4 == 0 && stridesBy t t.e && stridesBy t 64
    | .pantry t _ =>
      let (lo, hi) := extent t plane
      decide (t.base < pantrySize) && 1 ≤ t.inner && t.inner ≤ 131072 && stridesBy t t.e &&
        decide (0 ≤ lo) && decide (hi ≤ (pantrySize : Int)) && shelvesOn c lo.toNat hi.toNat &&
        (!dest || stridesBy t 128)

/-- A destination has no zero stride in a dimension that counts (R127). -/
def check127 (r : RawOp) : Bool := match r.op with
  | .pantry t _ => !((decide (t.c1 > 1) && t.s1 == 0) || (decide (t.c2 > 1) && t.s2 == 0))
  | .cellar t _ => !((decide (t.c1 > 1) && t.s1 == 0) || (decide (t.c2 > 1) && t.s2 == 0))
  | _ => true

/- Cellar tensors (R23, R286, R459). -/

/-- Why a cellar block is not read or written: an error of memory, or a seal mismatch. -/
inductive BlkErr where
  | mem (e : MErr)
  | badSeal
deriving DecidableEq, Repr

/-- Address of the seal of block j of row r (R23). -/
def sealAddr (sb nb r j : Nat) : Nat := (sb + 4 * (r * nb + j)) % 2 ^ 64
/-- A block of a sealed cellar tensor with its seal, verified (R25, R26). -/
def hReadBlock (s : State) (h : Hh) (va len sl : Nat) : Except BlkErr (List Byte) :=
  match hRead s h true .read va len with
  | .error e => .error (.mem e)
  | .ok bs => match hRead s h true .read sl 4 with
    | .error e => .error (.mem e)
    | .ok w => if leNat w == blockSeal bs then .ok bs else .error .badSeal
/-- A block and its seal are written as one unit (R22); both are translated before the first byte. -/
def hWriteBlock (s : State) (h : Hh) (va : Nat) (bs : List Byte) (sl : Nat) : Except MErr State :=
  match xlateRange s h true .write sl 4 with
  | some (st, a) => .error (.fault st a)
  | none => match hWrite s h true va bs with
    | .error e => .error e
    | .ok t => hWrite t h true sl (leBytes 4 (blockSeal bs))

/-- Length of block j of a row of `len` bytes. -/
def blockLen (len j : Nat) : Nat := min 4096 (len - 4096 * j)

/-- The rows of a cellar tensor as bytes, each block verified; or why it is not read, with the row and block. -/
def hReadTensor (s : State) (h : Hh) (t : Tensor) (sb : Nat) : Except (BlkErr × Nat × Nat) (List (List Byte)) :=
  let len := rowBytes t
  let nb := cdiv len 4096
  let row (r : Nat) : Except (BlkErr × Nat × Nat) (List Byte) :=
    (List.range nb).foldl (fun acc j => match acc with
      | .error e => .error e
      | .ok bs => match hReadBlock s h ((rowAddr t r + 4096 * j) % 2 ^ 64) (blockLen len j) (sealAddr sb nb r j) with
        | .ok b => .ok (bs ++ b)
        | .error e => .error (e, r, j)) (.ok [])
  (List.range (rowCount t)).foldl (fun acc r => match acc with
    | .error e => .error e
    | .ok rows => match row r with
      | .ok bs => .ok (rows ++ [bs])
      | .error e => .error e) (.ok [])

end Sys2Proof.Machine
end

