-- ==== Sys2Proof/Machine/Transact.lean ====
section
/-! DEFINITION. Aborts of transaction groups and of commands (R321, R322, R327). -/

namespace Sys2Proof.Machine

/-- Sites on which a fold runs. -/
def allSites : List Site := List.finRange 34
def allRegions : List Rg := List.finRange 8
def allHh : List Hh := List.finRange 16

/-- Entries of h leave every region queue, and its halts there end. -/
def dropRegionQueue (q : RQueue) (h : Hh) : RQueue :=
  { q with ents := q.ents.filter fun e => e.hh != h, halted := q.halted.set h.val false h.isLt }
/-- Entries of a cluster queue leave; halts end. -/
def dropQueue (q : EQueue) : EQueue := { q with ents := [], halted := false }

/-- OPCODE of a descriptor form (R192, R218). -/
def descForm (opcode : Nat) : Bool := opcode == 0x23 || opcode == 0x24 || opcode == 0x42 || opcode == 0x65
/-- Descriptor forms in execution that are aborted leave LIVE = 0 in a destination descriptor outside transactional pages
(R38, R327). -/
def clearRunning (s : State) (h : Hh) (es : List Entry) : State :=
  es.foldl (fun t e => match e.opD with
    | .desc va =>
      if !descForm e.cmd.opcode || e.phase == .queued || e.phase == .done then t
      else match xlate t h true .write ((va + 0x14) % 2 ^ 64) with
        | .ok p => if p.tx then t else
          let a := writeCpa t p ((va + 0x14) % 2 ^ 64)
          cPut t a (cGet t a &&& 0xFE)
        | .error _ => t
    | _ => t) s
/-- Commands of a household's share of a cluster. -/
def setEntries (t : HSet) : List Entry := t.queues.toList.flatMap fun q => q.ents

/-- Every queued, running or suspended command of the household leaves every queue without a word, and its streams end
(R322 steps 2 and 3). -/
def dropCommands (s : State) (h : Hh) : State :=
  let s := allSites.foldl (fun t i => clearRunning t h (setEntries (setAt s i h))) s
  { s with
    sites := s.sites.map fun c =>
      { c with
        sets := vmod c.sets h fun t => { t with queues := t.queues.map dropQueue }
        st := { c.st with streams := c.st.streams.filter fun x => x.hh != h }
        frozen := if c.served = some h then none else c.frozen
        inflight := if c.served = some h then [] else c.inflight
        accFly := if c.served = some h then [] else c.accFly }
    regions := s.regions.map fun g =>
      { g with
        larder := { dropRegionQueue g.larder h with
          streams := g.larder.streams.filter fun x => x.hh != h }
        mve := { dropRegionQueue g.mve h with
          streams := g.mve.streams.filter fun x => x.hh != h }
        ld := { g.ld with
          slots := g.ld.slots.map fun x => if x.hh == h.val then { x with active := false } else x }
        landing := g.landing.map fun o => match o with
          | some k => if (match siteOf s k with | some i => (siteAt s i).served == some h | none => false) then none
                      else some k
          | none => none } }

/-- The sequencers of the household stop and its key windows close (R322 step 4). -/
def stopSequencers (s : State) (h : Hh) : State :=
  { s with sites := s.sites.map fun c =>
      { c with sets := vmod c.sets h fun t =>
        { t with
          xsq := { t.xsq with run := false, suspended := false, halting := false, worded := false, pend := [], loops := [] }
          psq := { t.psq with enable := false, busy := false, suspended := false, worded := false }
          wins := t.wins.map fun _ => KWin.shut } } }

/-- The shadows of the write set hold undefined contents after an abort (R322 step 1). -/
def scrambleShadows (s : State) (ws : List (Nat × Bool)) : State :=
  (ws.zip (List.range ws.length)).foldl (fun t e =>
    let a := e.1.1 * 131072 + (if selector t e.1.1 then 0 else 65536)
    cWrite t a ((List.range 65536).map fun i => Config.freeByte (t.fresh + e.2) i)) s

/-- What an abort reports: status that caused it, OPCODE, UNIT, SEQ and RECORD of the command (R461). -/
structure AbortBy where
  status : Nat
  opcode : Nat
  unit : Nat
  seq : Nat
  recIdx : Nat
deriving DecidableEq, Repr

/-- An abort by a write, a retire or a reset, with no command (R461). -/
def AbortBy.house : AbortBy := ⟨stTxAbort, 0, 0xFF, 0, 0xFFFFFFFF⟩

/-- Commands held since the COMMIT are released (R318 step 5). -/
def releaseLate (s : State) (h : Hh) : State :=
  { s with
    sites := s.sites.map fun c => { c with sets := vmod c.sets h fun t =>
      { t with queues := t.queues.map fun q => { q with ents := q.ents.map fun e => { e with late := false } } } }
    regions := s.regions.map fun g =>
      { g with
        larder := { g.larder with ents := g.larder.ents.map fun e => if e.hh == h then { e with late := false } else e }
        mve := { g.mve with ents := g.mve.ents.map fun e => if e.hh == h then { e with late := false } else e } } }

/-- A waiting request of the household is discarded and its operation in the Strongbox ends, operand memory wiped
first (R437); its group's abort and a retire do so. -/
def sbDrop (s : State) (h : Hh) : State :=
  let sb := s.sb
  let mine := match sb.cur with
    | some o => o.owner == .hh h
    | none => false
  let waits := (hhAt s h).sb.pending
  if !mine && !waits then s
  else
    let s := if mine then { s with sb := { sb with mem := [], evWiped := true, cur := none, status := stPkAbort } } else s
    let w := statusWord stPkAbort 0xFC 0xFF (wordFlags h false 0) (s.sb.counts.get h) 0 0xFFFFFFFF
    errBell (postWord (upSb s h fun x => { x with pending := false, status := stPkAbort }) h w none) h

/-- OPEN of HH_TX_CTRL (R314, R336). -/
def openGroup (s : State) (h : Hh) (replay : Bool) : State :=
  let tx := (hhAt s h).tx
  if tx.opened then upTx s h fun t => { t with result := stTxNest }
  else if tx.journal = 0 then upTx s h fun t => { t with result := stTxCap }
  else
    let s := upTx s h fun t => { t with opened := true, replay := replay, result := stOk, writeSet := [] }
    journalHeader s h 1 0 ((tx.seq + 1) % 2 ^ 32)
/-- OPEN writes that waited for a lease replacement are performed (R88). -/
def openWaiting (s : State) (h : Hh) : State :=
  (hhAt s h).tx.waitOpen.foldl (fun t r => openGroup t h r) (upTx s h fun t => { t with waitOpen := [] })

/-- Abort of an open group (R322). `word` is false where the rule of a replacement or a region reset writes
the household's one word itself. -/
def txAbort (s : State) (h : Hh) (by_ : AbortBy) (word : Bool) : State :=
  let tx := (hhAt s h).tx
  if !tx.opened then s
  else
    let s := tickFresh (scrambleShadows (journalHeader s h 4 0 ((tx.seq + 1) % 2 ^ 32)) tx.writeSet)
    let s := stopSequencers (dropCommands (sbDrop s h) h) h
    let s := upTx s h fun t => { t with
      opened := false, committing := false, aborted := true, writeSet := [], cause := by_.status
      result := if t.committing then stTxAbort else t.result }
    let st := if tx.replay && by_.status == stSeal then stSeal else stTxAbort
    let s := if word then postWord s h (statusWord st by_.opcode by_.unit (wordFlags h false 0) by_.seq 0 by_.recIdx) none
             else s
    let s := errBell s h
    if by_.status == stTxAbort then s
    else
      let cl := decide (by_.unit < 32) && by_.opcode / 32 != 5 && by_.opcode / 32 != 6
      let phys := match cl, fin? 34 by_.unit with
        | true, some k => (siteOf s k).elim 0x3F Fin.val
        | _, _ => 0x3F
      logFault s 0x0E (if cl then by_.unit else 0xFF) phys by_.status h.val

/-- An engine abort of a household command aborts an open group (R327). -/
def engineAbort (s : State) (h : Hh) (by_ : AbortBy) : State :=
  if (hhAt s h).tx.opened then txAbort s h { by_ with status := stTxAbort } true else s

end Sys2Proof.Machine
end

