-- ==== Sys2Proof/Machine/Engine.lean ====
section
/-! DEFINITION. What every engine shares: queues, acceptance, waits, the decode of rows 1 to 6, completion,
halts, resume and flush (R120-R142, R461). -/

namespace Sys2Proof.Machine

/- Queues (R133). -/

/-- The site of a cluster queue and the household whose set it executes. -/
def liveSet (s : State) (k : Gl) : Option (Site × Hh) := match siteOf s k with
  | some i => if (siteAt s i).dead || s.pw.role == .deposed then none else (siteAt s i).served.map fun h => (i, h)
  | none => none

/-- Enabled pool to which the deed gives a global number. -/
def poolOfGl (s : State) (k : Gl) : Option (Fin 8) := findFin 8 fun i => match poolDef s i with
  | some d => d.enabled && d.clusters.testBit k.val
  | none => false
/-- A block whose reset waits for it to become idle takes no new work (R367); blocks by their codes (R366). -/
def quiescing (s : State) (code : Nat) : Bool := match s.rst.active with
  | some b => b.block == code
  | none => false
/-- Work does not enter the cluster of this site: it has failed and its replacement is still to come (R340), or it waits
for a block reset (R367). -/
def siteHeld (s : State) (i : Site) : Bool := (siteAt s i).dead || quiescing s i.val
/-- A pool switch stops the cluster of this global number (R330). -/
def switching (s : State) (k : Gl) : Bool := match poolOfGl s k with
  | some i => (s.pools.get i).stage != .none
  | none => false
/-- Nothing starts on the cluster of this global number: a pool switch stops it (R330), or it quiesces (R367). -/
def stopping (s : State) (k : Gl) : Bool :=
  switching s k || match siteOf s k with
    | some i => quiescing s i.val
    | none => false
/-- Units that stop at a limb, record or block boundary, not at the end of the command in execution (R330). -/
def preempted (en opcode : Nat) : Bool :=
  !(en == 0 || (en == 2 && (opcode == 0x43 || opcode == 0x44)) || (en == 3 && opcode != 0x65))

/-- Commands of a queue as its engine sees them. -/
def qEnts (s : State) (q : QueueId) : List Entry := match q with
  | .cluster k e => match liveSet s k with
    | some (i, h) => ((setAt s i h).queues.get e).ents
    | none => []
  | .mve r => (regAt s r).mve.ents
  | .larder r => (regAt s r).larder.ents

/-- The commands of a queue changed by f. -/
def upEnts (s : State) (q : QueueId) (f : List Entry → List Entry) : State := match q with
  | .cluster k e => match liveSet s k with
    | some (i, h) => upSet s i h fun t => { t with queues := vmod t.queues e fun x => { x with ents := f x.ents } }
    | none => s
  | .mve r => upReg s r fun g => { g with mve := { g.mve with ents := f g.mve.ents } }
  | .larder r => upReg s r fun g => { g with larder := { g.larder with ents := f g.larder.ents } }

/-- One entry, named by its household and SEQ, changed by f. -/
def upEntry (s : State) (q : QueueId) (h : Hh) (seq : Nat) (f : Entry → Entry) : State :=
  upEnts s q fun es => es.map fun e => if e.hh == h && e.seq == seq then f e else e

/-- ENGINE code of a queue (R104). -/
def qEng : QueueId → Nat
  | .cluster _ e => e.val
  | .mve _ => 5
  | .larder _ => 6
/-- UNIT of a queue's status words (R138). -/
def qUnit : QueueId → Nat
  | .cluster k _ => k.val
  | .mve r => r.val
  | .larder r => r.val
/-- Site of a cluster queue. -/
def qSite (s : State) : QueueId → Option Site
  | .cluster k _ => (liveSet s k).map Prod.fst
  | _ => none

/-- A signed 32-bit field of a job record. -/
def jobInt (j : List Byte) (o : Nat) : Int := sext 32 (leAt j o 4)
/-- Row pitch of the weight block of a job (R262). -/
def jobPitch (j : List Byte) : Nat := cdiv (4 * leAt j 6 2) 128 * 128
/-- The private slots of a PSQ's records (R263): slot 1 for operand A, 2 for B and 3 for D. -/
def psqGeo (j : List Byte) : Vector Geo 16 :=
  let g (s1 : Int) : Geo := ⟨false, 2, 1, 1, 1, s1, 0, 0⟩
  (((Vector.replicate 16 Geo.slot0).set 1 (g (jobInt j 0x1C))).set 2 (g (jobPitch j : Nat))).set 3 (g (jobInt j 0x2C))

/-- The geometry slots a command of h uses in a queue (R125). -/
def qGeo (s : State) (q : QueueId) (h : Hh) : Vector Geo 16 := match q with
  | .cluster k e => match siteOf s k with
    | some i => (setAt s i h).geo.get e
    | none => .replicate 16 Geo.slot0
  | .mve r => (regAt s r).mve.geo.get h
  | .larder r => (regAt s r).larder.geo.get h

/-- The slots that a PSQ record uses: those of the job in progress (R263). -/
def entryGeo (s : State) (q : QueueId) (e : Entry) : Vector Geo 16 := match qSite s q with
  | some i => psqGeo (setAt s i e.hh).psq.jobRec
  | none => .replicate 16 Geo.slot0

/-- Halted for the household (R137, R238, R283). -/
def qHalted (s : State) (q : QueueId) (h : Hh) : Bool := match q with
  | .cluster k e => match siteOf s k with
    | some i => ((setAt s i h).queues.get e).halted
    | none => true
  | .mve r => (regAt s r).mve.halted.get h
  | .larder r => (regAt s r).larder.halted.get h
def setHalted (s : State) (q : QueueId) (h : Hh) (on : Bool) : State := match q with
  | .cluster k e => match siteOf s k with
    | some i => upSet s i h fun t => { t with queues := vmod t.queues e fun x => { x with halted := on } }
    | none => s
  | .mve r => upReg s r fun g => { g with mve := { g.mve with halted := g.mve.halted.set h.val on h.isLt } }
  | .larder r => upReg s r fun g => { g with larder := { g.larder with halted := g.larder.halted.set h.val on h.isLt } }

/-- Entries that a queue holds for h, whether or not its set runs: a full queue refuses a push (R105). -/
def qCount (s : State) (q : QueueId) (h : Hh) : Nat := match q with
  | .cluster k e => match siteOf s k with
    | some i => ((setAt s i h).queues.get e).ents.length
    | none => 0
  | .mve r => (regAt s r).mve.ents.length
  | .larder r => (regAt s r).larder.ents.length

/-- Naming mode in force for a household (R129). -/
def handleMode (s : State) (h : Hh) : Bool := match (hhAt s h).lease with
  | none => false
  | some l => if l.naming = 2 then (hhAt s h).cmd.handle else l.naming == 1

def Record.eng (r : Record) : Nat := r.opcode / 32
def Record.op (r : Record) : Nat := r.opcode % 32
/-- A record from its 32 bytes (R120). -/
def recordOf (bs : List Byte) : Record :=
  ⟨leAt bs 0 1, leAt bs 1 1, leAt bs 2 1, leAt bs 3 1, leAt bs 4 4, leAt bs 8 8, leAt bs 16 8, leAt bs 24 8⟩
/-- DELTA of a timed record (R120). -/
def Record.delta (r : Record) : Nat := r.wait + 256 * r.signal

/-- A fresh entry of a queue. -/
def newEntry (s : State) (h : Hh) (r : Record) (core : Option Rg) (recIdx : Nat) (fromXsq : Bool) : Entry :=
  { cmd := r, hh := h, seq := 0, core := core, recIdx := recIdx, handle := handleMode s h, fromXsq := fromXsq,
    popA := false, popB := false, popD := false, t0 := none, late := (hhAt s h).tx.committing, prologue := false,
    fromPsq := false, checks := [], phase := .queued, opA := .none, opB := .none, opD := .none, pos := 0,
    status := 0, offset := 0, operand := 0, summary := none, sumStalled := false, worded := false, missed := false, held := [], keyFail := false,
    retried := false }

/-- An accepted command joins the end of the household's queue with the next SEQ of the series (R106). -/
def accept (s : State) (q : QueueId) (e : Entry) : State × Nat := match q with
  | .cluster k en => match siteOf s k with
    | some i =>
      let n := ((setAt s i e.hh).queues.get en).next
      (upSet s i e.hh fun t => { t with queues := vmod t.queues en fun x =>
        { x with ents := x.ents ++ [{ e with seq := n }], next := wrapInc 32 n } }, n)
    | none => (s, 0)
  | .mve r =>
    let n := (regAt s r).mve.next
    (upReg s r fun g => { g with mve := { g.mve with ents := g.mve.ents ++ [{ e with seq := n }], next := wrapInc 32 n } }, n)
  | .larder r =>
    let n := (regAt s r).larder.next
    (upReg s r fun g => { g with larder := { g.larder with ents := g.larder.ents ++ [{ e with seq := n }], next := wrapInc 32 n } }, n)

/- Decode, rows 1 and 2 (R132). -/

/-- OPs the engine chapters assign (R121, R176, R193, R214, R248, R251, R284). -/
def opAssigned (eng op : Nat) : Bool :=
  op == 0 || op == 31 || match eng with
    | 0 => decide (1 ≤ op ∧ op ≤ 5)
    | 1 => decide (1 ≤ op ∧ op ≤ 4)
    | 2 => decide (1 ≤ op ∧ op ≤ 4)
    | 3 => decide (1 ≤ op ∧ op ≤ 5)
    | 4 => decide (1 ≤ op ∧ op ≤ 3)
    | 5 => decide (op = 1)
    | 6 => decide (1 ≤ op ∧ op ≤ 2)
    | _ => false

/-- Row 1. -/
def row1 (s : State) (q : QueueId) (e : Entry) : Bool :=
  e.cmd.eng == qEng q && opAssigned e.cmd.eng e.cmd.op &&
    !(e.core.isSome && decide (qEng q ≤ 3) && decide (modeOf s e.hh ≠ 0)) &&
    !(e.prologue && !(e.cmd.opcode == 0x02 || e.cmd.opcode == 0x63 || e.cmd.opcode == 0x64))

/-- Fields of CTRL, WAIT and SIGNAL. -/
def Record.report (r : Record) : Bool := r.ctrl.testBit 7
def Record.notify (r : Record) : Bool := r.ctrl.testBit 6
def Record.handoff (r : Record) : Bool := r.ctrl.testBit 5
def Record.hq (r : Record) : Nat := r.ctrl % 8
def Record.waitEn (r : Record) : Bool := r.wait.testBit 7
def Record.credit (r : Record) : Bool := r.wait.testBit 6
def Record.sigEn (r : Record) : Bool := r.signal.testBit 7

/-- The OPD of a hand-off names or resolves to PANTRY form: KIND 1, a popped field, or in handle mode an
entry of FORM 1 (R142). An entry whose read fails resolves to no form yet: row 3 gives its status (R131). -/
def opdPantry (s : State) (e : Entry) : Bool :=
  if e.popD then true
  else match bits e.cmd.opd 61 3 with
    | 1 => true
    | 3 => e.handle && (match readEntry s e.hh (bits e.cmd.opd 0 16) with
        | .ok bs => leAt bs 0 1 == 1
        | .error e => e.status != stHandle)
    | _ => false

/-- WAIT and SIGNAL of an entry count: not in a timed execute record, whose bytes hold DELTA (R120). -/
def hasWait (e : Entry) : Bool := e.t0.isNone

/-- Row 2 (R120, R122, R132, R142). -/
def row2 (s : State) (q : QueueId) (e : Entry) : Bool :=
  let r := e.cmd
  let access := decide (4 ≤ qEng q)
  bits r.ctrl 3 2 == 0 && (r.handoff || r.hq == 0) &&
    (if hasWait e then
      !r.signal.testBit 6 && (decide (5 ≤ qEng q) || (bits r.wait 4 2 == 0 && bits r.signal 4 2 == 0)) &&
        (!r.credit || (access && r.waitEn && bits r.wait 1 3 == 0))
     else r.delta != 0) &&
    (!r.handoff || (decide (modeOf s e.hh ≠ 0) && opdPantry s e &&
      (if access then decide (r.hq ≤ 5) else e.fromXsq && decide (6 ≤ r.hq))))

/-- How a decode ends: with operands, or with a status, whose entry read may have faulted at an address. -/
inductive Decoded where
  | good (a b d : Opnd)
  | bad (status : Nat) (va : Option Nat)
deriving DecidableEq, Repr

/-- A command names a bit-plane operand: MM in INT4 (R124, R164). -/
def planeOp (r : Record) : Bool := r.opcode == 0x01 && bits r.mod 27 3 == 5

/-- Cluster whose pantry operand A and operand D of a region command name (R284); the larder's commands name
no pantry operand but windows (R248). -/
def pantryGl (q : QueueId) (r : Record) (dest : Bool) : Option Gl := match q with
  | .cluster k _ => some k
  | .mve g => some (clusterOf g ⟨bits r.mod (if dest then 28 else 30) 2, by unfold bits; omega⟩)
  | .larder _ => none

/-- OPD of a SCATTER, STORE, COPY ... is a destination; the fields of NOP and SETGEO are no operands (R460). -/
def noOperands (r : Record) : Bool := r.op == 0 || r.op == 31

/-- Decode rows 1 to 6 for a queued command (R132). -/
def decode (s : State) (q : QueueId) (e : Entry) : Decoded :=
  if !row1 s q e then .bad stBadOpcode none
  else if !row2 s q e then .bad stBadOpcode none
  else if noOperands e.cmd then
    -- a NOP hands off its OPD like any other command (R121), though it is no operand (R460)
    if e.cmd.handoff then match rawOperand s e.hh (qGeo s q e.hh) e.handle e.popD e.cmd.opd with
      | .ok ⟨.pantry t f, _⟩ => .good .none .none (.pantry t f)
      | _ => .good .none .none .none
    else .good .none .none .none
  else
    let gs := if e.fromPsq then entryGeo s q e else qGeo s q e.hh
    let errOf (x : OpErr) : Decoded := .bad x.status x.va
    match rawOperand s e.hh gs e.handle e.popA e.cmd.opa with
    | .error x => errOf x
    | .ok a => match rawOperand s e.hh gs e.handle e.popB e.cmd.opb with
      | .error x => errOf x
      | .ok b => match rawOperand s e.hh gs e.handle e.popD e.cmd.opd with
        | .error x => errOf x
        | .ok d =>
          let site (dest : Bool) : Option Site := (pantryGl q e.cmd dest).bind (siteOf s)
          let ok126 (x : RawOp) (dest plane : Bool) : Bool :=
            match site dest with
            | some i => check126 (siteAt s i) x dest plane
            | none => check126 { SiteSt.init with shelves := .replicate 4 .on } x dest plane
          let absent (x : RawOp) (dest : Bool) : Bool := match x.op, q with
            | .pantry _ _, .mve _ => match pantryGl q e.cmd dest with
              | some k => !isActive s k
              | none => false
            | _, _ => false
          if !(ok126 a false (planeOp e.cmd) && ok126 b false (planeOp e.cmd) && ok126 d true false) then
            .bad stRange none
          else if absent a false || absent d true then .bad stEngAbsent none
          else if !check127 d then .bad stZeroStride none
          else .good a.op b.op d.op

/- Waits (R122, R135, R142). -/

/-- Cluster whose semaphore or credit a command names: its own, or the one CLUSTER selects (R122). -/
def waitGl (q : QueueId) (field : Nat) : Gl := match q with
  | .cluster k _ => k
  | .mve r => clusterOf r ⟨bits field 4 2, by unfold bits; omega⟩
  | .larder r => clusterOf r ⟨bits field 4 2, by unfold bits; omega⟩

/-- The wait of a command is met, and the state with the semaphore or credit taken; none while it waits. A
command that rows 1 and 2 refuse waits for nothing. -/
def takeWait (s : State) (q : QueueId) (e : Entry) : Option State :=
  if !hasWait e || !e.cmd.waitEn || !(row1 s q e && row2 s q e) then some s
  else match siteOf s (waitGl q e.cmd.wait) with
    | none => none
    | some i =>
      let t := setAt s i e.hh
      if e.cmd.credit then
        let n : Fin 8 := ⟨6 + e.cmd.wait % 2, by omega⟩
        match t.hqs.get n with
        | [] => none
        | _ :: rest => some (upSet s i e.hh fun t => { t with hqs := t.hqs.set n.val rest n.isLt })
      else
        let n : Fin 16 := ⟨e.cmd.wait % 16, by omega⟩
        if (t.sems.get n).count = 0 then none
        else some (upSet s i e.hh fun t => { t with sems := vmod t.sems n fun x => { x with count := x.count - 1 } })

/-- Signal of a completed command (R135). -/
def signal (s : State) (q : QueueId) (e : Entry) : State :=
  if hasWait e && e.cmd.sigEn then
    match siteOf s (waitGl q e.cmd.signal) with
    | none => s
    | some i => upSet s i e.hh fun t => { t with sems := vmod t.sems ⟨e.cmd.signal % 16, by omega⟩ fun x =>
        if x.count ≥ 0xFFFF then ⟨0xFFFF, true⟩ else ⟨x.count + 1, x.ovf⟩ }
  else s

/-- A chain command that forms a summary (R212). -/
def wantsSummary (r : Record) : Bool := (r.opcode == 0x61 || r.opcode == 0x62) && r.mod.testBit 15

/-- The summary an entry owes when it ends with a status: VALUE 0 with every status but OK (R213). -/
def summaryAt (x : Entry) (st : Nat) : Option Nat := if st != stOk && wantsSummary x.cmd then some 0 else x.summary

/-- The command ends with a status; where a tensor element is named its byte offset and operand follow. -/
def endEntry (s : State) (q : QueueId) (e : Entry) (st off opd : Nat) : State :=
  upEntry s q e.hh e.seq fun x => { x with
    phase := if suspends st && decide (opd ≠ 0) then .faulted else .done
    status := st, offset := off % 2 ^ 32, operand := opd, summary := summaryAt x st }

/-- First running entry with an opcode, in queue order. -/
def runningEntry (s : State) (q : QueueId) (opcode : Nat) : Option Entry :=
  (qEnts s q).find? fun e => e.phase == .running && e.cmd.opcode == opcode

/- Stall counts (R416, R417). -/

/-- Causes by their codes. -/
def scFault : Fin 10 := 0
def scRamp : Fin 10 := 1
def scThrottle : Fin 10 := 2
def scTx : Fin 10 := 3
def scSeal : Fin 10 := 4
def scPantry : Fin 10 := 5
def scKey : Fin 10 := 6
def scOperand : Fin 10 := 7
def scQueue : Fin 10 := 8
def scBusy : Fin 10 := 9
/-- n more ACLK of a cause. -/
def addStall (v : Vector Nat 10) (c : Fin 10) (n : Nat) : Vector Nat 10 := vmod v c fun x => (x + n) % 2 ^ 64
/-- Units of a cluster count n ACLK of a cause; the cluster total counts those of them in which no other unit counted it
already, so a free number of at most n. -/
def stallUnits (s : State) (i : Site) (us : List (Fin 8)) (c : Fin 10) (n : Nat) : State :=
  tickFresh (upSite s i fun x => { x with
    stallLive := vmod (us.foldl (fun v u => vmod v u fun w => addStall w c n) x.stallLive) 7 fun w =>
      addStall w c ((Config.freeWordAt s.fresh 901).toNat % (n + 1)) })
/-- Units that count a wait of an engine of household h: in timed mode every compute engine, as a freeze (R144, R416). -/
def waitUnits (s : State) (h : Hh) (e : Fin 5) : List (Fin 8) :=
  if decide (e.val < 4) && modeOf s h == 2 then [0, 1, 2, 3] else [⟨e.val, by omega⟩]
/-- The unit of a queue counts n ACLK of a cause. -/
def stallFor (s : State) (q : QueueId) (h : Hh) (c : Fin 10) (n : Nat) : State := match q with
  | .cluster k e => match siteOf s k with
    | some i => stallUnits s i (waitUnits s h e) c n
    | none => s
  | .mve r => upReg s r fun g => { g with mvStall := addStall g.mvStall c n }
  | .larder r => upReg s r fun g => { g with ldStall := addStall g.ldStall c n }
/-- A length in ACLK that the model does not give: at least 1 (log 7). -/
def freeWait (s : State) : Nat := 1 + (Config.freeWordAt s.fresh 900).toNat % 2 ^ 32
/-- The unit of a queue is found waiting for a cause: the wait is counted, with its length open (log 7). -/
def stallNote (s : State) (q : QueueId) (h : Hh) (c : Fin 10) : State := tickFresh (stallFor s q h c (freeWait s))
/-- A push or a command is logged as rejected with a status for a context (R6, R105, R117, R132). -/
def noteReject (s : State) (r : Rg) (st ctx : Nat) : State := upCore s r fun c =>
  { c with rejStatus := st, rejCtx := ctx, rejCount := satInc 16 c.rejCount }

/-- Stall cause of a freeze (R144). -/
def freezeCode : FreezeCause → Fin 10
  | .handoffEmpty | .cacheMiss | .landingBusy => scOperand
  | .summaryFull | .handoffFull | .ringFull => scQueue
  | .fault => scFault

/- Completion (R134, R137-R142). -/

/-- A cluster freezes or runs again (R144). -/
def setFrozen (s : State) (i : Site) (c : Option (FreezeCause × Nat)) : State := upSite s i fun x => { x with frozen := c }
/-- The cluster stands frozen while another unit than `u` waits: `u` does nothing meanwhile. -/
def frozenFor (s : State) (i : Site) (u : Nat) : Bool := match (siteAt s i).frozen with
  | some (_, v) => v != u
  | none => false
/-- A wait of an engine is counted; that of a compute engine freezes the cluster in timed mode (R144). -/
def stallOf (s : State) (q : QueueId) (h : Hh) (c : FreezeCause) : State :=
  let s := stallNote s q h (freezeCode c)
  match q with
  | .cluster k e => if decide (e.val < 4) && modeOf s h == 2 then
      match siteOf s k with
      | some i => setFrozen s i (some (c, e.val))
      | none => s
    else s
  | _ => s
/-- The freeze in which the queue's engine waits ends. -/
def thaw (s : State) (q : QueueId) : State := match q, qSite s q with
  | .cluster _ e, some i => if decide (e.val < 4) && !frozenFor s i e.val then setFrozen s i none else s
  | _, _ => s
/-- The queue belongs to a compute engine of a cluster that another unit freezes. -/
def queueFrozen (s : State) (q : QueueId) : Bool := match q, qSite s q with
  | .cluster _ e, some i => decide (e.val < 4) && frozenFor s i e.val
  | _, _ => false

/-- Hand-off queue a completing command pushes into, with the 64-bit field (R142). A STREAM pushes into its
subscribers' queues itself (R239, R241). -/
def handoffOf (s : State) (q : QueueId) (e : Entry) : Option (Site × Fin 8 × Nat) :=
  if !e.cmd.handoff then none
  else match e.opD with
    | .pantry _ f => match (pantryGl q e.cmd true).bind (siteOf s) with
      | some i => some (i, ⟨e.cmd.hq % 8, by omega⟩, f)
      | none => none
    | _ => none

/-- The wait behind a freeze of this set's cluster lasts: the sequencer waits, the head of a compute queue waits for its
landing buffer, or a command of that queue to deliver or complete (R144). -/
def freezeLasts (t : HSet) (c : FreezeCause) (u : Nat) : Bool := match fin? 4 u with
  | none => t.xsq.run || t.xsq.suspended || t.xsq.halting || t.xsq.due.isSome
  | some e =>
    let es := (t.queues.get ⟨e.val, by omega⟩).ents
    if c == .landingBusy then es.head?.any fun x => x.phase == .queued else es.any fun x => x.phase == .done || x.phase == .faulted
/-- A freeze ends with the wait behind it. -/
def settleFreeze (s : State) (i : Site) (h : Hh) : State := match (siteAt s i).frozen with
  | some (c, u) => if freezeLasts (setAt s i h) c u then s else setFrozen s i none
  | none => s

/-- The array is in full activity, or between the steps of a ramp. -/
def MxRegs.active (m : MxRegs) : Bool := m.rampUp || m.rampDown || m.step != 0
/-- The sequencer of a timed household halts: the array comes down its ramp (R144, R174, R175). -/
def haltRamp (s : State) (i : Site) (h : Hh) : State :=
  if modeOf s h == 2 then upSite s i fun c => { c with mx := if c.mx.active then { c.mx with rampUp := false, rampDown := true, rampNow := c.mx.ramp } else c.mx }
  else s

/-- In timed mode a halt of any queue halts the XSQ and every compute queue; records not started go (R137). A freeze
whose wait goes with them ends (R144). -/
def timedHalt (s : State) (i : Site) (h : Hh) (st : Nat) : State :=
  let ran := (setAt s i h).xsq.run || (setAt s i h).xsq.suspended
  let s := upSet s i h fun t => { t with
    queues := Vector.ofFn fun j : Fin 5 =>
      let q := t.queues.get j
      if j.val < 4 then { q with halted := true, ents := q.ents.filter fun e => e.phase != .queued } else q
    xsq := { t.xsq with run := false, suspended := false, lastStatus := st, pend := [], loops := [] } }
  settleFreeze (if ran then haltRamp s i h else s) i h

/-- The halt of a queue after a status other than OK (R137); a halt of a compute queue stops the cluster's XSQ
(R143). -/
def haltQueue (s : State) (q : QueueId) (h : Hh) (st : Nat) : State :=
  let s := setHalted s q h true
  match q with
  | .cluster k e => match siteOf s k with
    | some i =>
      if modeOf s h == 2 then timedHalt s i h st
      else if e.val < 4 then upSet s i h fun t => { t with xsq := { t.xsq with run := false, lastStatus := st } }
      else s
    | none => s
  | _ => s

/-- The pool of a cluster has had work just now (R329). -/
def noteWork (s : State) (k : Gl) : State := match poolOfGl s k with
  | some p => upPool s p fun x => { x with idle := 0 }
  | none => s
/-- The queue's registers after a completion. -/
def noteDone (s : State) (q : QueueId) (h : Hh) (seq st : Nat) : State := match q with
  | .cluster k e => match siteOf s k with
    | some i => upSet (upSite (noteWork s k) i fun c => { c with worked := vmod c.worked ⟨e.val, by omega⟩ fun _ => true }) i h fun t => { t with queues := vmod t.queues e fun x => { x with doneSeq := seq, lastStatus := st } }
    | none => s
  | .mve r => upReg s r fun g => { g with mve := { g.mve with doneSeq := seq, worked := true } }
  | .larder r => upReg s r fun g => { g with larder := { g.larder with doneSeq := seq, worked := true } }

/-- Remove a completed entry. -/
def dropEntry (s : State) (q : QueueId) (h : Hh) (seq : Nat) : State :=
  upEnts s q fun es => es.filter fun e => !(e.hh == h && e.seq == seq)

/-- What the status word of an entry says (R138). -/
def entryWord (q : QueueId) (e : Entry) : List Byte :=
  statusWord e.status e.cmd.opcode (qUnit q) (wordFlags e.hh (e.phase == .faulted) e.operand) e.seq e.offset e.recIdx

/-- The entry that may complete next: the first whose effect is over, and, when it writes a word, with no
earlier command of its queue still in execution (R139). -/
def completing (s : State) (q : QueueId) : Option Entry :=
  let es := qEnts s q
  match es.find? fun e => e.phase == .done || e.phase == .faulted with
  | none => none
  | some e =>
    let before := es.takeWhile fun x => !(x.hh == e.hh && x.seq == e.seq)
    if (e.cmd.report || e.status != stOk) && before.any (fun x => x.hh == e.hh && x.phase != .suspended) then none
    else some e

/-- A summary is still to be delivered before the command completes (R213). -/
def owesSummary (e : Entry) : Bool := e.summary.isSome && e.phase == .done

/-- Streams and larder slots of commands that have left their queue end. -/
def sweep (s : State) (q : QueueId) : State :=
  let live (h : Nat) (seq : Nat) : Bool := (qEnts s q).any fun e => e.hh.val == h && e.seq == seq && e.phase != .queued
  match q with
  | .cluster k en => match liveSet s k with
    | some (i, h) => upSite s i fun c => { c with st := { c.st with
        streams := c.st.streams.filter fun x => x.eng != en.val || x.hh != h || live x.hh.val x.seq } }
    | none => s
  | .mve r => upReg s r fun g => { g with mve := { g.mve with streams := g.mve.streams.filter fun x => live x.hh.val x.seq } }
  | .larder r => upReg s r fun g => { g with
      larder := { g.larder with streams := g.larder.streams.filter fun x => live x.hh.val x.seq }
      ld := { g.ld with slots := g.ld.slots.map fun x => { x with active := x.active && live x.hh x.seq } } }

/-- Clusters of the region that a STREAM names in SUBS, with their sites. -/
def streamSubs (s : State) (r : Rg) (c : Record) : List (Fin 4 × Gl × Site) :=
  (List.finRange 4).filterMap fun j =>
    if c.mod.testBit (28 + j.val) then (siteOf s (clusterOf r j)).map fun i => (j, clusterOf r j, i) else none
/-- A STREAM of a timed household that completes with another status than OK halts its subscribers (R242). -/
def streamHalt (s : State) (q : QueueId) (e : Entry) : State := match q with
  | .larder r => if e.cmd.opcode == 0xC1 && e.status != stOk && modeOf s e.hh == 2 then
      (streamSubs s r e.cmd).foldl (fun t x => if holds s e.hh x.2.1 then timedHalt t x.2.2 e.hh e.status else t) s
    else s
  | _ => s

/-- A job of the PSQ fails (R264): its word, the error doorbell, FAILED; it issues and takes nothing more. -/
def psqFail (s : State) (k : Gl) (i : Site) (h : Hh) (st : Nat) : State :=
  let p := (setAt s i h).psq
  let s := postWord s h (statusWord st 0xFE k.val (wordFlags h false 0) p.job p.limb 0xFFFFFFFF) none
  let s := upSet s i h fun t => { t with psq := { t.psq with
    busy := false, suspended := false, failed := true, lastStatus := st, worded := false } }
  errBell (evPs s i h fun r => { r with evFail := true }) h
/-- A record of the PSQ that completes with another status than OK fails its job; the job's last MM ends it (R264). -/
def psqNote (s : State) (q : QueueId) (e : Entry) : State := match q with
  | .cluster k _ => match siteOf s k with
    | some i =>
      let p := (setAt s i e.hh).psq
      if !e.fromPsq || !p.busy then s
      else if e.status != stOk then psqFail s k i e.hh e.status
      else if p.allIssued && e.seq == p.lastSeq then upSet s i e.hh fun t => { t with psq := { t.psq with lastDone := true } }
      else s
    | none => s
  | _ => s

/-- Households whose work a site of global number k runs: its exclusive holder, or the members of its pool that a
quantum or a switch names (R341). -/
def runsOn (s : State) (k : Gl) : List Hh := allHh.filter fun h =>
  holdsExcl s h k || match poolOfGl s k with
    | some p => holdsPool s h k && ((s.pools.get p).running == some h || (s.pools.get p).next == some h)
    | none => false
/-- Quarantine of a failed site (R340 step 1): nothing enters it and the work it holds of the household it runs ends
without words. A pool switch on it is abandoned, and the outgoing household's save there is invalid (R343). -/
def quarantine (s : State) (i : Site) (st : Nat) : State :=
  if (siteAt s i).retired || (siteAt s i).dead then s
  else
    let hs : List Hh := match globalOf s i with
      | some k => if k.val < 32 then runsOn s k else []
      | none => []
    let out : Option Hh := ((globalOf s i).bind (poolOfGl s)).bind fun p =>
      if (s.pools.get p).stage != .none then (s.pools.get p).running else none
    upSite (hs.foldl (fun t h => clearRunning t h (setEntries (setAt s i h))) s) i fun c => { c with
      dead := true, failStatus := st, frozen := none, inflight := [], accFly := [], st := { c.st with streams := c.st.streams.filter fun x => !hs.contains x.hh }
      sets := (fun v : Vector HSet 16 => match out with
        | some h => vmod v h fun t => { t with ran := false, lines := [] }
        | none => v) <| hs.foldl (fun v h => vmod v h fun t => { t with
        queues := t.queues.map dropQueue
        xsq := { t.xsq with run := false, suspended := false, halting := false, worded := false, due := none, pend := [], loops := [] }
        psq := { t.psq with enable := false, busy := false, suspended := false, worded := false }
        wins := t.wins.map fun _ => KWin.shut }) c.sets }

/-- A final check failure asks the house to retire the physical cluster (R173, R190). -/
def askRetire (s : State) (q : QueueId) (st : Nat) : State := match q with
  | .cluster k _ =>
    if st == stAbft then match siteOf s k with
      | some i => quarantine s i st
      | none => s
    else s
  | _ => s

/-- Completion of the command (R134): hand-off, signal, status word, halt, doorbells, group abort. While a
hand-off queue or the ring has no room, or the word is held, the engine stalls. -/
def complete (s : State) (q : QueueId) : State :=
  match completing s q with
  | none => s
  | some e =>
    let ok := e.status == stOk
    if owesSummary e || queueFrozen s q then s
    else
      let ho := if ok then handoffOf s q e else none
      let full := match ho with
        | some (i, n, _) => decide (((setAt s i e.hh).hqs.get n).length ≥ 16)
        | none => false
      if full then stallOf s q e.hh .handoffFull
      else if wordWaits s e.hh q e.seq then s
      else
        let needs := (e.cmd.report || !ok) && !e.worded
        let s1 := if needs then postWord s e.hh (entryWord q e) (some (q, e.seq)) else s
        if needs && wordWaits s1 e.hh q e.seq then
          stallOf (upEntry s1 q e.hh e.seq fun x => { x with worded := true }) q e.hh
            (if (hhAt s1 e.hh).cmd.cqFault then .fault else .ringFull)
        else
          let s := thaw s1 q
          let s := match ho with
            | some (i, n, f) => upSet s i e.hh fun t => { t with hqs := t.hqs.set n.val (t.hqs.get n ++ [f]) n.isLt }
            | none => s
          let s := if ok then signal s q e else s
          let s := if e.cmd.notify && e.phase == .done then raise s (hhSrc e.hh 1) else s
          let s := if ok then s else errBell s e.hh
          if e.phase == .faulted then
            haltQueue (upEntry s q e.hh e.seq fun x => { x with phase := .suspended, worded := false }) q e.hh e.status
          else
            let abort := (hhAt s e.hh).tx.opened && (abortsGroup e.status || e.keyFail)
            let s := streamHalt (sweep (noteDone (dropEntry s q e.hh e.seq) q e.hh e.seq e.status) q) q e
            let s := psqNote (if !ok && !abort then haltQueue s q e.hh e.status else s) q e
            let s := if abort then txAbort s e.hh ⟨e.status, e.cmd.opcode, qUnit q, e.seq, e.recIdx⟩ true else s
            askRetire s q e.status

/-- RESUME of a queue for a household: a suspended command goes on from its block, a halted queue with the next
command (R137). -/
def resumeQueue (s : State) (q : QueueId) (h : Hh) : State :=
  let s := setHalted s q h false
  match q with
  | .cluster k e => match siteOf s k with
    | some i => upSet s i h fun t => { t with queues := vmod t.queues e fun x => { x with
        ents := x.ents.map fun y => if y.phase == .suspended then { y with phase := .running, status := 0, operand := 0, offset := 0 } else y } }
    | none => s
  | .larder _ => upEnts s q fun es => es.map fun y =>
      if y.hh == h && y.phase == .suspended then { y with phase := .running, status := 0, operand := 0, offset := 0 } else y
  | .mve _ => upEnts s q fun es => es.map fun y =>
      if y.hh == h && y.phase == .suspended then { y with
        phase := if es.any fun x => x.phase == .running || x.phase == .done || x.phase == .faulted then .resumed else .running
        status := 0, operand := 0, offset := 0 } else y

/-- FLUSH of a queue for a household: queued commands go without words, a suspended one ends as an engine
abort (R137, R327). Commands in execution complete. -/
def flushQueue (s : State) (q : QueueId) (h : Hh) : State :=
  let es : List Entry := match q with
    | .cluster k e => match siteOf s k with
      | some i => ((setAt s i h).queues.get e).ents
      | none => []
    | _ => qEnts s q
  let ends (e : Entry) : Bool := e.phase == .suspended || e.phase == .resumed
  let susp := es.find? fun e => e.hh == h && ends e
  let keep := fun (e : Entry) => e.hh != h || (e.phase != .queued && !ends e)
  let s := setHalted s q h false
  let s := match q with
    | .cluster k e => match siteOf s k with
      | some i => upSet s i h fun t => { t with queues := vmod t.queues e fun x => { x with ents := x.ents.filter keep } }
      | none => s
    | _ => upEnts s q fun es => es.filter keep
  let s := sweep s q
  match susp with
  | some e => engineAbort s h ⟨stTxAbort, e.cmd.opcode, qUnit q, e.seq, e.recIdx⟩
  | none => s

end Sys2Proof.Machine
end

