-- ==== Sys2Proof/Machine/Timing.lean ====
section
/-! DEFINITION. The timed contract: occupancy, timed latencies, block readiness and schedule checks
(R144-R148), and the cycle formulas of the engine chapters. -/

namespace Sys2Proof.Machine

def opTensor : Opnd → Option Tensor
  | .pantry t _ => some t
  | .cellar t _ => some t
  | _ => none
def opInner (o : Opnd) : Nat := match opTensor o with
  | some t => t.inner
  | none => 0
def opRows (o : Opnd) : Nat := match opTensor o with
  | some t => rowCount t
  | none => 0
def opElems (o : Opnd) : Nat := match opTensor o with
  | some t => elemCount t
  | none => 0
/-- Strips of a destination (R202). -/
def strips (d : Opnd) : Nat := opRows d * cdiv (opInner d) 512
/-- 512·E over a pantry operand whose INNER exceeds 1 (R214). -/
def sigmaOf (o : Opnd) : Nat := match o with
  | .pantry t _ => if t.inner > 1 then 512 * t.e else 0
  | _ => 0

/-- OCC in ACLK of a command on pantry operands (R176, R193, R214). -/
def occOf (log2n : Nat) (r : Record) (a b d : Opnd) : Nat :=
  let n := 2 ^ log2n
  match r.opcode with
  | 0x01 => 32 + opInner a
  | 0x02 => 64
  | 0x03 => opRows a * cdiv (opInner a) 256
  | 0x04 => cdiv (bits r.mod 0 12 + 1) 8
  | 0x05 => cdiv (opElems d) 512
  | 0x21 => opRows a * n * log2n / 512
  | 0x22 => opRows a * n * log2n / 512
  | 0x41 => opRows a * n / 512
  | 0x43 => cdiv (opElems b) 512
  | 0x44 => cdiv (opElems b) 512
  | 0x61 => max (strips d) (cdiv (strips d * (sigmaOf a + sigmaOf b + sigmaOf d)) 3072)
  | 0x62 => max (strips d) (cdiv (strips d * (sigmaOf b + sigmaOf d)) 3072)
  | 0x63 => 16
  | 0x64 => 8 + opRows a
  | _ => 1

/-- START and PIPE of the table "Timed latencies" (R146, R177, R194, R215); m is the program length. -/
def latency (log2n m : Nat) (r : Record) (b : Opnd) : Nat × Nat :=
  match r.opcode with
  | 0x01 => match bits r.mod 27 3 with
    | 0 => (6, 14)
    | 1 => (6, 9)
    | 5 => (6, 9)
    | _ => (6, 11)
  | 0x02 => (6, 14)
  | 0x03 => (6, 14)
  | 0x04 => (6, 14)
  | 0x05 => (6, 14)
  | 0x21 => (5, 2 * log2n + 2)
  | 0x22 => (5, 2 * log2n + 2)
  | 0x41 => (5, 8)
  | 0x43 => (5 + cdiv (opElems b) 16, 8)
  | 0x44 => (5 + cdiv (opElems b) 16, 8)
  | 0x61 => (4, 6 + 2 * m)
  | 0x62 => (2, 6 + 2 * m)
  | 0x63 => (4, 6)
  | 0x64 => (4, 6)
  | _ => (1, 0)

/-- Timed ACLK at which the engine accepts its next record (R146). -/
def acceptAt (t0 occ : Nat) (r : Record) (b : Opnd) : Nat :=
  match r.opcode with
  | 0x43 => t0 + cdiv (opElems b) 16 + occ
  | 0x44 => t0 + cdiv (opElems b) 16 + occ
  | _ => if r.op = 0 ∨ r.op = 31 then t0 + 1 else t0 + occ

/-- Destination blocks of a pantry destination. -/
def destBlocks (d : Opnd) : Nat := match d with
  | .pantry t _ => rowCount t * rowBlocks t
  | _ => 0

/-- Number of micro-operations before the first END (R208). -/
def progLen (ws : List Nat) : Nat := (ws.takeWhile fun w => bits w 26 6 != 0).length

/-- Program length that a chain command names, 0 for other commands. -/
def cmdProgLen (t : HSet) (r : Record) : Nat :=
  if r.opcode = 0x61 ∨ r.opcode = 0x62 then progLen (t.progs.get ⟨bits r.mod 16 4, by unfold bits; omega⟩).words else 0

/-- log2 N of a household, 0 without a lease. -/
def log2nOf (s : State) (h : Hh) : Nat := match (hhAt s h).lease with
  | some l => l.log2n
  | none => 0

/-- First read and end of reads of a timed entry (R146). -/
def readSpan (s : State) (i : Site) (e : Entry) : Nat × Nat :=
  let n := log2nOf s e.hh
  let lt := latency n (cmdProgLen (setAt s i e.hh) e.cmd) e.cmd e.opB
  let t0 := e.t0.getD 0
  (t0 + lt.1, t0 + lt.1 + occOf n e.cmd e.opA e.opB e.opD)

/-- Readiness of destination block j (R146); none outside timed mode. -/
def readyAt (s : State) (i : Site) (e : Entry) (j : Nat) : Option Nat :=
  e.t0.map fun t0 =>
    let n := log2nOf s e.hh
    let lt := latency n (cmdProgLen (setAt s i e.hh) e.cmd) e.cmd e.opB
    t0 + lt.1 + lt.2 + cdiv ((j + 1) * occOf n e.cmd e.opA e.opB e.opD) (max 1 (destBlocks e.opD))

/-- Times of the results in the accumulator file: none comes before the first, all are readable from the second (R146,
R177); none outside timed mode. -/
def accSpan (s : State) (i : Site) (e : Entry) : Option (Nat × Nat) :=
  e.t0.map fun t0 =>
    let n := log2nOf s e.hh
    let lt := latency n (cmdProgLen (setAt s i e.hh) e.cmd) e.cmd e.opB
    (t0 + lt.1 + lt.2, t0 + lt.1 + lt.2 + occOf n e.cmd e.opA e.opB e.opD)

/-- What the sources of an entry look like: in timed mode as of its read times (R146, R147). -/
def entryView (s : State) (i : Site) (e : Entry) : PView := match e.t0 with
  | none => viewOf (siteAt s i)
  | some _ => timedView (siteAt s i) s.fresh (readSpan s i e).1 (readSpan s i e).2

/-- An accumulator entry as the VXE reads it: in timed mode as of the command's read times (R146, R161, R211). -/
def entryAcc (s : State) (i : Site) (e : Entry) (n : Nat) : Nat := match e.t0 with
  | none => spGet 0 (siteAt s i).acc n
  | some _ => accSeen (siteAt s i) s.fresh (readSpan s i e).1 (readSpan s i e).2 n

/-- Time at which the results of a bound record count for a token (R148). The results of an ACCZ lie in the accumulator
file. -/
def tokenTime (s : State) (i : Site) (e : Entry) : Nat :=
  let n := log2nOf s e.hh
  let t0 := e.t0.getD 0
  let lt := latency n (cmdProgLen (setAt s i e.hh) e.cmd) e.cmd e.opB
  let occ := occOf n e.cmd e.opA e.opB e.opD
  if decide (destBlocks e.opD > 0) && !noOperands e.cmd then t0 + lt.1 + lt.2 + occ
  else match e.opD, e.cmd.opcode with
    | .imm _, _ => t0 + lt.1 + lt.2 + occ
    | _, 0x04 => t0 + lt.1 + lt.2 + occ
    | _, _ => acceptAt t0 occ e.cmd e.opB

/-- The virtual address of the record at an index (R143). -/
def xsqAddr (x : Xsq) (idx : Nat) : Nat := (x.base + 32 * idx) % 2 ^ 64
/-- The 32 bytes of the record at an index, when its aligned 1 KiB line is cached. -/
def xsqBytes (x : Xsq) (idx : Nat) : Option (List Byte) :=
  (x.cache.find? fun l => l.1 == xsqAddr x idx / 1024).map fun l => slice l.2 (xsqAddr x idx % 1024) 32
/-- An engine record finds no room: its queue is full, or the PSQ has the matrix array (R143, R263). -/
def xsqHeld (t : HSet) (r : Record) : Bool := match fin? 5 r.eng with
  | some en => decide ((t.queues.get en).ents.length ≥ 64) || (en.val == 0 && t.psq.busy && !t.psq.allIssued)
  | none => false
/-- The sequencer can still issue a record whose first read comes at `t1` or before (R145, R146). -/
def xsqEarlier (s : State) (k : Gl) (t : HSet) (t1 : Nat) : Bool :=
  let x := t.xsq
  x.run && !x.suspended && !x.halting && !stopping s k && match xsqBytes x x.pc with
    | some bs =>
      let r := recordOf bs
      !(r.eng == 7 && r.op == 5) && !xsqHeld t r && decide (x.tPrev + r.delta + 1 ≤ t1)
    | none => false

/-- Generation of a token at a timed ACLK: the advances due by then, from zero at START (R148). -/
def genAt (x : Xsq) (tok t : Nat) : Nat := (x.adv.filter fun a => a.2.1 == tok && decide (a.1 ≤ t)).length % 256

/-- The checks bound to a record pass at its first read (R148). -/
def checksPass (s : State) (i : Site) (e : Entry) : Bool :=
  e.checks.all fun c => c.produce || genAt (setAt s i e.hh).xsq c.token (readSpan s i e).1 == c.gen

end Sys2Proof.Machine
end

