-- ==== Sys2Proof/Machine/Windows.lean ====
section
/-! DEFINITION. Key windows seen by other commands (R233-R235). -/

namespace Sys2Proof.Machine

/-- A window covers pantry byte a. -/
def winHas (w : KWin) (a : Nat) : Bool := decide (w.base ≤ a) && decide (a < w.base + 4096 * w.blocks)
/-- The address range of a tensor overlaps a window (R234, R235). -/
def winHits (w : KWin) (t : Tensor) : Bool :=
  let (lo, hi) := extent t false
  decide (lo < ((w.base + 4096 * w.blocks : Nat) : Int)) && decide ((w.base : Int) < hi)
def winOpen (w : KWin) : Bool := w.state != .closed

/-- A pantry operand overlaps a window of the set that is not CLOSED (R234). -/
def hitsWindow (t : HSet) (o : Opnd) : Bool := match o with
  | .pantry x _ => t.wins.toList.any fun w => winOpen w && winHits w x
  | _ => false

/-- What R235 makes of the sources of a compute command. -/
inductive WinVerdict where
  | go | wait
  | fail (status operand : Nat)
deriving DecidableEq, Repr

def sourceVerdict (t : HSet) (timed : Bool) (o : Opnd) (operand : Nat) : WinVerdict := match o with
  | .pantry x _ =>
    let ws := t.wins.toList.filter fun w => winHits w x
    match ws.find? fun w => w.state == .failed with
    | some w => .fail w.status operand
    | none =>
      if ws.any fun w => w.state == .opened || w.state == .bound then
        (if timed then .fail stRange operand else .wait)
      else .go
  | _ => .go

/-- R235 for both sources of a command of the MXA, NTE, PME or VXE. -/
def windowVerdict (t : HSet) (timed : Bool) (a b : Opnd) : WinVerdict :=
  match sourceVerdict t timed a 1, sourceVerdict t timed b 2 with
  | .fail x y, _ => .fail x y
  | _, .fail x y => .fail x y
  | .wait, _ => .wait
  | _, .wait => .wait
  | _, _ => .go

/-- What R235 makes of a command now. -/
def verdictOf (s : State) (i : Site) (e : Entry) : WinVerdict :=
  windowVerdict (setAt s i e.hh) (modeOf s e.hh == 2) e.opA e.opB
/-- A started command waits at its first read for a key window (R235). -/
def windowWaits (s : State) (i : Site) (e : Entry) : Bool :=
  !noOperands e.cmd && decide (e.cmd.eng < 4) && !hitsWindow (setAt s i e.hh) e.opD && verdictOf s i e == .wait
/-- A command whose operand cases pass is about to make its first read (R234, R235): it goes on to `run`, waits, counted
under KEY_WAIT, or ends in the state `stop`. -/
def firstAccess (s stop : State) (q : QueueId) (i : Site) (e : Entry) (run : State) : State :=
  if hitsWindow (setAt s i e.hh) e.opD then endEntry stop q e stRange 0 0
  else match verdictOf s i e with
    | .go => run
    | .wait => stallNote s q e.hh scKey
    | .fail st opd => upEntry stop q e.hh e.seq fun x => { x with
        phase := .done, status := st, offset := 0, operand := opd, keyFail := true, summary := summaryAt x st }

/-- Blocks of a window that hold one of the bytes of the given ranges (address, length). -/
def blocksRead (w : KWin) (rs : List (Nat × Nat)) : List Nat :=
  (List.range w.blocks).filter fun j =>
    rs.any fun r => decide (r.1 < w.base + 4096 * (j + 1)) && decide (w.base + 4096 * j < r.1 + r.2)

/-- The rows of a pantry operand as ranges. -/
def rowRanges : Opnd → List (Nat × Nat)
  | .pantry t _ => (List.range (rowCount t)).map fun r => (rowAddr t r, rowBytes t)
  | _ => []

/-- A compute command that completes with OK has read these ranges: FILLED windows whose every block has been
read close (R233, R235). -/
def noteReads (t : HSet) (rs : List (Nat × Nat)) : HSet :=
  { t with wins := t.wins.map fun w =>
    if w.state == .filled then
      let seen := (blocksRead w rs).foldl insNat w.seen
      if seen.length ≥ w.blocks then KWin.shut else { w with seen := seen }
    else w }

/-- A window range: words of 4 bytes in whole contiguous blocks from a block of the pantry, at most 4 MiB (R250,
R254). -/
def wholeRange (t : Tensor) : Bool :=
  t.e == 4 && t.inner % 1024 == 0 && t.base % 4096 == 0 && (t.c1 == 1 || t.s1 == ((4 * t.inner : Nat) : Int)) &&
    (t.c2 == 1 || t.s2 == ((4 * t.inner * t.c1 : Nat) : Int)) && decide (4 * elemCount t ≤ 4194304)

/-- A window fails with a status (R233). -/
def failWin (w : KWin) (st : Nat) : KWin := { w with state := .failed, status := st }

end Sys2Proof.Machine
end

