-- ==== Sys2Proof/Machine/Requests.lean ====
section
/-! DEFINITION. Requests of the stream units, the larders and the move engines: how a transfer divides into them, their
deadlines and tags, and which issues next (R223-R228, R230, R237, R283). -/

namespace Sys2Proof.Machine

/- Blocks of a tensor. -/

/-- Block b of a tensor, in ascending linear order: its row and its index in the row. -/
def blockAt (t : Tensor) (b : Nat) : Nat × Nat := (b / rowBlocks t, b % rowBlocks t)
/-- n·E of the first element of block b (R461). -/
def blockOff (t : Tensor) (b : Nat) : Nat := (blockAt t b).1 * rowBytes t + 4096 * (blockAt t b).2
/-- Address of block b, of its seal, and its length. -/
def blockVa (t : Tensor) (b : Nat) : Nat := (rowAddr t (blockAt t b).1 + 4096 * (blockAt t b).2) % 2 ^ 64
def blockSl (t : Tensor) (sb b : Nat) : Nat := sealAddr sb (rowBlocks t) (blockAt t b).1 (blockAt t b).2
def blockBytes (t : Tensor) (b : Nat) : Nat := blockLen (rowBytes t) (blockAt t b).2
def blockCount (t : Tensor) : Nat := rowCount t * rowBlocks t

/-- Both pages of a block and its seal are translated before anything is requested (R230). -/
def blockFault (s : State) (h : Hh) (acc : Acc) (t : Tensor) (sb b : Nat) : Option (Nat × Nat) :=
  match xlateRange s h true acc (blockVa t b) (blockBytes t b) with
  | some x => some x
  | none => xlateRange s h true acc (blockSl t sb b) 4

/- What a transfer asks for. -/

/-- ACLK since the package reset, as the ticks of the model count it (log 7). -/
def aclkNow (s : State) : Nat := s.us * 1600

/-- The requests for n bytes from a virtual address, 64 bytes to 1 KiB long and none across a page, as address and length
(R223). -/
def spansOf : Nat → Nat → Nat → List (Nat × Nat)
  | 0, _, _ => []
  | fuel + 1, va, n =>
    if n = 0 then []
    else
      let len := min (min 1024 n) (65536 - va % 65536)
      (va % 2 ^ 64, len) :: spansOf fuel (va + len) (n - len)

/-- What a transfer asks for: its blocks, the spans of each, and whether a block's pages translate, without which nothing
of it or of a later block is requested (R230). -/
structure Feed where
  count : Nat
  spans : Nat → List (Nat × Nat)
  ok : Nat → Bool

/-- Blocks of a cellar tensor. -/
def tensorFeed (s : State) (h : Hh) (acc : Acc) (t : Tensor) (sb : Nat) : Feed :=
  ⟨blockCount t, fun b => spansOf 8 (blockVa t b) (blockBytes t b), fun b => (blockFault s h acc t sb b).isNone⟩

/-- Requests of one block: each to the place of its first byte in the cellar. -/
def blockRequests (s : State) (h : Hh) (write : Bool) (f : Feed) (b : Nat) : List (Nat × Nat) :=
  (f.spans b).filterMap fun x => match xlate s h true (if write then .write else .read) x.1 with
    | .error _ => none
    | .ok p => some (if write then writeCpa s p x.1 else readCpa s h true p x.1, cdiv x.2 64 * 64)

/-- The requests from block b on, up to the first block that does not translate, and that block. Those of a larder are
ranked by their blocks (R226). -/
def ask (s : State) (h : Hh) (write byBlock : Bool) (f : Feed) : Nat → Nat → Nat → List Request × Nat
  | 0, b, _ => ([], b)
  | fuel + 1, b, rank =>
    if f.ok b then
      let xs := blockRequests s h write f b
      let rs := (xs.zip (List.range xs.length)).map fun x => (⟨x.1.1, x.1.2, b, if byBlock then b else rank + x.2⟩ : Request)
      let r := ask s h write byBlock f fuel (b + 1) (rank + xs.length)
      (rs ++ r.1, r.2)
    else ([], b)
/-- Requests that blocks 0 to b − 1 take. -/
def spanCount (f : Feed) (b : Nat) : Nat := ((List.range b).map fun j => (f.spans j).length).sum

/-- Deadline window of a command in ACLK (R226, R227); none for a command that declares no DL. -/
def deadlineOf (s : State) (q : QueueId) (e : Entry) : Option Nat :=
  let pick (d dflt : Nat) : Option Nat := some (64 * if d = 0 then dflt else d)
  match q with
  | .cluster k _ => if e.cmd.opcode = 0x81 ∨ e.cmd.opcode = 0x82 then
      pick (bits e.cmd.mod 0 16) (match siteOf s k with
        | some i => (setAt s i e.hh).defDl
        | none => 0x100)
    else none
  | .larder _ => if e.cmd.opcode = 0xC1 then match e.opB with
      | .imm v => pick (bits v 16 16) 1024
      | _ => pick 0 1024
    else none
  | .mve _ => none
/-- The window by which a command's requests are arbitrated: descriptor forms take ST_DEFDL (R227). -/
def windowOf (s : State) (q : QueueId) (e : Entry) : Nat := match deadlineOf s q e, qSite s q with
  | some n, _ => n
  | none, some i => 64 * (setAt s i e.hh).defDl
  | none, none => 64 * 1024

/- Streams. -/

/-- Streams of the unit that serves a queue: those of a cluster's STU, whatever engine they are for. -/
def qStreams (s : State) (q : QueueId) : List Strm := match q with
  | .cluster k _ => match siteOf s k with
    | some i => (siteAt s i).st.streams
    | none => []
  | .mve r => (regAt s r).mve.streams
  | .larder r => (regAt s r).larder.streams
def upStreams (s : State) (q : QueueId) (f : List Strm → List Strm) : State := match q with
  | .cluster k _ => match siteOf s k with
    | some i => upSite s i fun c => { c with st := { c.st with streams := f c.st.streams } }
    | none => s
  | .mve r => upReg s r fun g => { g with mve := { g.mve with streams := f g.mve.streams } }
  | .larder r => upReg s r fun g => { g with larder := { g.larder with streams := f g.larder.streams } }

/-- A stream serves this command of the queue. -/
def Strm.serves (x : Strm) (q : QueueId) (e : Entry) : Bool := x.hh == e.hh && x.seq == e.seq && x.eng == qEng q
/-- The stream of a command in one direction. -/
def strmOf (s : State) (q : QueueId) (e : Entry) (write : Bool) : Option Strm :=
  (qStreams s q).find? fun x => x.serves q e && x.write == write
/-- One stream changed by f. -/
def upStrm (s : State) (q : QueueId) (y : Strm) (f : Strm → Strm) : State :=
  upStreams s q fun xs => xs.map fun x =>
    if x.hh == y.hh && x.seq == y.seq && x.eng == y.eng && x.write == y.write then f x else x

/-- A command asks for a transfer: its stream begins, or goes on to other blocks (STREAM: from the header to the body) and
keeps its place and start. -/
def putStream (s : State) (q : QueueId) (e : Entry) (write : Bool) (f : Feed) : State :=
  let byBlock := qEng q == 6
  let rs := ask s e.hh write byBlock f f.count 0 0
  let x : Strm := ⟨e.hh, e.seq, qEng q, write, aclkNow s, windowOf s q e, if byBlock then f.count else spanCount f f.count,
    rs.2, rs.1, []⟩
  match strmOf s q e write with
  | some y => upStrm s q y fun y => { x with start := y.start }
  | none => upStreams s q fun xs => xs ++ [x]
/-- The requests that a stream lacks, once those made are over: those from the first block not asked for on, as far as
its pages now translate (R230). None when there are none to make. -/
def moreRequests (s : State) (q : QueueId) (e : Entry) (write : Bool) (f : Feed) : Option State :=
  match strmOf s q e write with
  | none => none
  | some x =>
    if x.left.isEmpty && x.out.isEmpty && decide (x.upto < f.count) && f.ok x.upto then
      let rs := ask s e.hh write (qEng q == 6) f (f.count - x.upto) x.upto (spanCount f x.upto)
      some (upStrm s q x fun y => { y with upto := rs.2, left := rs.1 })
    else none
/-- The first block not asked for is reached, none is pending, and its pages do not translate: the command meets the fault. -/
def atFault (x : Strm) (f : Feed) (b : Nat) : Bool := b == x.upto && !f.ok b && x.left.isEmpty && x.out.isEmpty
/-- Block b has been read: its requests have been made and none is left or outstanding; or its fault is met. A command
without a stream waits for none. -/
def blockRead (s : State) (q : QueueId) (e : Entry) (f : Feed) (b : Nat) : Bool := match strmOf s q e false with
  | none => true
  | some x => (decide (b < x.upto) && (x.left ++ x.out).all fun r => r.blk != b) || atFault x f b
/-- Block b may be written: its requests have issued; or its fault is met. -/
def blockIssued (s : State) (q : QueueId) (e : Entry) (f : Feed) (b : Nat) : Bool := match strmOf s q e true with
  | none => true
  | some x => (decide (b < x.upto) && x.left.all fun r => r.blk != b) || atFault x f b
/-- A transfer whose next block is not ready asks for what it lacks, or waits for a tag or for data (R230, R232). -/
def moveWaits (s : State) (q : QueueId) (e : Entry) (write : Bool) (f : Feed) (b : Nat) : State :=
  let s := upEntry s q e.hh e.seq fun y => { y with pos := b }
  (moreRequests s q e write f).getD (stallNote s q e.hh scOperand)
/-- Writes of the command that are still to be acknowledged. -/
def writesOut (s : State) (q : QueueId) (e : Entry) : Bool := match strmOf s q e true with
  | none => false
  | some x => !x.left.isEmpty || !x.out.isEmpty
/-- Blocks from b on, below n, that may move now. -/
def readyRun (ok : Nat → Bool) (n b : Nat) : Nat := ((List.range (n - b)).takeWhile fun j => ok (b + j)).length
/-- A household's streams on a site stop at a switch or a zeroing that its commands outlive: what has not been read is asked
for again when they go on (R330). -/
def Strm.rewind (x : Strm) : Strm :=
  { x with left := [], out := [], upto := (x.left ++ x.out).foldl (fun n r => min n r.blk) x.upto }

/- Issue (R223-R228). -/

/-- Tags that a request holds: each covers up to 1 KiB (R223, R224). -/
def Request.tags (r : Request) : Nat := cdiv r.bytes 1024
def tagsHeld (xs : List Strm) : Nat := xs.foldl (fun n x => n + (x.out.map Request.tags).sum) 0
/-- Tags of a unit (R223, R237, R283). -/
def tagLimit : QueueId → Nat
  | .cluster _ _ => 512
  | .larder _ => 1024
  | .mve _ => 256
/-- Tags that the requests of one command may hold: 128 for a descriptor form (R192, R223). -/
def tagShare (q : QueueId) (x : Strm) : Nat := match q with
  | .cluster _ _ => if x.eng = 4 then 512 else 128
  | _ => tagLimit q
/-- Deadline of a stream's next request (R226). -/
def nextDeadline (x : Strm) (r : Request) : Nat := x.start + cdiv (x.window * (r.rank + 1)) (max 1 x.total)
/-- The household's commands may use the queue's clusters now: on a pool they wait for its quantum (R228). -/
def strmServed (s : State) (q : QueueId) (x : Strm) : Bool := match q with
  | .larder r => match (qEnts s q).find? fun e => e.hh == x.hh && e.seq == x.seq with
    | some e => (streamSubs s r e.cmd).all fun y => serves s y.2.2 x.hh
    | none => false
  | .cluster k _ => !switching s k && (liveSet s k).any fun y => y.2 == x.hh
  | .mve _ => true
/-- The streams of a unit that can issue, with their next requests: a tag is free and the household is served (R228). -/
def issuable (s : State) (q : QueueId) : List (Strm × Request) :=
  let xs := qStreams s q
  xs.filterMap fun x => match x.left with
    | [] => none
    | r :: _ => if tagsHeld xs + r.tags ≤ tagLimit q ∧ tagsHeld [x] + r.tags ≤ tagShare q x ∧ strmServed s q x then some (x, r) else none

/-- STREAM_REQUEST_ISSUE (R226, R228): of the streams that can issue, the one whose next deadline falls in the
earliest 64-ACLK bin, then by start and by queue order. -/
def issueOp (s : State) (q : QueueId) : State :=
  let bin (x : Strm × Request) : Nat := nextDeadline x.1 x.2 / 64
  let before (x y : Strm × Request) : Bool :=
    decide (bin x < bin y) || (bin x == bin y && decide (x.1.start < y.1.start))
  match issuable s q with
  | [] => s
  | c :: cs => upStrm s q (cs.foldl (fun b x => if before x b then x else b) c).1 fun x =>
      { x with left := x.left.drop 1, out := x.out ++ x.left.take 1 }

def execStreamRequestIssue (q : QueueId) (s : State) : Out := .next (issueOp s q)

end Sys2Proof.Machine
end

