-- ==== Sys2Proof/Machine/Cases.lean ====
section
/-! DEFINITION. Operand cases of the transfers, which pass before a command takes its first tag (R132): LOAD and STORE
(R249), COPY (R284, R287), and the rows of STREAM that need no header (R251, R252). -/

namespace Sys2Proof.Machine

/- LOAD and STORE. -/

/-- Shapes agree (R249 row 3). -/
def sameShape (a d : Tensor) : Bool := a.inner == d.inner && a.c1 == d.c1 && a.c2 == d.c2 && a.e == d.e

/-- The table "LOAD and STORE operand cases" for a LOAD: a status, or the source with its seal base, and the destination. -/
def loadCase (s : State) (i : Site) (e : Entry) : Except Nat (Tensor × Nat × Tensor) :=
  if e.cmd.mod ≥ 65536 || e.opB != .none then .error stRange
  else match e.opA, e.opD with
    | .cellar a sb, .pantry d f =>
      if hitsWindow (setAt s i e.hh) (.pantry d f) then .error stRange
      else if !sameShape a d then .error stShape
      else .ok (a, sb, d)
    | _, _ => .error stRange
/-- The same for a STORE: the source, and the destination with its seal base. -/
def storeCase (e : Entry) : Except Nat (Tensor × Tensor × Nat) :=
  if e.cmd.mod ≥ 65536 || e.opB != .none then .error stRange
  else match e.opA, e.opD with
    | .pantry a _, .cellar d sb => if !sameShape a d then .error stShape else .ok (a, d, sb)
    | _, _ => .error stRange

/- COPY. -/

/-- Fields of MOD and OPB of a COPY (R284). -/
structure CopyArgs where
  srcCl : Nat
  dstCl : Nat
  noPad : Bool
  transpose : Bool
  pad : Nat
  o0 : Nat
  o1 : Nat
  o2 : Nat
deriving DecidableEq, Repr

def copyArgs (e : Entry) : CopyArgs :=
  let m := e.cmd.mod
  let i := match e.opB with
    | .imm v => v
    | _ => 0
  ⟨bits m 30 2, bits m 28 2, m.testBit 27, m.testBit 26, bits m 0 16, bits i 20 12, bits i 10 10, bits i 0 10⟩

/-- A side of a COPY: a pantry tensor on a site, or a cellar tensor with its seal base. -/
inductive Side where
  | pantry (i : Site) (t : Tensor)
  | cellar (t : Tensor) (sb : Nat)
deriving DecidableEq, Repr

def Side.t : Side → Tensor
  | .pantry _ t => t
  | .cellar t _ => t

def sideOf (s : State) (q : QueueId) (r : Record) (o : Opnd) (dest : Bool) : Option Side := match o with
  | .pantry t _ => ((pantryGl q r dest).bind (siteOf s)).map fun i => .pantry i t
  | .cellar t sb => some (.cellar t sb)
  | _ => none

/-- Rows of two tensors share a byte. -/
def tensorsMeet (a d : Tensor) : Bool :=
  (List.range (rowCount a)).any fun x => (List.range (rowCount d)).any fun y =>
    decide (rowAddr a x < rowAddr d y + rowBytes d) && decide (rowAddr d y < rowAddr a x + rowBytes a)
/-- Source and destination lie in one memory and share a byte. -/
def sidesMeet : Side → Side → Bool
  | .pantry i a, .pantry j d => i == j && tensorsMeet a d
  | .cellar a _, .cellar d _ => tensorsMeet a d
  | _, _ => false
def sidesSame : Side → Side → Bool
  | .pantry i a, .pantry j d => i == j && sameTensor a d
  | .cellar a _, .cellar d _ => sameTensor a d
  | _, _ => false

/-- A pantry side overlaps a window of the household on its cluster in one of the states given. -/
def sideWindow (s : State) (h : Hh) (sd : Side) (p : KWin → Bool) : Bool := match sd with
  | .pantry i t => (setAt s i h).wins.toList.any fun w => p w && winHits w t
  | .cellar _ _ => false
/-- The household does not hold the cluster of a pantry side (R287 row 2). -/
def sideForeign (s : State) (q : QueueId) (e : Entry) (sd : Side) (dest : Bool) : Bool := match sd with
  | .pantry _ _ => match pantryGl q e.cmd dest with
    | some k => !holds s e.hh k
    | none => true
  | .cellar _ _ => false

/-- The table "COPY operand cases", in order (R287). -/
def copyCase (s : State) (q : QueueId) (e : Entry) (src dst : Side) : Option Nat :=
  let g := copyArgs e
  let a := src.t
  let d := dst.t
  let (x0, x1) := if g.transpose then (a.c1, a.inner) else (a.inner, a.c1)
  let cellar : Side → Bool
    | .cellar _ _ => true
    | _ => false
  let badB := match e.opB with
    | .none => false
    | .imm _ => false
    | _ => true
  if bits e.cmd.mod 16 10 ≠ 0 || badB || (cellar src && decide (g.srcCl ≠ 0)) || (cellar dst && decide (g.dstCl ≠ 0)) ||
      decide (a.e ≠ d.e) then some stRange
  else if sideForeign s q e src false || sideForeign s q e dst true then some stPerm
  else if g.o0 + x0 > d.inner || g.o1 + x1 > d.c1 || g.o2 + a.c2 > d.c2 then some stRange
  else if g.transpose && sidesMeet src dst then some stRange
  else if sideWindow s e.hh src (fun w => w.state == .opened || w.state == .bound || w.state == .failed) ||
      sideWindow s e.hh dst winOpen then some stRange
  else none

/- STREAM. -/

def strWin (c : Record) : Fin 4 := ⟨bits c.mod 26 2, by unfold bits; omega⟩
def strPos0 (c : Record) : Nat := bits c.mod 14 7
def strPosN (c : Record) : Nat := bits c.mod 7 7
/-- LV, the level of the consumers (R251). -/
def strLevel (e : Entry) : Nat := match e.opB with
  | .imm v => v % 128
  | _ => 0

/-- Subscribers of a STREAM that its household holds, in ascending cluster order. -/
def ownedSubs (s : State) (r : Rg) (e : Entry) : List (Fin 4 × Gl × Site) :=
  (streamSubs s r e.cmd).filter fun x => holds s e.hh x.2.1
/-- Rows 1 to 3 of the table "STREAM operand cases": a status, or the lease, the address of the header, the immediate and
the range. -/
def streamForm (s : State) (r : Rg) (e : Entry) : Except Nat (Lease × Nat × Nat × Tensor) :=
  let c := e.cmd
  match (hhAt s e.hh).lease, e.opA, e.opB, e.opD with
  | some l, .desc va, .imm iv, .pantry d _ =>
    let lv := strLevel e
    if c.mod % 128 ≠ 0 || bits c.mod 21 5 ≠ 0 || bits iv 7 9 ≠ 0 then .error stRange
    else if bits c.mod 28 4 = 0 || decide ((ownedSubs s r e).length ≠ popCount 4 (bits c.mod 28 4)) then .error stRange
    else if lv = 0 || lv > l.primes.length || strPosN c = 0 || strPos0 c + strPosN c > lv + l.specials.length then .error stRange
    else .ok (l, va, iv, d)
  | _, _, _, _ => .error stRange

/-- What a STREAM asks for first: the key header (R239 step 2). -/
def headerFeed (s : State) (h : Hh) (va : Nat) : Feed :=
  ⟨1, fun _ => spansOf 8 va 256, fun _ => (xlateRange s h true .read va 256).isNone⟩

end Sys2Proof.Machine
end

