-- ==== Sys2Proof/Machine/Queue.lean ====
section
/-! DEFINITION. Commands in their queues: start, NOP, SETGEO, completion, retry of held words, and the
register actions on queues, semaphores, the ring and the descriptor table (R121-R142, R151, R153). -/

namespace Sys2Proof.Machine

/-- First read of a record at the head of a compute queue, which may wait for the engine to accept it (R145, R146). -/
def firstRead (s : State) (k : Gl) (i : Site) (en : Fin 5) (x : Entry) : Nat :=
  let y := match x.phase, decode s (.cluster k en) x with
    | .queued, .good a b d => { x with opA := a, opB := b, opD := d, t0 := x.t0.map fun t => max t ((setAt s i x.hh).xsq.accept.get en) }
    | .queued, .bad _ _ => { x with t0 := x.t0.map fun t => max t ((setAt s i x.hh).xsq.accept.get en) }
    | _, _ => x
  (readSpan s i y).1
/-- No record of another compute queue, nor one that the sequencer can still issue, reads before this one: records of a
timed cluster take effect in the order of their first reads, so that each finds what earlier ones have written (R145,
R146, R148). -/
def timedFirst (s : State) (k : Gl) (i : Site) (en : Fin 5) (x : Entry) : Bool :=
  let t := setAt s i x.hh
  let t1 := firstRead s k i en x
  !xsqEarlier s k t t1 && (List.finRange 5).all fun j => j == en || decide (4 ≤ j.val) ||
    match (t.queues.get j).ents.find? fun y => y.phase != .done with
      | some y =>
        let u := firstRead s k i j y
        decide (t1 < u) || (t1 == u && (!noOperands y.cmd || noOperands x.cmd))
      | none => true

/-- PME commands that take an index tensor use a landing buffer (R149). -/
def needsLanding (r : Record) : Bool := r.opcode == 0x43 || r.opcode == 0x44

/-- Owner of a landing buffer by the deed: larder (1) or PME (2); without a LANDING section LB0 belongs to the
larder and LB1 to the PME; a buffer no entry names has no owner (R73, R74). -/
def landingOwner (s : State) (r : Rg) (b : Fin 2) : Nat := match s.deed.bind fun d => d.landing with
  | none => if b.val = 0 then 1 else 2
  | some l => match l.find? fun x => x.1 == r.val && x.2.1 == b.val with
    | some x => x.2.2
    | none => 0

/-- Free buffers of the region that the PME owns. -/
def freeLanding (s : State) (r : Rg) : List (Fin 2) :=
  (List.finRange 2).filter fun b => landingOwner s r b == 2 && ((regAt s r).landing.get b).isNone
/-- A command that has found no buffer still waits for one: it is queued in the set that its cluster runs. -/
def lbWaits (s : State) (w : Fin 34 × Hh × Nat) : Bool := match liveSet s w.1 with
  | some (i, h) => h == w.2.1 && !((setAt s i h).queues.get 2).halted &&
      ((setAt s i h).queues.get 2).ents.any fun e => e.seq == w.2.2 && e.phase == .queued
  | none => false
/-- The buffer that a command of the region takes: buffers serve commands in order of arrival, so those that have waited
before it take theirs first (R149). -/
def landingTurn (s : State) (r : Rg) (w : Fin 34 × Hh × Nat) : Option (Fin 2) :=
  (freeLanding s r)[(((regAt s r).lbWait.takeWhile (· != w)).filter (lbWaits s)).length]?
def pmeOwnsLanding (s : State) (r : Rg) : Bool := (List.finRange 2).any fun b => landingOwner s r b == 2

/-- A field of a region command names a cluster of the mask. -/
def namesPantry (s : State) (q : QueueId) (e : Entry) (f : Nat) (dest : Bool) (m : Nat) : Bool :=
  (match rawOperand s e.hh (qGeo s q e.hh) e.handle false f with
    | .ok ⟨.pantry _ _, _⟩ => true
    | _ => false) && match pantryGl q e.cmd dest with
      | some k => m.testBit k.val
      | none => false
/-- A push waits at the entry of the queue: its cluster's site is held, or its block quiesces (R340, R367). -/
def entryHeld (s : State) : QueueId → Bool
  | .cluster k _ => (siteOf s k).any (siteHeld s)
  | .mve r => quiescing s (0x40 + r.val)
  | .larder r => quiescing s (0x48 + r.val)
/-- A larder or MVE transfer waits: it names a cluster whose site is held, or its hallway segment quiesces (R340, R367,
R368). -/
def transferHeld (s : State) (q : QueueId) (e : Entry) : Bool := match q with
  | .cluster _ _ => false
  | .larder r => e.cmd.opcode == 0xC1 &&
      (quiescing s (0x40 + r.val) || (streamSubs s r e.cmd).any fun x => siteHeld s x.2.2)
  | .mve _ => e.cmd.opcode == 0xA1 && (List.finRange 34).any fun k => (siteOf s k).any (siteHeld s) &&
      (namesPantry s q e e.cmd.opa false (2 ^ k.val) || namesPantry s q e e.cmd.opd true (2 ^ k.val))

/-- The queue's next command to start, by the unit's own rule: the head of a compute queue once it is alone,
up to eight streams of an STU (R225), four slots of a larder (R238), one command of an MVE (R283); commands of
halted households, and those that wait behind a commit or a lease replacement, are not started. -/
def nextToStart (s : State) (q : QueueId) : Option Entry :=
  let es := qEnts s q
  let free (e : Entry) : Bool := !qHalted s q e.hh && !e.late && decide (s.loader.waits ≠ some e.hh)
  match q with
  | .cluster k e =>
    match liveSet s k with
    | none => none
    | some (i, h) =>
      if (siteAt s i).inReset || (siteAt s i).pn.zeroBusy || stopping s k then none
      else if e.val < 4 then
        match es with
        | x :: _ =>
          let okT := match x.t0 with
            | some _ => timedFirst s k i e x
            | none => true
          let thawed := !frozenFor s i e.val
          if x.phase == .queued && free x && okT && thawed && (decide (e.val ≠ 1) || (setAt s i h).roots) then some x
          else none
        | [] => none
      else match es.find? fun x => x.phase == .queued with
        | some x => if free x && decide ((es.filter fun y => y.phase != .queued).length < 8) &&
            !(es.any fun y => y.phase == .suspended || y.phase == .faulted || (y.phase == .running && y.cmd.op == 31)) then
            some x else none
        | none => none
  | .larder r =>
    if (regAt s r).inReset || s.pw.role == .deposed || quiescing s (0x48 + r.val) ||
        (es.any fun y => y.phase == .running && y.cmd.op == 31) then none
    else match es.find? fun x => x.phase == .queued && !qHalted s q x.hh with
      | some x =>
        let slots := (es.filter fun y => y.phase != .queued && !noOperands y.cmd).length
        if free x && !transferHeld s q x && (noOperands x.cmd || decide (slots < 4)) then some x else none
      | none => none
  | .mve r =>
    if (regAt s r).inReset || s.pw.role == .deposed || quiescing s (0x40 + r.val) then none
    else if es.any fun y => y.phase == .running || y.phase == .done || y.phase == .faulted then none
    else match es.find? fun x => (x.phase == .queued || x.phase == .resumed) && !qHalted s q x.hh with
      | some x => if (x.phase == .resumed || free x) && !transferHeld s q x then some x else none
      | none => none

/-- The semaphore that the queue's next command takes if it starts now, with its household. -/
def semTaker (s : State) (q : QueueId) : Option (Gl × Fin 16 × Hh) := match nextToStart s q with
  | none => none
  | some e =>
    if e.phase == .queued && hasWait e && e.cmd.waitEn && !e.cmd.credit && row1 s q e && row2 s q e && (takeWait s q e).isSome then
      some (waitGl q e.cmd.wait, ⟨e.cmd.wait % 16, by omega⟩, e.hh) else none
/-- Queues of lower engine code that wait on semaphores of the same cluster (R135). -/
def lowerQueues (k : Gl) (q : QueueId) : List QueueId :=
  ((List.finRange 5).filter fun e => decide (e.val < qEng q)).map (QueueId.cluster k) ++
    if qEng q = 6 ∧ k.val < 32 then [.mve (regionOf k)] else []
/-- Of several commands that can take a semaphore, the one of the lowest engine code takes it (R135). -/
def semYields (s : State) (q : QueueId) (e : Entry) : Bool := match semTaker s q with
  | some x => (lowerQueues x.1 q).any fun p => semTaker s p == some x
  | none => false

/-- A pantry operand of a region command waits until the pool runs its household's quantum (R287). -/
def poolWaits (s : State) (q : QueueId) (e : Entry) (o : Opnd) (dest : Bool) : Bool := match o, q with
  | .pantry _ _, .mve _ => match pantryGl q e.cmd dest with
    | some k => holdsPool s e.hh k && !holdsExcl s e.hh k && (match siteOf s k with
        | some i => decide ((siteAt s i).served ≠ some e.hh)
        | none => false)
    | none => false
  | _, _ => false

/-- Operands and times of a started entry; produced tokens take their times (R145, R148). -/
def startTimed (s : State) (q : QueueId) (e : Entry) : State := match q, e.t0 with
  | .cluster k en, some t0 => match siteOf s k with
    | none => s
    | some i =>
      let x := (setAt s i e.hh).xsq
      let t1 := max t0 (x.accept.get en)
      let e := { e with t0 := some t1 }
      let occ := occOf (log2nOf s e.hh) e.cmd e.opA e.opB e.opD
      let s := upEntry s q e.hh e.seq fun y => { y with t0 := some t1 }
      let adv := (e.checks.filter fun c => c.produce).map fun c => (tokenTime s i e, c.token, false)
      upSet s i e.hh fun t => { t with xsq := { t.xsq with
        accept := t.xsq.accept.set en.val (acceptAt t1 occ e.cmd e.opB) en.isLt
        adv := t.xsq.adv ++ adv } }
  | _, _ => s

/-- Registers that show a command of the NTE or VXE from its start (R200, R221): none of its limbs is done and the first is in
progress; its program slot. -/
def startRegs (s : State) (q : QueueId) (e : Entry) : State := match qSite s q with
  | none => s
  | some i => match e.cmd.opcode with
    | 0x21 | 0x22 => upSite s i fun c => { c with nt := { c.nt with limbsDone := 0, chainPos := bits e.cmd.mod 24 7 } }
    | 0x23 | 0x24 => upSite s i fun c => { c with nt := { c.nt with limbsDone := 0, chainPos := 0 } }
    | 0x61 | 0x62 => upSite s i fun c => { c with vx := { c.vx with slot := bits e.cmd.mod 16 4 } }
    | 0x63 => upSite s i fun c => { c with vx := { c.vx with slot := bits e.cmd.mod 0 4 } }
    | _ => s
/-- An MM or KEYIP outside timed mode starts: it ends a ramp-down at once and ramps up from the step that was running, from
step 0 when the array was at rest (R174). -/
def rampStart (s : State) (q : QueueId) (e : Entry) : State := match q, qSite s q with
  | .cluster _ en, some i =>
    if en.val == 0 && (e.cmd.opcode == 1 || e.cmd.opcode == 3) && modeOf s e.hh != 2 then upSite s i fun c => { c with mx :=
      if c.mx.rampDown || !c.mx.active then { c.mx with rampUp := true, rampDown := false, rampNow := c.mx.ramp } else c.mx }
    else s
  | _, _ => s

/- Streams and larder slots of started commands (R223-R228, R237). -/

/-- The stream of a command that starts and whose operand cases pass: a LOAD or COPY asks for its cellar source, a STREAM for
the key header; a STORE or COPY asks to write its cellar destination (R132, R223, R239, R283). -/
def openStream (s : State) (q : QueueId) (e : Entry) : State :=
  let reads (s : State) : State := match e.opA with
    | .cellar t sb => putStream s q e false (tensorFeed s e.hh .read t sb)
    | _ => s
  let writes (s : State) : State := match e.opD with
    | .cellar t sb => putStream s q e true (tensorFeed s e.hh .write t sb)
    | _ => s
  match e.cmd.opcode, q with
  | 0x81, .cluster k _ => match (siteOf s k).map fun i => loadCase s i e with
    | some (.ok _) => reads s
    | _ => s
  | 0x82, _ => match storeCase e with
    | .ok _ => writes s
    | .error _ => s
  | 0xA1, _ => match sideOf s q e.cmd e.opA false, sideOf s q e.cmd e.opD true with
    | some a, some d => if (copyCase s q e a d).isNone then writes (reads s) else s
    | _, _ => s
  | 0xC1, .larder r => match streamForm s r e with
    | .ok (_, va, _, _) => putStream s q e false (headerFeed s e.hh va)
    | .error _ => s
  | _, _ => s

/-- A STREAM or PREX takes the lowest free slot; every block of a STREAM's range is still to be written (R237, R239, R255). -/
def takeSlot (s : State) (r : Rg) (e : Entry) : State :=
  let blocks : Nat := match e.cmd.opcode, e.opD with
    | 0xC1, .pantry d _ => if wholeRange d then elemCount d / 1024 else 0
    | _, _ => 0
  if e.cmd.opcode ≠ 0xC1 ∧ e.cmd.opcode ≠ 0xC2 then s
  else match findFin 4 fun j => !((regAt s r).ld.slots.get j).active with
    | none => s
    | some j => upReg s r fun g => { g with ld := { g.ld with
        slots := g.ld.slots.set j.val ⟨true, e.hh.val, if e.cmd.opcode = 0xC1 then bits e.cmd.mod 28 4 else 0, 0, blocks, e.seq⟩ j.isLt } }

/-- Pages of the household that an operand reaches. -/
def opPages (o : Opnd) : List Nat := match o with
  | .cellar t sb => ((List.range (rowCount t)).flatMap fun r => pagesOf (rowAddr t r) (rowBytes t)) ++ [sb % 2 ^ 64]
  | .desc va => [va % 2 ^ 64]
  | _ => []
/-- Page of the descriptor-table entry that a field names in handle mode (R130). -/
def entryPages (s : State) (e : Entry) : List Nat :=
  [e.cmd.opa, e.cmd.opb, e.cmd.opd].filterMap fun f =>
    if e.handle && bits f 61 3 == 3 then some (((hhAt s e.hh).cmd.dtBase + 32 * bits f 0 16) % 2 ^ 64) else none
/-- The unit of a queue translates a command's operands; the descriptor-table entries have their own cache (R309). -/
def cacheOps (s : State) (q : QueueId) (e : Entry) : State :=
  let unit := match q with
    | .cluster k en => tlbUnit (if en.val = 4 then 2 else 9) k.val
    | .larder r => tlbUnit 3 r.val
    | .mve r => tlbUnit 4 r.val
  let once (ps : List Nat) : List Nat := ps.foldl (fun l p => if l.any fun x => x / 65536 == p / 65536 then l else l ++ [p]) []
  cachePages (cachePages s e.hh (tlbUnit 5 0) (once (entryPages s e))) e.hh unit
    (once (opPages e.opA ++ opPages e.opB ++ opPages e.opD))

/-- COMMAND_START (R122, R132-R135, R149, R234, R235): the waits are met, the semaphore or credit is taken and
the command is decoded; it then runs, or is over with the status of its decode. -/
def startOp (s : State) (q : QueueId) : State :=
  match nextToStart s q with
  | none => s
  | some e =>
    if e.phase == .resumed then upEntry s q e.hh e.seq fun x => { x with phase := .running }
    else match if semYields s q e then none else takeWait s q e with
    | none => s
    | some s1 =>
      match decode s1 q e with
      | .bad st va =>
        let s2 := match va with
          | some a => if st == stCellar then noteUeVa s1 e.hh true .read a else recordFault s1 e.hh 5 st a
          | none => s1
        let s2 := if st == stEngAbsent then errBell (match e.core with
          | some r => noteReject s2 r st e.hh.val
          | none => s2) e.hh else s2
        let s2 := tickFresh (upEntry s2 q e.hh e.seq fun x => { x with phase := .done, status := st, summary := summaryAt x st })
        thaw s2 q
      | .good a b d =>
        let e := { e with opA := a, opB := b, opD := d, phase := .running }
        let run (s : State) : State := thaw (tickFresh (startRegs (rampStart (startTimed (upEntry (cacheOps s q e) q e.hh e.seq fun _ => e) q e) q e) q e)) q
        if noOperands e.cmd then run s1
        else match q with
        | .cluster k en =>
          match siteOf s k with
          | none => s
          | some _ =>
            if en.val ≤ 3 then
              if needsLanding e.cmd && pmeOwnsLanding s (regionOf k) then
                let w := (k, e.hh, e.seq)
                match landingTurn s (regionOf k) w with
                | none => upReg (stallOf s q e.hh .landingBusy) (regionOf k) fun g => { g with
                    lbWait := if g.lbWait.contains w then g.lbWait else g.lbWait.filter (lbWaits s) ++ [w] }
                | some lb => run (upReg s1 (regionOf k) fun g => { g with
                    landing := g.landing.set lb.val (some k) lb.isLt, lbWait := g.lbWait.filter (· != w) })
              else run s1
            else openStream (run s1) q e
        | .mve _ => if poolWaits s q e a false || poolWaits s q e d true then s else openStream (run s1) q e
        | .larder r => openStream (takeSlot (run s1) r e) q e

def execCommandStart (q : QueueId) (s : State) : Out := .next (startOp s q)

/-- The checks bound to a timed record are compared at its first read (R148); a mismatch ends it. None when
the record may go on. -/
def checkFails (s : State) (i : Site) (e : Entry) : Bool := e.t0.isSome && !checksPass s i e

/-- NOP reads and writes no operand (R121). -/
def execNop (q : QueueId) (s : State) : Out := .next <|
  match (qEnts s q).find? fun e => e.phase == .running && e.cmd.op == 0 with
  | none => s
  | some e =>
    match qSite s q with
    | some i => endEntry s q e (if checkFails s i e then stSched else stOk) 0 0
    | none => endEntry s q e stOk 0 0

/-- The slot a SETGEO gives, none when R125 refuses it. -/
def setgeoValue (r : Record) : Option Geo :=
  let es := bits r.opa 0 2
  let inner := bits r.opa 38 18
  let s1 := sext 32 (bits r.opb 0 32)
  let s2 := sext 32 (bits r.opd 0 32)
  let so := sext 32 (bits r.opb 32 32)
  let e : Nat := 2 ^ es
  if r.mod = 0 || r.mod ≥ 16 || es = 3 || inner = 0 || inner > 131072 || decide (s1 % (e : Int) ≠ 0) ||
      decide (s2 % (e : Int) ≠ 0) || decide (so % 4 ≠ 0) || decide (bits r.opa 56 8 ≠ 0) ||
      decide (bits r.opa 2 14 ≠ 0) || decide (bits r.opd 32 32 ≠ 0) then none
  else some ⟨false, es, inner, bits r.opa 26 12 + 1, bits r.opa 16 10 + 1, s1, s2, so⟩

/-- A geometry slot of a queue for a household. -/
def setGeoSlot (s : State) (q : QueueId) (h : Hh) (n : Fin 16) (g : Geo) : State := match q with
  | .cluster k e => match siteOf s k with
    | some i => upSet s i h fun t => { t with geo := vmod t.geo e fun v => v.set n.val g n.isLt }
    | none => s
  | .mve r => upReg s r fun x => { x with mve := { x.mve with geo := vmod x.mve.geo h fun v => v.set n.val g n.isLt } }
  | .larder r => upReg s r fun x => { x with larder := { x.larder with geo := vmod x.larder.geo h fun v => v.set n.val g n.isLt } }

/-- SETGEO sets a slot for every later command of its queue, or leaves it (R125). -/
def execSetgeo (q : QueueId) (s : State) : Out := .next <|
  match (qEnts s q).find? fun e => e.phase == .running && e.cmd.op == 31 with
  | none => s
  | some e =>
    let bad := match qSite s q with
      | some i => checkFails s i e
      | none => false
    if bad then endEntry s q e stSched 0 0
    else match setgeoValue e.cmd, fin? 16 e.cmd.mod with
      | some g, some n => endEntry (setGeoSlot s q e.hh n g) q e stOk 0 0
      | _, _ => endEntry s q e stRange 0 0


/-- Retry of held words (R139), every 100 µs and after each completed invalidation. -/
def execRingWriteRetry (h : Hh) (s : State) : Out := .next (ringDrain s h)

/- Register actions. -/

/-- Landing buffers that this cluster's PME command holds become free (R149). -/
def freeLandingOf (s : State) (k : Gl) : State :=
  upReg s (regionOf k) fun g => { g with landing := g.landing.map fun o => if o == some k then none else o }

/-- Queues on which CL_QCTL acts: the one ENGINE names, in timed mode every compute queue (R137, R151). -/
def qctlQueues (s : State) (k : Gl) (h : Hh) (e : Nat) : List QueueId :=
  match fin? 5 e with
  | none => []
  | some en =>
    if modeOf s h == 2 then (List.finRange 5).filterMap fun j =>
      if j.val < 4 || j == en then some (QueueId.cluster k j) else none
    else [.cluster k en]

/-- RESUME or FLUSH written to CL_QCTL; ENGINE keeps the value written (R151). -/
def clQctl (s : State) (k : Gl) (e : Nat) (flush : Bool) : State :=
  match liveSet s k with
  | none => s
  | some (i, h) =>
    let s := upSite s i fun c => { c with qctl := e }
    if e ≥ 5 then s else
    let s := (qctlQueues s k h e).foldl (fun t q => if flush then flushQueue t q h else resumeQueue t q h) s
    let s := settleFreeze s i h
    if (qEnts s (.cluster k 2)).any fun x => x.phase != .queued && needsLanding x.cmd then s else freeLandingOf s k

/-- A software write of a semaphore: the count stands and a hardware change of the same ACLK follows (R136).
`hw`: some true for an increment, some false for a decrement in that ACLK. OVF is a W1C flag. -/
def semWrite (x : Sem) (v : Nat) (hw : Option Bool) : Sem :=
  let ovf := x.ovf && !v.testBit 16
  let c := v % 65536
  match hw with
  | none => ⟨c, ovf⟩
  | some true => if c = 0xFFFF then ⟨0xFFFF, true⟩ else ⟨c + 1, ovf⟩
  | some false => ⟨c - 1, ovf⟩

def clSemOp (s : State) (k : Gl) (n : Fin 16) (v : Nat) (hw : Option Bool) : State :=
  match liveSet s k with
  | none => s
  | some (i, h) =>
    let old := (setAt s i h).sems.get n
    let lost := v.testBit 16 && old.ovf && hw == some true && decide (v % 65536 = 0xFFFF)
    let s := upSet s i h fun t => { t with sems := vmod t.sems n fun x => semWrite x v hw }
    upSite s i fun c => { c with lost := vmod c.lost 0 fun x => lostInc x lost }

/-- A write of HH_DT_VALID_w: bits that change to 1 take the entry as it now stands (R131). -/
def dtValidOp (s : State) (h : Hh) (w : Fin 64) (v : Nat) : State :=
  let old := (hhAt s h).cmd.dtValid.get w
  let v := v % 2 ^ 64
  let base := (hhAt s h).cmd.dtBase
  let fresh := (List.range 64).filter fun b => v.testBit b && !old.testBit b
  let snaps := fresh.filterMap fun b => match hRead s h true .read (base + 32 * (64 * w.val + b)) 32 with
    | .ok bs => some (64 * w.val + b, bs)
    | .error _ => none
  upCmd s h fun c => { c with
    dtValid := c.dtValid.set w.val v w.isLt
    dtSnap := snaps ++ c.dtSnap.filter fun e => decide (e.1 / 64 ≠ w.val) || (v.testBit (e.1 % 64) && old.testBit (e.1 % 64)) }

/-- A write of HH_CQ_BASE (R139, R153). -/
def cqBaseOp (s : State) (h : Hh) (v : Nat) : State :=
  let en := v.testBit 7
  upCmd s h fun c => { c with
    cqBase := bits v 12 36 * 4096
    cqLog2 := if 6 ≤ v % 32 && v % 32 ≤ 16 then v % 32 else c.cqLog2
    cqEnable := en
    cqHead := if en && !c.cqEnable then 0 else c.cqHead
    cqTail := if en && !c.cqEnable then 0 else c.cqTail
    cqWait := if c.cqEnable && !en then [] else c.cqWait
    cqFault := if c.cqEnable && !en then false else c.cqFault }

end Sys2Proof.Machine
end

