-- ==== Sys2Proof/Machine/Mxa.lean ====
section
/-! DEFINITION. The modular matrix array: MM, MODSET, KEYIP, ACCZ, ACCST and the ramp (R154-R182). -/

namespace Sys2Proof.Machine

/-- A row of a cluster engine acts on the running command of its opcode; a record whose bound check fails ends
with SCHEDULE_TAG (R148). -/
def engineRow (s : State) (k : Gl) (en : Fin 5) (opcode : Nat) (f : Site → Entry → State → State) : State :=
  match liveSet s k with
  | none => s
  | some (i, _) =>
    if (siteAt s i).inReset || frozenFor s i en.val || (switching s k && preempted en.val opcode) then s
    else match runningEntry s (.cluster k en) opcode with
    | none => s
    | some e =>
      if checkFails s i e then endEntry s (.cluster k en) e stSched 0 0
      else tickFresh (f i e s)

/-- The command ends with OK; its reads count for the key windows (R233). -/
def endOk (s : State) (q : QueueId) (i : Site) (e : Entry) (reads : List (Nat × Nat)) : State :=
  endEntry (upSet s i e.hh fun t => noteReads t reads) q e stOk 0 0
/-- The command ends with a status and no offset. -/
def endBad (s : State) (q : QueueId) (e : Entry) (st : Nat) : State := endEntry s q e st 0 0

/-- Entry number of column j of vector v in a line layout (R160). -/
def accEntry (base lpv v j : Nat) : Nat := (base + lpv * v + j / 128) * 128 + j % 128
/-- Width, cell depth and lines per vector of a shape (R154). -/
def shapeWidth (sh : Nat) : Nat := 128 * 2 ^ sh
def shapeLpv (sh : Nat) : Nat := 2 ^ sh
/-- MPC of a format (R164). -/
def mpcOf (fm : Nat) : Nat := match fm with
  | 0 => 1
  | 4 => 2
  | 5 => 8
  | _ => 4
def shapeDepth (sh fm : Nat) : Nat := 128 / 2 ^ sh * mpcOf fm
/-- Element size of the operands of a format (R164). -/
def fmtSize (fm : Nat) : Nat := match fm with
  | 0 => 4
  | 4 => 2
  | _ => 1

/-- The modulus set a command names. -/
def msetOf (s : State) (i : Site) (h : Hh) (mod : Nat) : MSet :=
  (setAt s i h).msets.get ⟨bits mod 22 3, by unfold bits; omega⟩
/-- Prime of an identifier under the household's chain, 1 when it names none. -/
def idPrime (l : Lease) (id : Nat) : Nat := (primeOfId l id).getD 1
def colMods (l : Lease) (m : MSet) (w : Nat) : List Nat := (List.range w).map fun j => idPrime l (m.cols.getD j 0xFF)
def rowMods (l : Lease) (m : MSet) (d : Nat) : List Nat := (List.range d).map fun j => idPrime l (m.rows.getD j 0xFF)
/-- A position below n holds 0xFF. -/
def hasUnused (ids : List Nat) (n : Nat) : Bool := (ids.take n).any fun x => x == 0xFF

/-- Value at (row, column) of a list of rows. -/
def at2 (m : List (List Nat)) (r c : Nat) : Nat := (m.getD r []).getD c 0

/-- A signed number from a word of w bits. -/
def signedOf (w v : Nat) : Int := sext w v

/-- Rows of one-bit planes: element i0 of row i1 of a bit-plane tensor as a signed number of b bits (R30, R31). -/
def planeRead (v : PView) (t : Tensor) (b : Nat) : List (List Int) :=
  (List.range t.c1).map fun i1 =>
    let planes := (List.range b).map fun p => spRead 0 v.bytes (rowAddr t (i1 + t.c1 * p)) (cdiv t.inner 8)
    (List.range t.inner).map fun i0 =>
      sext b ((planes.zip (List.range b)).foldl (fun a e =>
        a + b2n ((e.1.getD (i0 / 8) 0).toNat.testBit (i0 % 8)) * 2 ^ e.2) 0)

/-- Sum over a balanced binary tree in index order, of 2^n leaves (R167). -/
def treeSum : Nat → List Nat → Nat
  | 0, xs => xs.headD 0
  | n + 1, xs => f32Add (treeSum n (xs.take (2 ^ n))) (treeSum n (xs.drop (2 ^ n)))

/-- BF16 product in FP32 (R167). -/
def bfMul (a b : Nat) : Nat := (fMul fp32 (fDecode bf16 (flushSub bf16 a)) (fDecode bf16 (flushSub bf16 b))).getD canonNan

/-- Value at (row, column) of rows of signed numbers. -/
def atI (m : List (List Int)) (r c : Nat) : Int := (m.getD r []).getD c 0

/-- One pass of the array: inputs x by element row and vector and weights w by element row and column as the cells receive
them, the raw column sums by column and vector, the result that a raw sum gives at a column and vector, and the vectors
that a non-finite operand reaches (R158, R165-R169). -/
structure Pass where
  x : List (List Int)
  w : List (List Int)
  raw : List (List Int)
  value : Nat → Nat → Int → Nat
  nonfinite : Nat → Bool

/-- Result of column j for vector v of a pass that nothing disturbs. -/
def Pass.sum (p : Pass) (j v : Nat) : Nat := p.value j v (atI p.raw j v)

/-- Raw sums of d element rows: wn columns, vn vectors. -/
def colSums (x w : List (List Int)) (d vn wn : Nat) : List (List Int) :=
  (List.range wn).map fun j => (List.range vn).map fun v => ((List.range d).map fun i => atI x i v * atI w i j).sum

/-- Modular pass: x_r mod r_i times weights mod m_j, exact (R158). -/
def passMod (x w : List (List Nat)) (d vn wn : Nat) (rm cm : List Nat) : Pass :=
  let xi := (List.range d).map fun i => (List.range vn).map fun v => ((at2 x i v % rm.getD i 1 : Nat) : Int)
  let wi := (List.range d).map fun i => (List.range wn).map fun j => ((at2 w i j % cm.getD j 1 : Nat) : Int)
  ⟨xi, wi, colSums xi wi d vn wn, fun _ _ s => wrapTo 80 s, fun _ => false⟩
/-- Integer pass on signed inputs and weights, modulo 2^80 (R160, R165). -/
def passInt (x w : List (List Int)) (d vn wn : Nat) : Pass :=
  ⟨x, w, colSums x w d vn wn, fun _ _ s => wrapTo 80 s, fun _ => false⟩
/-- FP8 pass: exact fixed point with non-finite operands as zero, then FP32; NaN in every column that one reaches (R166). -/
def passFp8 (conv : Nat → Option Int) (unit : Int) (x w : List (List Nat)) (d vn wn : Nat) : Pass :=
  let xo := x.map fun r => r.map conv
  let wo := w.map fun r => r.map conv
  let num (m : List (List (Option Int))) : List (List Int) := m.map fun r => r.map fun o => o.getD 0
  let xbad (v : Nat) : Bool := (List.range d).any fun i => ((xo.getD i []).getD v (some 0)).isNone
  let wbad (j : Nat) : Bool := (List.range d).any fun i => ((wo.getD i []).getD j (some 0)).isNone
  ⟨num xo, num wo, colSums (num xo) (num wo) d vn wn,
    fun j v s => if xbad v || wbad j then canonNan else fRoundInt fp32 false s (2 * unit),
    fun v => xbad v || (List.range wn).any wbad⟩
/-- BF16 pass over the tree of the shape's depth (R167); its raw sums are FP32 words. -/
def passBf (x w : List (List Nat)) (d vn wn depthLog : Nat) : Pass :=
  ⟨[], [], (List.range wn).map fun j => (List.range vn).map fun v =>
    ((treeSum depthLog ((List.range (2 ^ depthLog)).map fun i => if i < d then bfMul (at2 x i v) (at2 w i j) else 0) : Nat) : Int),
    fun _ _ s => wrapTo 32 s, fun _ => false⟩

/- Exact checking (R168-R173). -/

/-- Checksum groups of a shape, and the cells of a checksum column stack: 512 cells in all (R168). -/
def ckGroups (sh : Nat) : Nat := 2 ^ sh
def ckCells (sh : Nat) : Nat := 512 / 4 / ckGroups sh
/-- Output columns that group g guards, 128g to 128g + 127, as far as the weight block has them: the others are zero. -/
def guarded (g wn : Nat) : List Nat := (List.range wn).filter fun j => j / 128 == g
/-- ck[g][i]: the sum of the weights of element row i over the columns of group g, as the cells receive them (R169). -/
def ckRow (w : List (List Int)) (g wn i : Nat) : Int := ((guarded g wn).map fun j => atI w i j).sum
/-- The checksum column of group g, which the loader forms while the weight block loads (R155, R169). -/
def ckColumn (w : List (List Int)) (g wn d : Nat) : List Int := (List.range d).map (ckRow w g wn)
/-- By how much the sum of column j at position v is off. -/
def faultAt (fs : List SumFault) (v j : Nat) : Int := ((fs.filter fun f => f.pos == v && f.col == j).map fun f => f.off).sum
/-- Raw sum of column j for vector v as the array delivers it. -/
def rawSum (p : Pass) (fs : List SumFault) (j v : Nat) : Int := atI p.raw j v + faultAt fs v j
/-- Sum of the 128 raw column sums of group g at vector v: padded columns give zero, unless they are disturbed (R156, R169). -/
def groupSum (p : Pass) (fs : List SumFault) (g wn v : Nat) : Int :=
  ((guarded g wn).map fun j => atI p.raw j v).sum + ((fs.filter fun f => f.pos == v && f.col / 128 == g).map fun f => f.off).sum
/-- The first group whose raw column sums and checksum column disagree at vector v, each comparison exact (R169). -/
def groupMismatch (p : Pass) (cks : List (List Int)) (fs : List SumFault) (d wn v : Nat) : Option Nat :=
  (List.range cks.length).find? fun g =>
    groupSum p fs g wn v != ((List.range d).map fun i => atI p.x i v * (cks.getD g []).getD i 0).sum
/-- Two copies of a value differ: in BF16 a column's result for vector v (R171). -/
def copyMismatch (fs : List SumFault) (width v : Nat) : Option Nat :=
  if (List.range width).any fun j => faultAt fs v j != 0 then some 0 else none

/-- Why a command stops short at a position: a source block that does not verify, a mismatch in a group, an
uncorrectable accumulator entry. -/
inductive ArrayStop where
  | badSeal
  | mismatch (group : Nat)
  | entry
deriving DecidableEq, Repr

/-- The first stop among the positions from `lo` to n − 1; a position's blocks are verified before its comparison, and
that comes before the add (R170). -/
def firstStop (n : Nat) (mism : Nat → Option Nat) (badSeal entry : Option Nat) (lo : Nat) : Option (Nat × ArrayStop) :=
  (List.range (n - lo)).findSome? fun x =>
    if badSeal == some (lo + x) then some (lo + x, .badSeal)
    else match mism (lo + x) with
      | some g => some (lo + x, .mismatch g)
      | none => if entry == some (lo + x) then some (lo + x, .entry) else none

/-- How the positions of a command went: those passed, why it stopped short, and the mismatch that was retried. -/
structure Checked where
  limit : Nat
  stop : Option ArrayStop
  retried : Option (Nat × Nat)
deriving DecidableEq, Repr

/-- The first mismatch is retried from `restart` on, with disturbances of its own; any further one is final (R172, R173). -/
def arrayRun (n : Nat) (first again : Nat → Option Nat) (restart : Nat → Nat) (badSeal entry : Option Nat) : Checked :=
  match firstStop n first badSeal entry 0 with
  | none => ⟨n, none, none⟩
  | some (v, .mismatch g) => match firstStop n again badSeal entry (restart v) with
    | none => ⟨n, none, some (v, g)⟩
    | some (x, t) => ⟨x, some t, some (v, g)⟩
  | some (v, t) => ⟨v, some t, none⟩
/-- Disturbances that the delivered result of a position met: those of the retry from where it began. -/
def metFaults (u : ArrayUpset) (c : Checked) (restart : Nat → Nat) (v : Nat) : List SumFault := match c.retried with
  | some (p, _) => if restart p ≤ v then u.again else u.first
  | none => u.first

/-- The entry or value after the add of accumulate mode (R160, R166, R167). -/
def accAdd (fm old new : Nat) : Nat := match fm with
  | 0 => (old + new) % 2 ^ 80
  | 1 => (old + new) % 2 ^ 80
  | 5 => (old + new) % 2 ^ 80
  | _ => f32Add (old % 2 ^ 32) new
/-- A delivered value as it goes to the pantry (R163). -/
def accConvert (fm v m : Nat) : Nat := match fm with
  | 0 => v % (if m = 0 then 1 else m)
  | 1 => satInt 32 (sext 80 v)
  | 5 => satInt 32 (sext 80 v)
  | _ => v % 2 ^ 32

/-- An accumulator entry is written and its line counts as written (R331). -/
def accSet (c : SiteSt) (n v : Nat) : SiteSt := { c with acc := spSet 0 c.acc n v, accLines := insNat c.accLines (n / 128) }
/-- A timed record keeps what an entry holds before its result comes (R146, R161). -/
def accKeep (c : SiteSt) (span : Option (Nat × Nat)) (n : Nat) : SiteSt := match span with
  | some t => { c with accFly := ⟨t.1, t.2, n, spGet 0 c.acc n⟩ :: c.accFly }
  | none => c
/-- Entries are written in order. -/
def accWrite (c : SiteSt) (span : Option (Nat × Nat)) (es : List (Nat × Nat)) : SiteSt :=
  es.foldl (fun c e => accSet (accKeep c span e.1) e.1 e.2) c

/-- Registers, log and wait after the array checks of an MM or KEYIP of n positions (R162, R172, R173, R182). A retry costs
32 ACLK and those of the positions from its start on; how long one that ends early takes is open (log 7). -/
def abftNote (s : State) (k : Gl) (i : Site) (e : Entry) (c : Checked) (n : Nat) (restart : Nat → Nat) : State :=
  let failed := match c.stop with
    | some .badSeal | none => false
    | some _ => true
  let s := match c.retried with
    | none => s
    | some (v, g) =>
      let last := match c.stop with
        | some (.mismatch x) => (c.limit, x)
        | _ => (v, g)
      let s := logRetry (evMx s i fun m => { m with
        retries := satInc 16 m.retries, lastSeq := e.seq, lastGroup := last.2, retryPassed := c.stop.isNone,
        lastPos := last.1 % 65536, evRetry := true }) k i e.hh
      stallUnits s i (waitUnits s e.hh 0) scFault (if c.stop.isNone then 32 + (n - restart v) else freeWait s)
  if failed then evMx s i fun m => { m with fails := satInc 16 m.fails, evFail := true } else s

/-- Corrected bits are counted (R162). -/
def accCorrected (s : State) (i : Site) (n : Nat) : State :=
  if n = 0 then s else evMx s i fun m => { m with accCorrected := satAdd 16 m.accCorrected n, evAccCorr := true }
/-- The faults of entries read in add mode, by the position that reads the entry; none in another mode. -/
def addFaults (mod : Nat) (u : ArrayUpset) (posOf : Nat → Option Nat) : List (Nat × Bool) :=
  if bits mod 25 2 = 1 then u.entries.filterMap fun f => (posOf f.elem).map fun p => (p, f.bad) else []
/-- The first position that meets an uncorrectable entry. -/
def firstBad (fs : List (Nat × Bool)) : Option Nat := match (fs.filter fun f => f.2).map fun f => f.1 with
  | [] => none
  | p :: ps => some (ps.foldl min p)
/-- Corrected entries at positions before `limit`. -/
def corrections (fs : List (Nat × Bool)) (limit : Nat) : Nat := (fs.filter fun f => !f.2 && decide (f.1 < limit)).length

/- The activity ramp (R174, R175). -/

/-- ACLK of a ramp step in which vectors go out. -/
def rampIssue (ramp step : Nat) : Nat := cdiv ((step + 1) * ramp) 64
/-- A ramp-up that goes on at a step with n vectors to stream: the ACLK in which a vector is held back, and the step in
which the last goes out, none when the array has reached full activity. -/
def rampRun (ramp : Nat) : Nat → Nat → Nat → Nat × Option Nat
  | 0, _, _ => (0, none)
  | fuel + 1, step, n =>
    if step ≥ 8 then (0, none)
    else if n ≤ rampIssue ramp step then (0, some step)
    else
      let r := rampRun ramp fuel (step + 1) (n - rampIssue ramp step)
      (ramp / 8 - rampIssue ramp step + r.1, r.2)
/-- An MM or KEYIP that is ready: in execution, or queued with its wait met. -/
def arrayReady (s : State) (k : Gl) (i : Site) (h : Hh) (but : Option Nat) : Bool :=
  ((setAt s i h).queues.get 0).ents.any fun x => (x.cmd.opcode == 1 || x.cmd.opcode == 3) && some x.seq != but &&
    (x.phase == .running || (x.phase == .queued && (takeWait s (.cluster k 0) x).isSome))
/-- A command that ends without streaming leaves the ramp as it was, or on its way down. -/
def rampCancel (s : State) (i : Site) : State := upSite s i fun c => { c with mx :=
  if c.mx.rampUp then { c.mx with rampUp := false, rampDown := c.mx.step != 0 } else c.mx }
/-- A command streams n vectors through the cells: outside timed mode it ramps up, counted under POWER_RAMP, and the
ramp-down begins behind it when no other command is ready (R174, R175). -/
def arrayStream (s : State) (k : Gl) (i : Site) (e : Entry) (n : Nat) (f : MxRegs → MxRegs) : State :=
  let s := upSite s i fun c => { c with mx := f c.mx }
  if modeOf s e.hh == 2 then s
  else
    let m := (siteAt s i).mx
    let r := rampRun m.rampNow 9 m.step n
    let s := if m.rampUp then stallUnits s i [0] scRamp r.1 else s
    let m := if m.rampUp then { m with step := r.2.getD 7, rampUp := r.2.isSome } else m
    upSite s i fun c => { c with mx := if arrayReady s k i e.hh (some e.seq) then m else { m with rampUp := false, rampDown := true, rampNow := m.ramp } }

/-- MM modifier fields (R177). -/
def mmOk (mod : Nat) : Bool :=
  decide (bits mod 30 2 ≠ 3) && decide (bits mod 27 3 ≤ 5) && decide (bits mod 25 2 ≠ 3) &&
    (decide (bits mod 27 3 = 0) || decide (bits mod 22 3 = 0)) && decide (bits mod 0 22 = 0)

/-- Cases 1 to 8 of the table "MM operand cases" (R178): a status, or the tensors of A and B. -/
def mmCase (s : State) (i : Site) (e : Entry) : Except Nat (Tensor × Tensor) :=
  let mod := e.cmd.mod
  let sh := bits mod 30 2
  let fm := bits mod 27 3
  let dest := bits mod 25 2
  if !mmOk mod then .error stRange
  else match e.opA, e.opB with
    | .pantry a _, .pantry b _ =>
      let dform := match e.opD with
        | .pantry _ _ => decide (dest = 2)
        | .imm v => decide (dest ≠ 2) && decide (v < 4096)
        | _ => false
      if !dform then .error stRange
      else
        let lineBad := match e.opD with
          | .imm v => decide (v + shapeLpv sh * a.inner > 4096)
          | _ => false
        if lineBad then .error stRange
        else
          let m := msetOf s i e.hh mod
          if fm = 0 && (!m.valid || hasUnused m.cols b.inner || hasUnused m.rows (rowCount a)) then .error stRange
          else
            let d := if fm = 5 then a.c1 else rowCount a
            let okA := a.e == fmtSize fm && a.inner ≤ 4096 && d ≤ shapeDepth sh fm && (fm ≠ 5 || a.c2 == 4)
            let okB := b.e == fmtSize fm && b.inner ≤ shapeWidth sh && b.c1 == d && b.c2 == (if fm = 5 then 4 else 1)
            let okD := match e.opD with
              | .pantry t _ => t.e == 4 && t.inner == a.inner && rowCount t == b.inner
              | _ => true
            if okA && okB && okD then .ok (a, b) else .error stShape
    | _, _ => .error stRange

/-- log2 of the element depth in BF16: 256, 128, 64. -/
def bfDepthLog (sh : Nat) : Nat := 8 - sh

/-- The pass of an MM on operands read from the view. -/
def mmPass (s : State) (i : Site) (e : Entry) (v : PView) (a b : Tensor) : Pass :=
  let mod := e.cmd.mod
  let vn := a.inner
  let wn := b.inner
  let raw (t : Tensor) : List (List Nat) := (List.range (rowCount t)).map fun r =>
    elems t.e (spRead 0 v.bytes (rowAddr t r) (rowBytes t))
  let signed (t : Tensor) : List (List Int) := (raw t).map fun r => r.map (sext 8)
  match bits mod 27 3 with
  | 0 =>
    let m := msetOf s i e.hh mod
    let ids (f : Lease → List Nat) : List Nat := ((hhAt s e.hh).lease.map f).getD []
    passMod (raw a) (raw b) (rowCount a) vn wn (ids fun l => rowMods l m (rowCount a)) (ids fun l => colMods l m wn)
  | 1 => passInt (signed a) (signed b) (rowCount a) vn wn
  | 2 => passFp8 e4m3Int (-9) (raw a) (raw b) (rowCount a) vn wn
  | 3 => passFp8 e5m2Int (-16) (raw a) (raw b) (rowCount a) vn wn
  | 4 => passBf (raw a) (raw b) (rowCount a) vn wn (bfDepthLog (bits mod 30 2))
  | _ => passInt (planeRead v a 4) (planeRead v b 4) a.c1 vn wn

/-- First vector whose column of input blocks does not verify, and whether the weight block verifies (R25):
vectors below it are processed before the mismatch is met. -/
def mmSeals (v : PView) (a b : Tensor) (plane : Bool) : Option Nat :=
  let rowsBad (t : Tensor) : List Nat := (List.range (rowCount t)).filterMap fun r =>
    let len := checkRowBytes t plane
    let ad := rowAddr t r
    (List.range (cdiv len 4096)).find? fun j =>
      decide (ad % 128 = 0) && decide (4096 * j + 4096 ≤ len) && !sealOk v (ad + 4096 * j) (spRead 0 v.bytes (ad + 4096 * j) 4096)
  if !(rowsBad b).isEmpty then some 0
  else match rowsBad a with
    | [] => none
    | j :: js => some (js.foldl min j * (if plane then 32768 else 4096 / (if a.e = 0 then 1 else a.e)))

/-- First linear index not written of a destination with rows of vn vectors when blocks cover `limit` vectors. -/
def blockFloor (limit : Nat) : Nat := limit / 1024 * 1024

/-- The comparisons of vector v of an MM: the checksum columns, in BF16 the two copies (R168-R171). -/
def mmMismatch (p : Pass) (mod d wn : Nat) (fs : List SumFault) : Nat → Option Nat :=
  let cks := (List.range (ckGroups (bits mod 30 2))).map fun g => ckColumn p.w g wn d
  fun v => if bits mod 27 3 = 4 then copyMismatch fs (shapeWidth (bits mod 30 2)) v else groupMismatch p cks fs d wn v
/-- Element rows of the inputs: in INT4 the plane index stands in i2. -/
def mmDepth (mod : Nat) (a : Tensor) : Nat := if bits mod 27 3 = 5 then a.c1 else rowCount a

/-- How the vectors of an MM went (R162, R168-R173). -/
def mmChecks (mod : Nat) (p : Pass) (v : PView) (a b : Tensor) (u : ArrayUpset) : Checked :=
  let vn := a.inner
  let mism := mmMismatch p mod (mmDepth mod a) b.inner
  let adds := addFaults mod u fun n => if n < vn * b.inner then some (n % vn) else none
  arrayRun vn (mism u.first) (mism u.again) id (mmSeals v a b (bits mod 27 3 == 5)) (firstBad adds)

/-- Destination elements that overlap a source, other than in place, hold free values (R128); bit-plane rows are as long
as their bits need (R124). -/
def mmOverlap (occ fm : Nat) (a b d : Tensor) (rows : List (List Nat)) : List (List Nat) :=
  if fm = 5 then freeWhere (occ + 1) (planeCovers b) d (freeWhere occ (planeCovers a) d rows)
  else overlapFree (occ + 1) b d (overlapFree occ a d rows)
/-- Ranges that an MM reads. -/
def mmReads (fm : Nat) (a b : Tensor) : List (Nat × Nat) :=
  let rs (t : Tensor) : List (Nat × Nat) := (List.range (rowCount t)).map fun r => (rowAddr t r, checkRowBytes t (fm == 5))
  rs a ++ rs b

/-- MM on operands that pass (R155-R173). -/
def mmRun (u : ArrayUpset) (k : Gl) (i : Site) (e : Entry) (a b : Tensor) (s : State) : State :=
    let q : QueueId := .cluster k 0
    let mod := e.cmd.mod
    let sh := bits mod 30 2
    let fm := bits mod 27 3
    let v := entryView s i e
    let vn := a.inner
    let p := mmPass s i e v a b
    let c := mmChecks mod p v a b u
    let sum (j x : Nat) : Nat := p.value j x (rawSum p (metFaults u c id x) j x)
    let adds := addFaults mod u fun n => if n < vn * b.inner then some (n % vn) else none
    let span := accSpan s i e
    let occ := s.fresh
    let s := arrayStream s k i e vn fun m => { m with
      shape := sh, format := fm, nonfinite := satAdd 16 m.nonfinite ((List.range c.limit).filter p.nonfinite).length }
    let s := match e.opD with
      | .pantry t _ =>
        let ms := match (hhAt s e.hh).lease with
          | some l => colMods l (msetOf s i e.hh mod) b.inner
          | none => []
        let rows := (List.range b.inner).map fun j => (List.range vn).map fun x => accConvert fm (sum j x) (ms.getD j 1)
        upSite s i fun y => pWrite y t (mmOverlap occ fm a b t rows) (fun _ j => decide (min (1024 * (j + 1)) vn ≤ c.limit)) (readyAt s i e)
      | .imm base =>
        upSite s i fun y => accWrite y span ((List.range c.limit).flatMap fun x => (List.range b.inner).map fun j =>
          let n := accEntry base (2 ^ sh) x j
          (n, if bits mod 25 2 = 1 then accAdd fm (spGet 0 y.acc n) (sum j x) else sum j x))
      | _ => s
    let s := accCorrected (abftNote s k i e c vn id) i (corrections adds c.limit)
    match c.stop with
    | none => endOk s q i e (mmReads fm a b)
    | some .badSeal => endBad s q e stSeal
    | some _ => endEntry s q e stAbft (match e.opD with
        | .pantry _ _ => blockFloor c.limit * 4
        | _ => c.limit * 4) 3

/-- MM (R155-R173, R178). -/
def mmOp (u : ArrayUpset) (k : Gl) (i : Site) (e : Entry) (s : State) : State :=
  let q : QueueId := .cluster k 0
  match mmCase s i e with
  | .error st => endBad (rampCancel s i) q e st
  | .ok (a, b) => firstAccess s (rampCancel s i) q i e (mmRun u k i e a b s)

def execMm (k : Gl) (u : ArrayUpset) (s : State) : Out := .next (engineRow s k 0 0x01 (mmOp u k))

/-- MODSET on an operand that passes: the 640 identifiers of a set, if each is one (R179). -/
def modsetRun (k : Gl) (i : Site) (e : Entry) (a : Tensor) (s : State) : State :=
  let q : QueueId := .cluster k 0
  let ids := (spRead 0 (entryView s i e).bytes a.base 640).map BitVec.toNat
  let okId := fun (l : Lease) x => decide (x < l.primes.length) || (decide (64 ≤ x) && decide (x < 64 + l.specials.length)) || x == 0xFF
  match (hhAt s e.hh).lease with
  | none => endBad s q e stRange
  | some l =>
    if !ids.all (okId l) then endBad s q e stRange
    else
      let n : Fin 8 := ⟨bits e.cmd.mod 0 3, by unfold bits; omega⟩
      endOk (upSet s i e.hh fun t => { t with msets := t.msets.set n.val ⟨true, ids.take 512, ids.drop 512⟩ n.isLt }) q i e (rowRanges e.opA)
/-- MODSET (R179). -/
def modsetOp (k : Gl) (i : Site) (e : Entry) (s : State) : State :=
  let q : QueueId := .cluster k 0
  let mod := e.cmd.mod
  if bits mod 3 29 ≠ 0 then endBad s q e stRange
  else match e.opB, e.opD with
    | .none, .none =>
      match e.opA with
      | .pantry a _ =>
        if a.e ≠ 4 || a.inner ≠ 160 || rowCount a ≠ 1 then endBad s q e stRange
        else firstAccess s s q i e (modsetRun k i e a s)
      | _ => endBad s q e stRange
    | _, _ => endBad s q e stShape

def execModset (k : Gl) (s : State) : Out := .next (engineRow s k 0 0x02 (modsetOp k))

/-- Cases of the table "KEYIP operand cases" (R180). -/
def keyipCase (s : State) (i : Site) (e : Entry) : Except Nat (Tensor × Tensor) :=
  let mod := e.cmd.mod
  let dest := bits mod 25 2
  if bits mod 27 5 ≠ 0 || bits mod 0 22 ≠ 0 || dest = 3 then .error stRange
  else match e.opA, e.opB with
    | .pantry a _, .pantry b _ =>
      let dform := match e.opD with
        | .pantry _ _ => decide (dest = 2)
        | .imm v => decide (dest ≠ 2) && decide (v < 4096)
        | _ => false
      if a.e ≠ 4 || b.e ≠ 4 || !dform then .error stRange
      else
        let p := a.c1
        let n := a.inner
        let m := msetOf s i e.hh mod
        if !m.valid || hasUnused m.cols p || decide (p > 512) then .error stRange
        else if (match e.opD with
            | .imm v => decide (128 * v + 2 * p * n > 2 ^ 19)
            | _ => false) then .error stRange
        else
          let okD := match e.opD with
            | .pantry t _ => t.inner == n && t.c1 == p && t.c2 == 2 && t.e == 4
            | _ => true
          if b.inner == n && b.c1 == p && b.c2 == 2 * a.c2 && okD then .ok (a, b) else .error stShape
    | _, _ => .error stRange

/-- First group of steps whose sources hold a bad block, by the order of R180: limb, then 256 positions. -/
def keyipSeals (v : PView) (a b : Tensor) (gs : Nat) : Option Nat :=
  let bad (t : Tensor) : List Nat := (List.range (rowCount t)).filterMap fun r =>
    let ad := rowAddr t r
    ((List.range (rowBytes t / 4096)).find? fun j =>
      decide (ad % 128 = 0) && !sealOk v (ad + 4096 * j) (spRead 0 v.bytes (ad + 4096 * j) 4096)).map fun j =>
        r % t.c1 * gs + 4 * j
  match bad a ++ bad b with
  | [] => none
  | x :: xs => some (xs.foldl min x)

/-- Step p of a KEYIP finds the two copies of a lane's accumulation apart: a disturbance in this or an earlier digit of its
group has not been undone (R171). -/
def laneMismatch (fs : List SumFault) (dn p : Nat) : Option Nat :=
  let sofar := fs.filter fun f => f.pos / dn == p / dn && decide (f.pos ≤ p)
  if sofar.any fun f => (((sofar.filter fun g => g.col == f.col).map fun g => g.off).sum) != 0 then some 0 else none

/-- How the steps of a KEYIP went: n positions in gs groups for each of p limbs, dn digits (R162, R171-R173). The entries of
a group are read once its digits are summed. -/
def keyipChecks (mod n p dn gs : Nat) (v : PView) (a b : Tensor) (u : ArrayUpset) : Checked × List (Nat × Bool) :=
  let adds := addFaults mod u fun x => if x < 2 * p * n then some ((x / n % p * gs + x % n / 256) * dn + (dn - 1)) else none
  (arrayRun (p * gs * dn) (laneMismatch u.first dn) (laneMismatch u.again dn) (fun x => x / dn * dn)
    ((keyipSeals v a b gs).map fun g => g * dn) (firstBad adds), adds)

/-- KEYIP on operands that pass (R180): u_c[i][k] = Σ_d x_d[i][k] · key[2d + c][i][k] mod m_i. -/
def keyipRun (u : ArrayUpset) (k : Gl) (i : Site) (e : Entry) (a b : Tensor) (s : State) : State :=
    let q : QueueId := .cluster k 0
    let mod := e.cmd.mod
    let v := entryView s i e
    let n := a.inner
    let p := a.c1
    let dn := a.c2
    let gs := cdiv n 256
    let total := p * gs * dn
    let ms := match (hhAt s e.hh).lease with
      | some l => colMods l (msetOf s i e.hh mod) p
      | none => []
    let raw (t : Tensor) : List (List Nat) := (List.range (rowCount t)).map fun r =>
      elems 4 (spRead 0 v.bytes (rowAddr t r) (rowBytes t))
    let xa := raw a
    let xb := raw b
    let sum (c r x : Nat) : Nat :=
      let m := ms.getD r 1
      ((List.range dn).map fun d => (at2 xa (r + p * d) x % m) * (at2 xb (r + p * (2 * d + c)) x % m)).sum
    let (c, adds) := keyipChecks mod n p dn gs v a b u
    let failG := if c.stop.isSome then c.limit / dn else p * gs
    let span := accSpan s i e
    let occ := s.fresh
    let s := arrayStream s k i e total id
    let keep (r j : Nat) : Bool := decide (r % p * gs + min (4 * j + 3) (gs - 1) < failG)
    let s := match e.opD with
      | .pantry t _ =>
        let rows := (List.range (2 * p)).map fun r => (List.range n).map fun x => sum (r / p) (r % p) x % ms.getD (r % p) 1
        let rows := overlapFree (occ + 1) b t (overlapFree occ a t rows)
        upSite s i fun y => pWrite y t rows keep (readyAt s i e)
      | .imm base =>
        upSite s i fun y => accWrite y span ((List.range (2 * p)).flatMap fun r => (List.range n).filterMap fun x =>
          if r % p * gs + x / 256 < failG then
            let m := 128 * base + x + n * r
            some (m, if bits mod 25 2 = 1 then (spGet 0 y.acc m + sum (r / p) (r % p) x) % 2 ^ 80 else sum (r / p) (r % p) x)
          else none)
      | _ => s
    let s := accCorrected (abftNote s k i e c total (fun x => x / dn * dn)) i (corrections adds (failG * dn))
    match c.stop with
    | none => endOk s q i e (rowRanges e.opA ++ rowRanges e.opB)
    | some .badSeal => endBad s q e stSeal
    | some _ =>
      let off := match e.opD with
        | .pantry _ _ =>
          let bl := cdiv n 1024
          match (List.range (2 * p * bl)).find? fun x => !keep (x / bl) (x % bl) with
          | some x => x / bl * n + 1024 * (x % bl)
          | none => 0
        | _ => failG / gs * n + failG % gs * 256
      endEntry s q e stAbft (4 * off) 3

/-- KEYIP (R180). -/
def keyipOp (u : ArrayUpset) (k : Gl) (i : Site) (e : Entry) (s : State) : State :=
  let q : QueueId := .cluster k 0
  match keyipCase s i e with
  | .error st => endBad (rampCancel s i) q e st
  | .ok (a, b) => firstAccess s (rampCancel s i) q i e (keyipRun u k i e a b s)

def execKeyip (k : Gl) (u : ArrayUpset) (s : State) : Out := .next (engineRow s k 0 0x03 (keyipOp u k))

/-- The line base of an immediate keeps its upper bits zero, or the command ends before its first row is tried (R150). -/
def baseBad : Opnd → Bool
  | .imm v => decide (v ≥ 4096)
  | _ => false

/-- ACCZ zeroes lines (R181). -/
def acczOp (k : Gl) (i : Site) (e : Entry) (s : State) : State :=
  let q : QueueId := .cluster k 0
  let cnt := bits e.cmd.mod 0 12 + 1
  if bits e.cmd.mod 12 20 ≠ 0 || baseBad e.opA then endBad s q e stRange
  else match e.opA, e.opB, e.opD with
    | .imm base, .none, .none =>
      if base + cnt > 4096 then endBad s q e stRange
      else
        let lo := 128 * base
        let hi := 128 * (base + cnt)
        let span := accSpan s i e
        let s := upSite s i fun c => { c with
          accFly := match span with
            | some t => ((c.acc.filter fun x => decide (lo ≤ x.1) && decide (x.1 < hi)).map fun x => ⟨t.1, t.2, x.1, x.2⟩) ++ c.accFly
            | none => c.accFly
          acc := spKeep (fun n => decide (n < lo) || decide (hi ≤ n)) c.acc
          accLines := (List.range cnt).foldl (fun l j => insNat l (base + j)) c.accLines }
        endOk s q i e []
    | _, _, _ => endBad s q e stShape

def execAccz (k : Gl) (s : State) : Out := .next (engineRow s k 0 0x04 (acczOp k))

/-- Entry that destination element (v of row j, linear index n) of an ACCST or CHACC reads (R181). -/
def accOfElem (layout base n v j : Nat) : Nat := if layout = 3 then 128 * base + n else accEntry base (2 ^ layout) v j

/-- Highest entry a destination of the layout reads lies past line 4,095 (R181, R217). -/
def accPast (layout base : Nat) (d : Tensor) : Bool :=
  if layout = 3 then decide (128 * base + elemCount d > 2 ^ 19)
  else decide (base + 2 ^ layout * (d.inner - 1) + (rowCount d - 1) / 128 > 4095)

/-- First destination element whose entry is uncorrectable, n when there is none. -/
def accLimit (u : AccUpset) (n : Nat) : Nat := (u.filter fun f => f.bad).foldl (fun m f => min m f.elem) n
/-- Registers after a read of the accumulator file for n elements, which stops at the first uncorrectable entry (R162). -/
def accNote (s : State) (i : Site) (u : AccUpset) (n : Nat) : State :=
  let s := accCorrected s i (u.filter fun f => !f.bad && decide (f.elem < accLimit u n)).length
  if accLimit u n < n then evMx s i fun m => { m with fails := satInc 16 m.fails, evFail := true } else s

/-- Cases of ACCST (R181). -/
def accstCase (s : State) (i : Site) (e : Entry) : Except Nat (Nat × Tensor) :=
  let mod := e.cmd.mod
  let lay := bits mod 30 2
  let fm := bits mod 27 3
  if fm > 5 || bits mod 25 2 ≠ 0 || bits mod 0 22 ≠ 0 || (fm ≠ 0 && bits mod 22 3 ≠ 0) || baseBad e.opA then .error stRange
  else match e.opA, e.opD with
    | .imm base, .pantry d _ => match e.opB with
      | .none =>
        if d.e ≠ 4 then .error stRange
        else if accPast lay base d then .error stRange
        else
          let m := msetOf s i e.hh mod
          let used := if lay = 3 then d.c1 else rowCount d
          if fm = 0 && (!m.valid || hasUnused m.cols used) then .error stRange
          else if lay = 3 || (d.inner ≤ 4096 && rowCount d ≤ shapeWidth lay) then .ok (base, d) else .error stShape
      | _ => .error stShape
    | _, _ => match e.opB with
      | .none => .error stRange
      | _ => .error stShape

/-- ACCST on operands that pass converts entries and writes them to the pantry (R181). -/
def accstRun (u : AccUpset) (k : Gl) (i : Site) (e : Entry) (base : Nat) (d : Tensor) (s : State) : State :=
    let q : QueueId := .cluster k 0
    let mod := e.cmd.mod
    let lay := bits mod 30 2
    let fm := bits mod 27 3
    let c := siteAt s i
    let ms := match (hhAt s e.hh).lease with
      | some l => colMods l (msetOf s i e.hh mod) (if lay = 3 then d.c1 else rowCount d)
      | none => []
    let rows := (List.range (rowCount d)).map fun j => (List.range d.inner).map fun v =>
      accConvert fm (spGet 0 c.acc (accOfElem lay base (v + d.inner * j) v j)) (ms.getD (if lay = 3 then j % d.c1 else j) 1)
    let limit := accLimit u (elemCount d)
    let s := upSite s i fun c => pWrite c d rows
      (fun r b => decide (r * d.inner + min (1024 * (b + 1)) d.inner ≤ limit)) (readyAt s i e)
    let s := accNote s i u (elemCount d)
    if limit < elemCount d then endEntry s q e stAbft (4 * limit) 3 else endOk s q i e []

/-- ACCST (R181). -/
def accstOp (u : AccUpset) (k : Gl) (i : Site) (e : Entry) (s : State) : State :=
  let q : QueueId := .cluster k 0
  match accstCase s i e with
  | .error st => endBad s q e st
  | .ok (base, d) => firstAccess s s q i e (accstRun u k i e base d s)

def execAccst (k : Gl) (u : AccUpset) (s : State) : Out := .next (engineRow s k 0 0x05 (accstOp u k))

/-- A step of the ramp-down of dummy vectors, from the step the array has reached down to 0 and to rest: no MM or KEYIP is
ready, and the program of a timed household does not run (R174, R175). -/
def rampDownOp (s : State) (k : Gl) : State :=
  match liveSet s k with
  | none => s
  | some (i, h) =>
    let m := (siteAt s i).mx
    if arrayReady s k i h none || (modeOf s h == 2 && (setAt s i h).xsq.run) || !m.active then s
    else upSite s i fun c => { c with mx :=
      if !m.rampDown then { m with rampUp := false, rampDown := true, rampNow := m.ramp }
      else if m.step = 0 then { m with rampDown := false }
      else { m with step := m.step - 1 } }

def execMxaRampDown (k : Gl) (s : State) : Out := .next (rampDownOp s k)

end Sys2Proof.Machine
end

