-- ==== Sys2Proof/Machine/Descriptor.lean ====
section
/-! DEFINITION. Ciphertext descriptors: layout, checks, limb access, and how a descriptor form runs limb by
limb (R32-R41, R192, R461). -/

namespace Sys2Proof.Machine

/-- A ciphertext descriptor (R32, R33), by the bytes at its address. -/
structure Desc where
  va : Nat
  raw : List Byte
deriving DecidableEq, Repr

def Desc.version (d : Desc) : Nat := leAt d.raw 0 1
def Desc.log2n (d : Desc) : Nat := leAt d.raw 1 1
def Desc.level (d : Desc) : Nat := leAt d.raw 2 1
def Desc.special (d : Desc) : Nat := leAt d.raw 3 1
def Desc.parts (d : Desc) : Nat := leAt d.raw 4 1
def Desc.domain (d : Desc) : Nat := leAt d.raw 5 1
def Desc.capacity (d : Desc) : Nat := leAt d.raw 6 1
def Desc.tag (d : Desc) : Nat := leAt d.raw 8 8
def Desc.scale (d : Desc) : Nat := leAt d.raw 0x10 4
def Desc.flags (d : Desc) : Nat := leAt d.raw 0x14 4
def Desc.limbBase (d : Desc) : Nat := leAt d.raw 0x18 8
def Desc.stride (d : Desc) : Nat := leAt d.raw 0x20 4
def Desc.sealBase (d : Desc) : Nat := leAt d.raw 0x28 8
/-- Slots in use. -/
def Desc.slots (d : Desc) : Nat := d.level + d.special

/-- Row 2 of the descriptor checks. -/
def Desc.formOk (d : Desc) : Bool :=
  d.version == 1 && leAt d.raw 7 1 == 0 && leAt d.raw 0x24 4 == 0 && leAt d.raw 0x30 8 == 0 && leAt d.raw 0x38 8 == 0 &&
    bits d.flags 16 16 == 0 && bits d.flags 2 6 == 0 && decide (d.domain ≤ 1)
/-- Row 5. -/
def Desc.countsOk (d : Desc) (l : Lease) : Bool :=
  (d.parts == 2 || d.parts == 3) && decide (1 ≤ d.level) && decide (d.level ≤ l.primes.length) &&
    decide (d.special ≤ l.specials.length) && decide (d.slots ≤ d.capacity) && decide (d.capacity ≤ 76)
/-- Row 6. -/
def Desc.addrOk (d : Desc) (l : Lease) : Bool :=
  d.limbBase % 64 == 0 && d.stride % 64 == 0 && decide (4 * ringN l ≤ d.stride) && d.sealBase % 4 == 0

/-- Rows 1 to 7 of the table "Descriptor checks" for one source (R35). -/
def sourceCheck (l : Lease) (d : Desc) (domain : Option Nat) : Option Nat :=
  if d.va % 64 ≠ 0 then some stRange
  else if !d.formOk then some stRange
  else if !d.flags.testBit 0 then some stRange
  else if d.log2n ≠ l.log2n then some stShape
  else if !d.countsOk l then some stRange
  else if !d.addrOk l then some stRange
  else match domain with
    | some x => if d.domain = x then none else some stDomain
    | none => none

/-- R36: rows 1 and 6 and the capacity for a result of `slots` limbs a part. -/
def destCheck (l : Lease) (d : Desc) (slots : Nat) : Option Nat :=
  if d.va % 64 ≠ 0 then some stRange
  else if !d.addrOk l then some stRange
  else if d.capacity < slots then some stRange
  else none

/-- Address of limb slot i of part p, and of the seal of its block 0 (R34). -/
def Desc.slotVa (d : Desc) (p i : Nat) : Nat := (d.limbBase + (p * d.capacity + i) * d.stride) % 2 ^ 64
def Desc.slotSeal (d : Desc) (n p i : Nat) : Nat := (d.sealBase + 4 * ((p * d.capacity + i) * (n / 1024))) % 2 ^ 64
/-- OFFSET of slot i of part p (R461). -/
def Desc.slotOff (d : Desc) (n p i : Nat) : Nat := (p * d.capacity + i) * n * 4
/-- Chain position of slot i (R34, R183). -/
def Desc.slotPos (d : Desc) (l : Lease) (i : Nat) : Nat := if i < d.level then i else l.primes.length + (i - d.level)

/-- How a descriptor form stops: a status, the element and operand it names, and a fault to record. -/
structure CtStop where
  status : Nat
  offset : Nat
  operand : Nat
  fault : Option Nat
deriving DecidableEq, Repr

/-- A stop for an error of memory. An access to the descriptor itself names no element, so it is final. -/
def CtStop.mem (e : MErr) (off opd : Nat) : CtStop := match e with
  | .fault st va => ⟨st, off, opd, some va⟩
  | .ue va => ⟨stCellar, off, opd, some va⟩
  | .txCap _ => ⟨stTxCap, off, opd, none⟩

/-- A descriptor is read through its household's translation. -/
def readDesc (s : State) (h : Hh) (va : Nat) : Except CtStop Desc :=
  match hRead s h true .read va 64 with
  | .ok bs => .ok ⟨va, bs⟩
  | .error e => .error (CtStop.mem e 0 0)

/-- Pages of slot i of part p, blocks and seals, are translated (R192). -/
def limbFault (s : State) (h : Hh) (n : Nat) (d : Desc) (p i : Nat) (acc : Acc) : Option (Nat × Nat) :=
  match xlateRange s h true acc (d.slotVa p i) (4 * n) with
  | some x => some x
  | none => xlateRange s h true acc (d.slotSeal n p i) (4 * (n / 1024))

/-- A limb is read block by block, each verified (R25, R192). OFFSET of an uncorrectable unit is that of the
first element not read (R294). -/
def readLimb (s : State) (h : Hh) (n : Nat) (d : Desc) (p i : Nat) : Except CtStop (List Nat) :=
  let step (acc : Except CtStop (List Byte)) (j : Nat) : Except CtStop (List Byte) := match acc with
    | .error e => .error e
    | .ok bs => match hReadBlock s h (d.slotVa p i + 4096 * j) 4096 (d.slotSeal n p i + 4 * j) with
      | .ok b => .ok (bs ++ b)
      | .error .badSeal => .error ⟨stSeal, 0, 0, none⟩
      | .error (.mem (.ue a)) =>
        .error ⟨stCellar, d.slotOff n p i + (if d.slotVa p i ≤ a ∧ a < d.slotVa p i + 4 * n then (a - d.slotVa p i) / 4 * 4 else 4096 * j), 1, some a⟩
      | .error (.mem e) => .error (CtStop.mem e (d.slotOff n p i + 4096 * j) 1)
  match (List.range (n / 1024)).foldl step (.ok []) with
  | .error e => .error e
  | .ok bs => .ok (elems 4 bs)

/-- A limb is written block by block with its seals; the state stands as far as the write came. -/
def writeLimb (s : State) (h : Hh) (n : Nat) (d : Desc) (p i : Nat) (ws : List Nat) : State × Option CtStop :=
  (List.range (n / 1024)).foldl (fun acc j => match acc.2 with
    | some _ => acc
    | none =>
      match hWriteBlock acc.1 h (d.slotVa p i + 4096 * j) (unElems 4 ((ws.drop (1024 * j)).take 1024)) (d.slotSeal n p i + 4 * j) with
      | .ok t => (t, none)
      | .error e => (acc.1, some (CtStop.mem e (d.slotOff n p i + 4096 * j) 3))) (s, none)

/-- Step 1 of R37: LIVE is cleared. -/
def clearLive (s : State) (h : Hh) (d : Desc) : Except CtStop State :=
  match hWrite s h true (d.va + 0x14) (leBytes 1 (clrBit (leAt d.raw 0x14 1) 0)) with
  | .ok t => .ok t
  | .error e => .error (CtStop.mem e 0 0)

/-- Steps 3 and 4 of R37: the result's fields, copied from the source but for those given, then LIVE. -/
def finishDesc (s : State) (h : Hh) (d src : Desc) (level domain scale : Nat) : Except CtStop State :=
  let fl := clrBit src.flags 0
  let head := leBytes 1 1 ++ leBytes 1 src.log2n ++ leBytes 1 level ++ leBytes 1 src.special ++ leBytes 1 src.parts ++ leBytes 1 domain
  let body := leBytes 8 src.tag ++ leBytes 4 scale ++ leBytes 4 fl
  match hWrite s h true d.va head with
  | .error e => .error (CtStop.mem e 0 0)
  | .ok t => match hWrite t h true (d.va + 8) body with
    | .error e => .error (CtStop.mem e 0 0)
    | .ok u => match hWrite u h true (d.va + 0x14) (leBytes 1 (setBit (fl % 256) 0)) with
      | .error e => .error (CtStop.mem e 0 0)
      | .ok v => .ok v

/-- A stopped descriptor form: the fault is recorded with AGENT 9, the command ends or waits suspended, with
the descriptors it holds and the limb it stands at. -/
def ctStop (s : State) (q : QueueId) (e : Entry) (pos : Nat) (st : CtStop) : State :=
  let s := match st.fault with
    | some va => if st.status == stCellar then noteUeVa s e.hh true .read va else recordFault s e.hh 9 st.status va
    | none => s
  endEntry (upEntry s q e.hh e.seq fun x => { x with pos := pos }) q e st.status st.offset st.operand

/-- Spans of limb slot i of part p. -/
def limbSpans (n : Nat) (d : Desc) (p i : Nat) : List (Nat × Nat) :=
  (List.range (n / 1024)).flatMap fun j => spansOf 8 (d.slotVa p i + 4096 * j) 4096
/-- What a form that goes limb by limb asks for: no limb of which a page of source or destination does not translate (R192,
R223). -/
def limbFeed (s : State) (h : Hh) (l : Lease) (src dst : Desc) : Feed :=
  let n := ringN l
  { count := src.parts * src.slots
    spans := fun b => limbSpans n src (b / src.slots) (b % src.slots)
    ok := fun b => (limbFault s h n src (b / src.slots) (b % src.slots) .read).isNone &&
      (limbFault s h n dst (b / src.slots) (b % src.slots) .write).isNone }

/-- The source and destination of a descriptor form: one that starts makes the checks `chk`, clears LIVE, holds both
descriptors and asks for its source; one that goes on has those it holds (R192). -/
def ctBegin (s : State) (q : QueueId) (e : Entry) (a d : Nat) (chk : Desc → Desc → Option Nat) (feed : State → Desc → Desc → Feed) :
    Except CtStop (State × Desc × Desc) :=
  if e.held.length = 128 then .ok (s, ⟨a, e.held.take 64⟩, ⟨d, e.held.drop 64⟩)
  else match readDesc s e.hh a with
    | .error x => .error x
    | .ok src => match chk src src with
      | some st => .error ⟨st, 0, 0, none⟩
      | none => match readDesc s e.hh d with
        | .error x => .error x
        | .ok dst => match chk src dst with
          | some st => .error ⟨st, 0, 0, none⟩
          | none => match clearLive s e.hh dst with
            | .error x => .error x
            | .ok t => .ok (putStream (upEntry t q e.hh e.seq fun x => { x with held := src.raw ++ dst.raw }) q e false (feed t src dst), src, dst)

/-- The limbs of a descriptor form from `pos` on, in slot order, part 0 first (R192); `f pos words` is the
result of a limb at a chain position. Stops at limb `stopAt`, or where memory stops it. -/
def ctLimbs (s : State) (h : Hh) (l : Lease) (src dst : Desc) (f : Nat → List Nat → List Nat) (stopAt : Nat) :
    Nat → Nat → State × Nat × Option CtStop
  | 0, pos => (s, pos, none)
  | fuel + 1, pos =>
    let n := ringN l
    let p := pos / src.slots
    let i := pos % src.slots
    if pos ≥ stopAt ∨ pos ≥ src.parts * src.slots then (s, pos, none)
    else match limbFault s h n src p i .read with
      | some (st, va) => (s, pos, some ⟨st, src.slotOff n p i, 1, some va⟩)
      | none => match limbFault s h n dst p i .write with
        | some (st, va) => (s, pos, some ⟨st, dst.slotOff n p i, 3, some va⟩)
        | none => match readLimb s h n src p i with
          | .error e => (s, pos, some e)
          | .ok ws => match writeLimb s h n dst p i (f (src.slotPos l i) ws) with
            | (t, some e) => (t, pos, some e)
            | (t, none) => ctLimbs t h l src dst f stopAt fuel (pos + 1)

end Sys2Proof.Machine
end

