-- ==== Sys2Proof/Machine/Transform.lean ====
section
/-! DEFINITION. The transform engine: FWD, INV, FWDCT, INVCT and the root table (R183-R196). -/

namespace Sys2Proof.Machine

/-- Modulus and root of a chain position (R79, R183). -/
def chainPrime (l : Lease) (x : Nat) : Nat := (chain l).getD x 1
def chainRoot (l : Lease) (x : Nat) : Nat := l.roots.getD x 0

/-- The polynomial with coefficients a at x modulo q, by Horner's rule. -/
def polyAt (a : List Nat) (x q : Nat) : Nat := a.foldr (fun c acc => (c + x * acc) % q) 0

/-- The forward transform: y_k is the polynomial at ψ^(2·br(k)+1) (R19, R185). -/
def ntt (n q psi : Nat) (a : List Nat) : List Nat :=
  (List.range (2 ^ n)).map fun k => polyAt a (powMod psi (2 * bitRev n k + 1) q) q

/-- The inverse transform, its factor N^(−1) included (R185). -/
def intt (n q psi : Nat) (y : List Nat) : List Nat :=
  let ni := invMod (2 ^ n) q
  let pi := invMod psi q
  let ye := (List.range (2 ^ n)).map fun j => y.getD (bitRev n j) 0
  (List.range (2 ^ n)).map fun i =>
    let b := powMod pi i q
    ni * (b * polyAt ye (b * b % q) q % q) % q

/-- A limb transformed at a chain position. -/
def transformLimb (l : Lease) (inverse : Bool) (pos : Nat) (ws : List Nat) : List Nat :=
  let q := chainPrime l pos
  if inverse then intt l.log2n q (chainRoot l pos) (ws.map (· % q)) else ntt l.log2n q (chainRoot l pos) (ws.map (· % q))

/-- The source is read by transposed sub-blocks, so no seal is checked (R188, R25). -/
def transposed (l : Lease) : Bool := decide (5 ≤ rowLog2 l) && decide (5 + rowLog2 l ≤ l.log2n)

/-- How the twiddle checks of a run of limbs went: the limb that was retried, and the limb of the second mismatch. -/
structure TwRun where
  retry : Option Nat
  fail : Option Nat
deriving DecidableEq, Repr

/-- Limbs lo to hi − 1 under the mismatches that are found; `had` when the command has had its retry (R190). -/
def twRun (u : TwUpset) (had : Bool) (lo hi : Nat) : TwRun :=
  let among (x : Option Nat) (lo : Nat) : Option Nat := x.filter fun n => decide (lo ≤ n) && decide (n < hi)
  if had then ⟨none, among u.first lo⟩
  else match among u.first lo with
    | none => ⟨none, none⟩
    | some n => ⟨some n, among u.second n⟩

/-- Registers, log and waits after the twiddle checks of a run of limbs: the retry costs N·n/512 ACLK under FAULT_WAIT (R190,
R200). -/
def twNote (s : State) (k : Gl) (i : Site) (e : Entry) (log2n : Nat) (r : TwRun) : State :=
  let s := match r.retry with
    | none => s
    | some _ =>
      let s := logRetry (evNt s i fun m => { m with retries := satInc 16 m.retries, lastSeq := e.seq, evRetry := true }) k i e.hh
      upEntry (stallUnits s i (waitUnits s e.hh 1) scFault (2 ^ log2n * log2n / 512)) (.cluster k 1) e.hh e.seq fun x => { x with retried := true }
  match r.fail with
  | none => s
  | some _ => evNt s i fun m => { m with fails := satInc 16 m.fails, lastSeq := e.seq, evFail := true }

/-- The operands of a pantry limb command and the checks after its MOD cases (R183, R195, R197). -/
def limbCase (l : Lease) (e : Entry) (pos0 : Nat) : Except Nat (Tensor × Tensor) :=
  match e.opA, e.opB, e.opD with
  | .pantry a _, .none, .pantry d _ =>
    if a.e ≠ 4 || d.e ≠ 4 then .error stRange
    else if pos0 + rowCount a > chainLen l then .error stRange
    else if a.inner == ringN l && d.inner == ringN l && d.c1 == a.c1 && d.c2 == a.c2 && decide (rowCount a ≤ 76) then
      .ok (a, d)
    else .error stShape
  | _, _, _ => .error stRange

/-- Limbs of the source up to the first whose whole blocks do not verify, none verified where `verify` is off
(R25, R26). -/
def limbRows (v : PView) (a : Tensor) (verify : Bool) : List (List Nat) × Option Nat := pRead v a verify

/-- The source rows become destination rows: limb c at chain position pos0 + c, up to row `limit`. -/
def limbWrite (s : State) (i : Site) (e : Entry) (a d : Tensor) (rows : List (List Nat)) (limit occ : Nat)
    (f : Nat → List Nat → List Nat) : State :=
  let out := (rows.zip (List.range rows.length)).map fun r => f r.2 r.1
  upSite s i fun c => pWrite c d (overlapFree occ a d out) (fun r _ => decide (r < limit)) (readyAt s i e)

/-- FWD and INV on operands that pass (R185, R187, R190). -/
def limbRun (inverse : Bool) (u : TwUpset) (k : Gl) (i : Site) (e : Entry) (l : Lease) (a d : Tensor) (s : State) : State :=
  let q : QueueId := .cluster k 1
  let pos0 := bits e.cmd.mod 24 7
  let c := rowCount a
  let (rows, bad) := limbRows (entryView s i e) a (!transposed l)
  let r := twRun u e.retried 0 (bad.getD c)
  let limit := r.fail.getD (bad.getD c)
  let s := limbWrite s i e a d rows limit s.fresh fun r ws => transformLimb l inverse (pos0 + r) ws
  let s := upSite s i fun x => { x with nt := { x.nt with limbsDone := limit, chainPos := pos0 + min limit (c - 1) } }
  let s := twNote s k i e l.log2n r
  match r.fail, bad with
  | some _, _ => endEntry s q e stAbft (4 * limit * ringN l) 3
  | none, some _ => endBad s q e stSeal
  | none, none => endOk s q i e (rowRanges e.opA)
/-- FWD and INV (R195). -/
def limbTransform (inverse : Bool) (u : TwUpset) (k : Gl) (i : Site) (e : Entry) (s : State) : State :=
  let q : QueueId := .cluster k 1
  let mod := e.cmd.mod
  match (hhAt s e.hh).lease with
  | none => endBad s q e stRange
  | some l =>
    if bits mod 0 24 ≠ 0 || bits mod 31 1 ≠ 0 then endBad s q e stRange
    else match limbCase l e (bits mod 24 7) with
      | .error st => endBad s q e st
      | .ok (a, d) => firstAccess s s q i e (limbRun inverse u k i e l a d s)

def execFwd (k : Gl) (u : TwUpset) (s : State) : Out := .next (engineRow s k 1 0x21 (limbTransform false u k))
def execInv (k : Gl) (u : TwUpset) (s : State) : Out := .next (engineRow s k 1 0x22 (limbTransform true u k))

/-- FWDCT and INVCT on a ciphertext of the cellar (R192, R196). -/
def ctTransform (inverse : Bool) (u : TwUpset) (k : Gl) (i : Site) (e : Entry) (s : State) : State :=
  let q : QueueId := .cluster k 1
  if e.cmd.mod ≠ 0 then endBad s q e stRange
  else match e.opA, e.opB, e.opD, (hhAt s e.hh).lease with
    | .desc a, .none, .desc d, some l =>
      if modeOf s e.hh ≠ 0 then endBad s q e stRange
      else
        let chk (src dst : Desc) : Option Nat :=
          match sourceCheck l src (some (if inverse then 1 else 0)) with
          | some st => some st
          | none => destCheck l dst src.slots
        match ctBegin s q e a d chk fun t => limbFeed t e.hh l with
        | .error x => ctStop s q e e.pos x
        | .ok (s, src, dst) =>
          let f := limbFeed s e.hh l src dst
          let hi := e.pos + readyRun (blockRead s q e f) f.count e.pos
          let (s, pos, stop) := ctLimbs s e.hh l src dst (transformLimb l inverse) ((twRun u e.retried e.pos hi).fail.getD hi) f.count e.pos
          let r := twRun u e.retried e.pos (if stop.isSome then pos else hi)
          let s := upSite s i fun x => { x with nt := { x.nt with
            limbsDone := pos, chainPos := src.slotPos l (min pos (f.count - 1) % src.slots) } }
          let s := twNote s k i e l.log2n r
          match stop, r.fail with
          | some x, _ => ctStop s q e pos x
          | none, some _ => endEntry s q e stAbft (dst.slotOff (ringN l) (pos / src.slots) (pos % src.slots)) 3
          | none, none =>
            if pos < f.count then moveWaits s q e false f pos
            else match finishDesc s e.hh dst src src.level (if inverse then 0 else 1) src.scale with
              | .ok t => endOk t q i e []
              | .error x => ctStop s q e pos x
    | _, _, _, _ => endBad s q e stRange

def execFwdct (k : Gl) (u : TwUpset) (s : State) : Out := .next (engineRow s k 1 0x23 (ctTransform false u k))
def execInvct (k : Gl) (u : TwUpset) (s : State) : Out := .next (engineRow s k 1 0x24 (ctTransform true u k))

/-- The root table of the household served is prepared (R186): no NTE command starts before. -/
def rootsReady (s : State) (k : Gl) : State := match liveSet s k with
  | some (i, h) => if (hhAt s h).lease.isSome then upSet s i h fun t => { t with roots := true } else s
  | none => s

def execRootTableReady (k : Gl) (s : State) : Out := .next (rootsReady s k)

end Sys2Proof.Machine
end

