-- ==== Sys2Proof/Machine/Pme.lean ====
section
/-! DEFINITION. The permutation engine: AUTO, AUTOCT, GATHER and SCATTER (R149, R183, R191-R199). -/

namespace Sys2Proof.Machine

/-- σ_g in coefficient domain: word u of the result comes from the coefficient whose exponent maps to u or
u + N, negated in the second case (R191). -/
def autoCoeff (n q g : Nat) (a : List Nat) : List Nat :=
  let m := 2 ^ n
  let gi := powMod g (m - 1) (2 * m)
  (List.range m).map fun u =>
    let i := u * gi % (2 * m)
    if i < m then a.getD i 0 else (q - a.getD (i - m) 0) % q

/-- σ_g in evaluation domain: a permutation without negation (R191). -/
def autoEval (n g : Nat) (a : List Nat) : List Nat :=
  (List.range (2 ^ n)).map fun k =>
    a.getD (bitRev n ((g * (2 * bitRev n k + 1) % 2 ^ (n + 1) - 1) / 2)) 0

/-- A limb under σ_g at a chain position (R184, R191). -/
def autoLimb (l : Lease) (eval : Bool) (g pos : Nat) (ws : List Nat) : List Nat :=
  let q := chainPrime l pos
  let a := ws.map (· % q)
  if eval then autoEval l.log2n g a else autoCoeff l.log2n q g a

/-- Case 2 of the table "AUTO operand cases". -/
def galoisBad (l : Lease) (g : Nat) : Bool := g % 2 == 0 || decide (2 * ringN l ≤ g)

def noteG (s : State) (i : Site) (g : Nat) : State := upSite s i fun x => { x with pm := { x.pm with lastG := g } }

/-- AUTO on operands that pass (R191). -/
def autoRun (k : Gl) (i : Site) (e : Entry) (l : Lease) (a d : Tensor) (s : State) : State :=
  let q : QueueId := .cluster k 2
  let mod := e.cmd.mod
  let (rows, bad) := limbRows (entryView s i e) a true
  let s := limbWrite s i e a d rows (bad.getD (rowCount a)) s.fresh fun r ws =>
    autoLimb l (mod.testBit 31) (bits mod 0 18) (bits mod 24 7 + r) ws
  match bad with
  | some _ => endBad s q e stSeal
  | none => endOk s q i e (rowRanges e.opA)
/-- AUTO (R197). -/
def autoOp (k : Gl) (i : Site) (e : Entry) (s : State) : State :=
  let q : QueueId := .cluster k 2
  let mod := e.cmd.mod
  let g := bits mod 0 18
  match (hhAt s e.hh).lease with
  | none => endBad s q e stRange
  | some l =>
    if bits mod 18 6 ≠ 0 || galoisBad l g then endBad s q e stRange
    else
      let s := noteG s i g
      match limbCase l e (bits mod 24 7) with
      | .error st => endBad s q e st
      | .ok (a, d) => firstAccess s s q i e (autoRun k i e l a d s)

def execAuto (k : Gl) (s : State) : Out := .next (engineRow s k 2 0x41 (autoOp k))

/-- AUTOCT on a ciphertext of the cellar (R192, R197). -/
def autoctOp (k : Gl) (i : Site) (e : Entry) (s : State) : State :=
  let q : QueueId := .cluster k 2
  let g := bits e.cmd.mod 0 18
  if bits e.cmd.mod 18 14 ≠ 0 then endBad s q e stRange
  else match e.opA, e.opB, e.opD, (hhAt s e.hh).lease with
    | .desc a, .none, .desc d, some l =>
      if galoisBad l g || modeOf s e.hh ≠ 0 then endBad s q e stRange
      else
        let s := noteG s i g
        let chk (src dst : Desc) : Option Nat :=
          match sourceCheck l src none with
          | some st => some st
          | none => destCheck l dst src.slots
        match ctBegin s q e a d chk fun t => limbFeed t e.hh l with
        | .error x => ctStop s q e e.pos x
        | .ok (s, src, dst) =>
          let f := limbFeed s e.hh l src dst
          let hi := e.pos + readyRun (blockRead s q e f) f.count e.pos
          let (s, pos, stop) := ctLimbs s e.hh l src dst (autoLimb l (src.domain == 1) g) hi f.count e.pos
          match stop with
          | some x => ctStop s q e pos x
          | none => if pos < f.count then moveWaits s q e false f pos else match finishDesc s e.hh dst src src.level src.domain src.scale with
            | .ok t => endOk t q i e []
            | .error x => ctStop s q e pos x
    | _, _, _, _ => endBad s q e stRange

def execAutoct (k : Gl) (s : State) : Out := .next (engineRow s k 2 0x42 (autoctOp k))

/-- Cases 1 to 4 of the table "GATHER and SCATTER operand cases" (R198): source, destination and number of
indices. -/
def permCase (s : State) (k : Gl) (e : Entry) : Except Nat (Tensor × Tensor × Nat) :=
  if e.cmd.mod ≠ 0 then .error stRange
  else if !pmeOwnsLanding s (regionOf k) then .error stRange
  else match e.opA, e.opD with
    | .pantry a _, .pantry d _ =>
      let idx : Option Tensor := match e.opB with
        | .pantry b _ => some b
        | .cellar b _ => if modeOf s e.hh = 2 then none else some b
        | _ => none
      match idx with
      | none => .error stRange
      | some b =>
        if b.e ≠ 4 || a.e ≠ d.e then .error stRange
        else if elemCount b > 131072 then .error stRange
        else .ok (a, d, elemCount b)
    | _, _ => .error stRange

/-- The index tensor staged into the landing buffer (R149), or the state of a command that stops there. A resumed command goes
on with the faulting block (R137). -/
def stageIdx (s : State) (q : QueueId) (i : Site) (e : Entry) : Except State (List Nat) :=
  match e.opB with
  | .pantry b _ => match pRead (entryView s i e) b true with
    | (rows, none) => .ok rows.flatten
    | (_, some _) => .error (endBad s q e stSeal)
  | .cellar b sb =>
    let stop (s : State) (x : Nat) (bs : List Byte) (st : Nat) : State :=
      endEntry (upEntry s q e.hh e.seq fun y => { y with pos := x, held := bs }) q e st (blockOff b x) 2
    (List.range (blockCount b - e.pos)).foldl (fun acc j => match acc with
      | .error t => .error t
      | .ok bs =>
        let x := e.pos + j
        match blockFault s e.hh .read b sb x with
        | some (st, va) => .error (stop (recordFault s e.hh 2 st va) x bs st)
        | none => match hReadBlock s e.hh (blockVa b x) (blockBytes b x) (blockSl b sb x) with
          | .ok y => .ok (bs ++ y)
          | .error .badSeal => .error (endBad s q e stSeal)
          | .error (.mem m) => .error (stop (noteMErr s e.hh 9 m) x bs m.status)) (Except.ok e.held) |>.map (elems 4)
  | _ => .error s

/-- A command that waits at its first read, or is suspended while it stages, keeps its landing buffer; a finished one gives
it back. -/
def permEnd (s : State) (q : QueueId) (k : Gl) (e : Entry) : State :=
  if (qEnts s q).any fun x => x.seq == e.seq && (x.phase == .faulted || x.phase == .running) then s else freeLandingOf s k

/-- The destination rows of a SCATTER: element i of the source goes to index idx[i], the higher i standing at
a duplicate (R149). -/
def scatterRows (inner : Nat) (old : List (List Nat)) (idx src : List Nat) : List (List Nat) :=
  (idx.zip src).foldl (fun rows e => rows.set (e.1 / inner) ((rows.getD (e.1 / inner) []).set (e.1 % inner) e.2)) old
/-- Blocks of a SCATTER's destination that an index reaches (R199). -/
def scatterReach (d : Tensor) (idx : List Nat) (r j : Nat) : Bool :=
  idx.any fun x => x / d.inner == r && x % d.inner * d.e / 4096 == j
/-- A reached block keeps elements that no index names: it is read back whole, and its seal does not match (R25, R199). -/
def scatterBad (v : PView) (d : Tensor) (idx : List Nat) (r j : Nat) : Bool :=
  let per := 4096 / d.e
  let len := blockLen (rowBytes d) j
  let a := rowAddr d r
  scatterReach d idx r j && decide (len = 4096) && decide (a % 128 = 0) &&
    ((List.range per).any fun x => !idx.contains (r * d.inner + per * j + x)) &&
    !sealOk v (a + 4096 * j) (spRead 0 v.bytes (a + 4096 * j) 4096)

/-- GATHER and SCATTER on a source that is read (R149, R199). Blocks are written in ascending order up to one whose old
contents do not verify (R26). -/
def permRun (scatter : Bool) (k : Gl) (i : Site) (e : Entry) (a d : Tensor) (idx : List Nat) (s : State) : State :=
  let q : QueueId := .cluster k 2
  match pRead (entryView s i e) a true with
  | (_, some _) => endBad s q e stSeal
  | (rows, none) =>
    let src := rows.flatten
    let v := viewOf (siteAt s i)
    let out := if scatter then scatterRows d.inner (pRead v d false).1 idx src
      else (List.range (rowCount d)).map fun r => (List.range d.inner).map fun x =>
        src.getD (idx.getD (r * d.inner + x) 0) 0
    let bt := (opTensor e.opB).getD a
    let out := overlapFree s.fresh a d (match e.opB with
      | .pantry _ _ => overlapFree (s.fresh + 1) bt d out
      | _ => out)
    let nb := rowBlocks d
    let bad := if scatter then (List.range (blockCount d)).find? fun b => scatterBad v d idx (b / nb) (b % nb) else none
    let reach (r j : Nat) : Bool := (!scatter || scatterReach d idx r j) && decide (r * nb + j < bad.getD (blockCount d))
    let s := upSite s i fun c => pWrite c d out reach (readyAt s i e)
    match bad with
    | some _ => endBad s q e stSeal
    | none => endOk s q i e (rowRanges e.opA ++ rowRanges e.opB)

/-- Cases 5 to 7 of the table "GATHER and SCATTER operand cases", on the staged indices (R198). -/
def permStaged (scatter : Bool) (k : Gl) (i : Site) (e : Entry) (a d : Tensor) (n : Nat) (s : State) : State :=
  let q : QueueId := .cluster k 2
  match stageIdx s q i e with
  | .error t => t
  | .ok idx =>
    match (idx.zip (List.range idx.length)).find? fun x => decide (elemCount (if scatter then d else a) ≤ x.1) with
    | some x => endBad (evPm s i fun m => { m with errSeq := e.seq, errPos := x.2, evIdx := true }) q e stRange
    | none =>
      if elemCount (if scatter then a else d) ≠ n then endBad s q e stShape
      else permRun scatter k i e a d idx s

/-- GATHER and SCATTER (R149, R198, R199). -/
def permOp (scatter : Bool) (k : Gl) (i : Site) (e : Entry) (s : State) : State :=
  let q : QueueId := .cluster k 2
  permEnd (match permCase s k e with
  | .error st => endBad s q e st
  | .ok (a, d, n) => firstAccess s s q i e (permStaged scatter k i e a d n s)) q k e

def execGather (k : Gl) (s : State) : Out := .next (engineRow s k 2 0x43 (permOp false k))
def execScatter (k : Gl) (s : State) : Out := .next (engineRow s k 2 0x44 (permOp true k))

end Sys2Proof.Machine
end

