-- ==== Sys2Proof/Machine/Vxe.lean ====
section
/-! DEFINITION. The vector engine: chain programs, CHAIN, CHACC, CHLOAD, KLOAD, RESCALECT and the delivery
of summaries (R115, R116, R202-R221). -/

namespace Sys2Proof.Machine

/- Micro-operations (R208). -/

def uopCode (w : Nat) : Nat := bits w 26 6
def uopD (w : Nat) : Nat := bits w 23 3
def uopA (w : Nat) : Nat := bits w 20 3
def uopB (w : Nat) : Nat := bits w 17 3
def uopImm (w : Nat) : Nat := bits w 0 16

/-- Which of VD, VA and VB a code uses, and how many low bits of IMM; none for an unassigned code. -/
def uopFields (c : Nat) : Option (Bool × Bool × Bool × Nat) :=
  if c = 0x00 then some (false, false, false, 0)
  else if c = 0x01 ∨ c = 0x02 ∨ c = 0x05 ∨ c = 0x06 then some (true, false, false, 0)
  else if c = 0x03 then some (true, false, false, 4)
  else if c = 0x04 then some (true, false, false, 16)
  else if c = 0x07 ∨ c = 0x0C ∨ c = 0x0D then some (true, true, false, 0)
  else if 0x08 ≤ c ∧ c ≤ 0x0B then some (true, true, true, 0)
  else if c = 0x13 ∨ c = 0x14 then some (true, true, false, 5)
  else if 0x10 ≤ c ∧ c ≤ 0x19 then some (true, true, true, 0)
  else if 0x20 ≤ c ∧ c ≤ 0x22 then some (true, true, true, 0)
  else if c = 0x23 then some (true, true, false, 1)
  else if c = 0x30 then some (false, true, false, 2)
  else if c = 0x31 then some (false, true, false, 0)
  else none

/-- The code is assigned and every field it does not use is zero. -/
def uopOk (w : Nat) : Bool := match uopFields (uopCode w) with
  | none => false
  | some (d, a, b, n) =>
    (d || uopD w == 0) && (a || uopA w == 0) && (b || uopB w == 0) && bits w 16 1 == 0 && decide (uopImm w < 2 ^ n)

/-- Micro-operations before the first END (R208). -/
def progOps (ws : List Nat) : List Nat := ws.takeWhile fun w => uopCode w != 0
def hasUop (ws : List Nat) (c : Nat) : Bool := (progOps ws).any fun w => uopCode w == c
/-- A modular micro-operation occurs. -/
def hasModular (ws : List Nat) : Bool :=
  (progOps ws).any fun w => uopCode w == 0x03 || (decide (0x08 ≤ uopCode w) && decide (uopCode w ≤ 0x0D))

/-- R209, with END's own unused fields. -/
def progOk (ws : List Nat) : Bool :=
  let ops := progOps ws
  !ops.isEmpty && ops.all uopOk && (ops.filter fun w => uopCode w == 0x31).length == 1 &&
    decide ((ops.filter fun w => uopCode w == 0x30).length ≤ 1) &&
    (match ws.find? fun w => uopCode w == 0 with
      | some w => uopOk w
      | none => true)

/-- What one element of a row sees: modulus, constants, source words, i0, VL, and the occasion and number of
its free values. -/
structure LaneEnv where
  q : Option Nat
  consts : List Nat
  a : Nat
  b : Nat
  i0 : Nat
  vl : Nat
  occ : Nat
  n : Nat
deriving DecidableEq, Repr

/-- Two FP32 values: the larger (R208); of two zeros of different sign a free one, which the spec leaves open. -/
def f32Max (pick : Bool) (x y : Nat) : Nat := match fDecode fp32 x, fDecode fp32 y with
  | .nan, _ => canonNan
  | _, .nan => canonNan
  | a, b => if fCmp a b < 0 then y else if fCmp a b = 0 && pick then y else x

/-- FP32 to INT32, to nearest with ties to even, saturating; the result for a NaN is free (log 12). -/
def f32ToInt (occ n v : Nat) : Nat := match fDecode fp32 v with
  | .nan => (Config.freeWordAt occ n).toNat % 2 ^ 32
  | x => satInt 32 (fToInt x)

/-- Value of a micro-operation that writes VD, from the registers. -/
def uopValue (v : LaneEnv) (r : List Nat) (w : Nat) : Nat :=
  let d := r.getD (uopD w) 0
  let a := r.getD (uopA w) 0
  let b := r.getD (uopB w) 0
  let q := v.q.getD (2 ^ 32)
  let f (x : Nat) : FVal := fDecode fp32 (flushSub fp32 x)
  let c := uopCode w
  if c = 0x01 then v.a
  else if c = 0x02 then v.b
  else if c = 0x03 then v.consts.getD (uopImm w) 0 % q
  else if c = 0x04 then uopImm w % q
  else if c = 0x05 then v.i0
  else if c = 0x06 then v.vl
  else if c = 0x07 then a
  else if c = 0x08 then (a + b) % q
  else if c = 0x09 then (((a : Int) - b) % (q : Int)).toNat
  else if c = 0x0A then a * b % q
  else if c = 0x0B then (d + a * b) % q
  else if c = 0x0C then (((q : Int) - a) % (q : Int)).toNat
  else if c = 0x0D then (a + (q - 1) / 2) % q
  else if c = 0x10 then (a + b) % 2 ^ 32
  else if c = 0x11 then wrapTo 32 ((a : Int) - b)
  else if c = 0x12 then a * b % 2 ^ 32
  else if c = 0x13 then wrapTo 32 (sext 32 a / (2 ^ uopImm w : Nat))
  else if c = 0x14 then a * 2 ^ uopImm w % 2 ^ 32
  else if c = 0x15 then a &&& b
  else if c = 0x16 then (if sext 32 a ≤ sext 32 b then a else b)
  else if c = 0x17 then (if sext 32 b ≤ sext 32 a then a else b)
  else if c = 0x18 then b2n (decide (sext 32 a < sext 32 b))
  else if c = 0x19 then (if b ≠ 0 then a else d)
  else if c = 0x20 then (fAdd fp32 (f a) (f b)).getD canonNan
  else if c = 0x21 then (fMul fp32 (f a) (f b)).getD canonNan
  else if c = 0x22 then f32Max (Config.freeBool v.occ v.n) (flushSub fp32 a) (flushSub fp32 b)
  else if c = 0x23 then
    (if uopImm w = 0 then fRoundInt fp32 false (sext 32 a) 0 else f32ToInt v.occ v.n (flushSub fp32 a))
  else d

/-- Lane registers and results of a program on one element: registers, the word stored, the word summed. -/
structure Lane where
  r : List Nat
  st : Nat
  sum : Option Nat
deriving DecidableEq, Repr

def laneStep (v : LaneEnv) (l : Lane) (w : Nat) : Lane :=
  let a := l.r.getD (uopA w) 0
  if uopCode w = 0x30 then { l with sum := some a }
  else if uopCode w = 0x31 then { l with st := a }
  else { l with r := l.r.set (uopD w) (uopValue v l.r w) }

/-- A program on one element (R203). -/
def runLane (v : LaneEnv) (ops : List Nat) : Lane := ops.foldl (laneStep v) ⟨List.replicate 8 0, 0, none⟩

/- Element formats (R210). -/

def fmtReserved (e code : Nat) : Bool := code == 3 || (e == 2 && code == 2)
/-- An element as a 32-bit word. -/
def fmtRead (e code v : Nat) : Nat :=
  if e = 4 then v
  else if e = 2 then (if code = 0 then wrapTo 32 (sext 16 v) else toF32 bf16 v)
  else if code = 0 then wrapTo 32 (sext 8 v)
  else if code = 1 then e4m3ToF32 v
  else toF32 e5m2 v
/-- A 32-bit word as an element. -/
def fmtWrite (e code v : Nat) : Nat :=
  if e = 4 then v
  else if e = 2 then (if code = 0 then satInt 16 (sext 32 v) else narrowF32 bf16 0x7FC0 v)
  else if code = 0 then satInt 8 (sext 32 v)
  else if code = 1 then narrowE4m3 v
  else narrowF32 e5m2 0x7E v

/- Summaries (R212). -/

def summaryOf (kind : Nat) (vs : List Nat) : Nat :=
  match kind with
  | 0 => vs.foldl (· + ·) 0 % 2 ^ 64
  | 1 => vs.foldl max 0
  | 2 =>
    if vs.any fun v => fDecode fp32 v == .nan then canonNan
    else vs.foldl (fun m v =>
      if fCmp (fDecode fp32 m) (fDecode fp32 v) < 0 then v
      else if fCmp (fDecode fp32 m) (fDecode fp32 v) = 0 && decide (v < m) then v else m) 0xFF800000
  | _ => (vs.filter (· != 0)).length

/- Operand cases (R217). -/

/-- Fields of the chain modifier. -/
structure ChainMod where
  msrc : Nat
  pos : Nat
  mset : Nat
  slot : Fin 16
  sumen : Bool
  infmt : Nat
  outfmt : Nat
  tag : Nat
deriving DecidableEq, Repr

def chainMod (m : Nat) : ChainMod :=
  ⟨bits m 30 2, bits m 23 7, bits m 20 3, ⟨bits m 16 4, by unfold bits; omega⟩, m.testBit 15, bits m 13 2, bits m 11 2, bits m 0 8⟩

def chainModOk (m : Nat) : Bool :=
  let x := chainMod m
  decide (x.msrc ≠ 3) && bits m 8 3 == 0 && (x.msrc == 0 || x.pos == 0) && (x.msrc == 1 || x.mset == 0)

/-- Modulus and chain position of row c (R205); none for a cleartext command or a position that has none. -/
def rowPrime (s : State) (i : Site) (h : Hh) (l : Lease) (x : ChainMod) (c : Nat) : Option (Nat × Nat) :=
  match x.msrc with
  | 0 => if x.pos + c < chainLen l then some (chainPrime l (x.pos + c), x.pos + c) else none
  | 1 =>
    let m := (setAt s i h).msets.get ⟨x.mset % 8, by omega⟩
    let id := m.cols.getD c 0xFF
    if m.valid && decide (c < 512) && id != 0xFF then (primeOfId l id).map fun q => (q, posOfId l id) else none
  | _ => none

/-- Constants of a chain position. -/
def constsAt (s : State) (i : Site) (h : Hh) (pos : Nat) : Option (List Nat) := match fin? 76 pos with
  | some x => (setAt s i h).consts.get x
  | none => none

/-- Case 2 of the table "CHAIN operand cases": the program. -/
def chainProgBad (s : State) (i : Site) (e : Entry) (x : ChainMod) : Bool :=
  let p := (setAt s i e.hh).progs.get x.slot
  !p.valid || (hasUop p.words 0x02 && e.opB == .none) || (x.msrc == 2 && hasModular p.words) ||
    (x.sumen && !hasUop p.words 0x30)

/-- Case 3 for one operand. -/
def chainFmtBad (x : ChainMod) (code : Nat) : Opnd → Bool
  | .pantry t _ => (decide (x.msrc ≠ 2) && decide (t.e ≠ 4)) || fmtReserved t.e code
  | _ => false

/-- Case 4: moduli and constants. -/
def chainModuliBad (s : State) (i : Site) (e : Entry) (l : Lease) (x : ChainMod) (rows : Nat) : Bool :=
  let p := (setAt s i e.hh).progs.get x.slot
  x.msrc != 2 && (List.range rows).any fun c => match rowPrime s i e.hh l x c with
    | none => true
    | some (_, pos) => hasUop p.words 0x03 && (constsAt s i e.hh pos).isNone

/-- A source fits the destination (case 5). -/
def chainFits (d : Tensor) : Opnd → Bool
  | .pantry t _ => (t.inner == d.inner || t.inner == 1) && t.c1 == d.c1 && t.c2 == d.c2
  | _ => true

/-- Operand cases of CHAIN and CHACC; `acc` is the line base and layout of a CHACC. -/
def chainCase (s : State) (i : Site) (e : Entry) (isAcc : Bool) : Except Nat (ChainMod × Lease × Tensor × Nat × Nat) :=
  let x := chainMod e.cmd.mod
  let formA : Option (Nat × Nat) := match e.opA with
    | .pantry _ _ => if isAcc then none else some (0, 0)
    | .imm v => if isAcc && bits v 12 18 == 0 then some (bits v 30 2, bits v 0 12) else none
    | _ => none
  let formB := match e.opB with
    | .pantry _ _ => true
    | .imm _ => true
    | .none => true
    | _ => false
  match formA, e.opD, (hhAt s e.hh).lease with
  | some (lay, base), .pantry d _, some l =>
    if !chainModOk e.cmd.mod || !formB then .error stRange
    else if isAcc && accPast lay base d then .error stRange
    else if chainProgBad s i e x then .error stRange
    else if (!isAcc && chainFmtBad x x.infmt e.opA) || chainFmtBad x x.infmt e.opB || chainFmtBad x x.outfmt e.opD then .error stRange
    else if isAcc && (decide (x.infmt > 1) || (decide (x.msrc ≠ 2) && decide (x.infmt ≠ 0))) then .error stRange
    else if chainModuliBad s i e l x (rowCount d) then .error stRange
    else if chainFits d e.opA && chainFits d e.opB && (!isAcc || lay == 3 || (decide (d.inner ≤ 4096) && decide (rowCount d ≤ shapeWidth lay))) then
      .ok (x, l, d, lay, base)
    else .error stShape
  | _, _, _ => .error stRange

/- CHAIN and CHACC (R202-R213, R217). -/

/-- Source rows as 32-bit words; none for no operand; a seal mismatch gives the row where it is met. -/
def chainSource (v : PView) (o : Opnd) (code rows : Nat) : List (List Nat) × Option Nat := match o with
  | .pantry t _ => let (r, b) := pRead v t true
    (r.map fun x => x.map (fmtRead t.e code), b)
  | .imm w => (List.replicate rows [w], none)
  | _ => ([], none)

/-- Word of a source row at element i0, a row of one word supplying every element (R204). -/
def srcWord (rows : List (List Nat)) (r i0 : Nat) : Nat :=
  let x := rows.getD r []
  if x.length = 1 then x.headD 0 else x.getD i0 0

/-- Value LDA loads in a CHACC (R211). -/
def accLoad (x : ChainMod) (q : Option Nat) (entry : Nat) : Nat := match q with
  | some m => entry % m
  | none => if x.infmt = 0 then satInt 32 (sext 80 entry) else entry % 2 ^ 32

/-- Lanes of every element of the destination, by rows. -/
def chainLanes (s : State) (i : Site) (e : Entry) (x : ChainMod) (l : Lease) (d : Tensor)
    (aWord : Nat → Nat → Option Nat → Nat) (bRows : List (List Nat)) : List (List (Lane × Option Nat)) :=
  let p := (setAt s i e.hh).progs.get x.slot
  let ops := progOps p.words
  (List.range (rowCount d)).map fun r =>
    let m := rowPrime s i e.hh l x r
    let q := m.map Prod.fst
    let cs := (m.bind fun y => constsAt s i e.hh y.2).getD []
    (List.range d.inner).map fun i0 =>
      let b := srcWord bRows r i0
      let env : LaneEnv := ⟨q, cs, aWord r i0 q, (match q with
        | some y => b % y
        | none => b), i0, min 512 (d.inner - i0 / 512 * 512), s.fresh, r * d.inner + i0⟩
      (runLane env ops, q)

/-- CHAIN and CHACC on operands that pass: the program runs on each element, results go to the destination up to the first
bad entry or row. -/
def chainRun (isAcc : Bool) (u : AccUpset) (k : Gl) (i : Site) (e : Entry) (x : ChainMod) (l : Lease) (d : Tensor) (lay base : Nat)
    (s : State) : State :=
    let q : QueueId := .cluster k 3
    let v := entryView s i e
    let rows := rowCount d
    let (ar, badA) := if isAcc then ([], none) else chainSource v e.opA x.infmt rows
    let (br, badB) := chainSource v e.opB x.infmt rows
    let aWord (r i0 : Nat) (m : Option Nat) : Nat :=
      if isAcc then accLoad x m (entryAcc s i e (accOfElem lay base (r * d.inner + i0) i0 r))
      else match m with
        | some y => srcWord ar r i0 % y
        | none => srcWord ar r i0
    let p := (setAt s i e.hh).progs.get x.slot
    let lanes := chainLanes s i e x l d aWord br
    let out := lanes.map fun r => r.map fun y => match y.2 with
      | some m => y.1.st % m
      | none => fmtWrite d.e x.outfmt y.1.st
    let free (occ : Nat) (o : Opnd) (t : List (List Nat)) : List (List Nat) := match o with
      | .pantry a _ => overlapFree occ a d t
      | _ => t
    let out := free s.fresh e.opA (free (s.fresh + 1) e.opB out)
    let bad := match badA, badB with
      | some a, some b => some (min a b)
      | some a, none => some a
      | none, b => b
    match bad with
    | some r0 =>
      endBad (upSite s i fun c => pWrite c d out (fun r _ => decide (r < r0)) (readyAt s i e)) q e stSeal
    | none =>
      let u := if isAcc && hasUop p.words 0x01 then u else []
      let limit := accLimit u (elemCount d)
      let epb := 4096 / d.e
      let s := upSite s i fun c => pWrite c d out
        (fun r j => decide (r * d.inner + min (epb * (j + 1)) d.inner ≤ limit)) (readyAt s i e)
      let s := accNote s i u (elemCount d)
      if limit < elemCount d then
        endEntry (evVx s i fun m => { m with evAccFail := true }) q e stAbft (d.e * limit) 3
      else
        let vals := (lanes.flatten.filterMap fun y => y.1.sum)
        let kind := ((progOps p.words).find? fun w => uopCode w == 0x30).elim 0 fun w => bits w 0 2
        let s := if x.sumen then upEntry s q e.hh e.seq fun y => { y with summary := some (summaryOf kind vals) } else s
        endOk s q i e (rowRanges e.opA ++ rowRanges e.opB)

/-- CHAIN and CHACC (R217). -/
def chainOp (isAcc : Bool) (u : AccUpset) (k : Gl) (i : Site) (e : Entry) (s : State) : State :=
  let q : QueueId := .cluster k 3
  match chainCase s i e isAcc with
  | .error st => endBad s q e st
  | .ok (x, l, d, lay, base) => firstAccess s s q i e (chainRun isAcc u k i e x l d lay base s)

def execChain (k : Gl) (s : State) : Out := .next (engineRow s k 3 0x61 (chainOp false [] k))
def execChacc (k : Gl) (u : AccUpset) (s : State) : Out := .next (engineRow s k 3 0x62 (chainOp true u k))

/- CHLOAD and KLOAD (R206, R207, R216). -/

/-- Case 1, and the source. -/
def loadForm (e : Entry) (reserved : Nat) : Option Tensor :=
  if reserved ≠ 0 then none
  else match e.opA, e.opB, e.opD with
    | .pantry a _, .none, .none => if a.e = 4 then some a else none
    | _, _, _ => none

def chloadOp (k : Gl) (i : Site) (e : Entry) (s : State) : State :=
  let q : QueueId := .cluster k 3
  match loadForm e (bits e.cmd.mod 4 28) with
  | none => endBad s q e stRange
  | some a =>
    if a.inner > 32 || rowCount a ≠ 1 then endBad s q e stRange
    else firstAccess s s q i e <| match pRead (entryView s i e) a true with
      | (_, some _) => endBad s q e stSeal
      | (rows, none) =>
        let ws := rows.flatten ++ List.replicate (32 - a.inner) 0
        if !progOk ws then endBad s q e stRange
        else
          let n : Fin 16 := ⟨e.cmd.mod % 16, by omega⟩
          endOk (upSet s i e.hh fun t => { t with progs := t.progs.set n.val ⟨true, ws⟩ n.isLt }) q i e (rowRanges e.opA)

def execChload (k : Gl) (s : State) : Out := .next (engineRow s k 3 0x63 (chloadOp k))

/-- Constant rows of positions pos0 on are stored and become valid. -/
def setConsts (t : HSet) (pos0 : Nat) (rows : List (List Nat)) : HSet :=
  (rows.zip (List.range rows.length)).foldl (fun t r => match fin? 76 (pos0 + r.2) with
    | some x => { t with consts := t.consts.set x.val (some r.1) x.isLt }
    | none => t) t

def kloadOp (k : Gl) (i : Site) (e : Entry) (s : State) : State :=
  let q : QueueId := .cluster k 3
  let pos0 := bits e.cmd.mod 23 7
  match loadForm e (bits e.cmd.mod 0 23 + bits e.cmd.mod 30 2), (hhAt s e.hh).lease with
  | some a, some l =>
    if a.inner ≠ 16 || pos0 + rowCount a > chainLen l then endBad s q e stRange
    else firstAccess s s q i e <| match pRead (entryView s i e) a true with
      | (_, some _) => endBad s q e stSeal
      | (rows, none) => endOk (upSet s i e.hh fun t => setConsts t pos0 rows) q i e (rowRanges e.opA)
  | _, _ => endBad s q e stRange

def execKload (k : Gl) (s : State) : Out := .next (engineRow s k 3 0x64 (kloadOp k))

/- RESCALECT (R39, R218, R219). -/

/-- One drop: the limbs of a part at level limbs.length lose the last (R218). -/
def dropOne (l : Lease) (limbs : List (List Nat)) : List (List Nat) :=
  let lv := limbs.length
  let qd := l.primes.getD (lv - 1) 1
  let h := (qd - 1) / 2
  let last := limbs.getLastD []
  (List.range (lv - 1)).map fun i =>
    let qi := l.primes.getD i 1
    let inv := invMod (qd % qi) qi
    ((limbs.getD i []).zip last).map fun w =>
      let c := (w.2 % qd + h) % qd
      (w.1 % qi + qi - c % qi + h % qi) % qi * inv % qi

/-- The scale decrement of the primes q_lo … q_(hi−1), as the lease gives it (R39). -/
def scaleDrop (l : Lease) (lo hi : Nat) : Nat := ((List.range (hi - lo)).map fun j => l.decs.getD (lo + j) 0).foldl (· + ·) 0

/-- First translation failure among the slots of a part, below n of them. -/
def partFault (s : State) (h : Hh) (n : Nat) (d : Desc) (p cnt : Nat) (acc : Acc) : Option (Nat × Nat) :=
  (List.range cnt).findSome? fun i => limbFault s h n d p i acc

/-- What a RESCALECT that drops m primes asks for, part by part (R192, R218, R223). -/
def partFeed (s : State) (h : Hh) (l : Lease) (src dst : Desc) (m : Nat) : Feed :=
  let n := ringN l
  { count := src.parts
    spans := fun p => (List.range src.level).flatMap fun i => limbSpans n src p i
    ok := fun p => (partFault s h n src p src.level .read).isNone && (partFault s h n dst p (src.level - m) .write).isNone }
def readPart (s : State) (h : Hh) (n : Nat) (d : Desc) (p cnt : Nat) : Except CtStop (List (List Nat)) :=
  (List.range cnt).foldl (fun acc i => match acc with
    | .error e => .error e
    | .ok ls => match readLimb s h n d p i with
      | .ok ws => .ok (ls ++ [ws])
      | .error e => .error e) (.ok [])

def writePart (s : State) (h : Hh) (n : Nat) (d : Desc) (p : Nat) (limbs : List (List Nat)) : State × Option CtStop :=
  (limbs.zip (List.range limbs.length)).foldl (fun acc e => match acc.2 with
    | some _ => acc
    | none => writeLimb acc.1 h n d p e.2 e.1) (s, none)

/-- The parts of a RESCALECT from `pos` on, m primes dropped (R218). -/
def rescaleParts (s : State) (h : Hh) (l : Lease) (src dst : Desc) (m : Nat) : Nat → Nat → State × Nat × Option CtStop
  | 0, p => (s, p, none)
  | fuel + 1, p =>
    let n := ringN l
    if p ≥ src.parts then (s, p, none)
    else match partFault s h n src p src.level .read with
      | some (st, va) => (s, p, some ⟨st, src.slotOff n p 0, 1, some va⟩)
      | none => match partFault s h n dst p (src.level - m) .write with
        | some (st, va) => (s, p, some ⟨st, dst.slotOff n p 0, 3, some va⟩)
        | none => match readPart s h n src p src.level with
          | .error e => (s, p, some e)
          | .ok limbs =>
            let out := if m = 2 then dropOne l (dropOne l limbs) else dropOne l limbs
            match writePart s h n dst p out with
            | (t, some e) => (t, p, some e)
            | (t, none) => rescaleParts t h l src dst m fuel (p + 1)

def rescalectOp (k : Gl) (i : Site) (e : Entry) (s : State) : State :=
  let q : QueueId := .cluster k 3
  let m := if e.cmd.mod.testBit 0 then 2 else 1
  if bits e.cmd.mod 1 31 ≠ 0 then endBad s q e stRange
  else match e.opA, e.opB, e.opD, (hhAt s e.hh).lease with
    | .desc a, .none, .desc d, some l =>
      if modeOf s e.hh ≠ 0 then endBad s q e stRange
      else
        let chk (src dst : Desc) : Option Nat :=
          match sourceCheck l src (some 0) with
          | some st => some st
          | none =>
            if src.level ≤ m then some stLevel
            else if src.special ≠ 0 then some stRange
            else destCheck l dst (src.level - m)
        match ctBegin s q e a d chk fun t src dst => partFeed t e.hh l src dst m with
        | .error x => ctStop s q e e.pos x
        | .ok (s, src, dst) =>
          let f := partFeed s e.hh l src dst m
          let (s, pos, stop) := rescaleParts s e.hh l src dst m (readyRun (blockRead s q e f) f.count e.pos) e.pos
          match stop with
          | some x => ctStop s q e pos x
          | none => if pos < f.count then moveWaits s q e false f pos else
            let scale := wrapTo 32 ((src.scale : Int) - scaleDrop l (src.level - m) src.level)
            match finishDesc s e.hh dst src (src.level - m) 0 scale with
            | .ok t => endOk t q i e []
            | .error x => ctStop s q e pos x
    | _, _, _, _ => endBad s q e stRange

def execRescalect (k : Gl) (s : State) : Out := .next (engineRow s k 3 0x65 (rescalectOp k))

/- Delivery of summaries (R115, R116, R213). -/

/-- The core that receives the summary of a command. -/
def summaryCore (k : Gl) (e : Entry) : Rg := e.core.getD (regionOf k)

/-- The oldest VXE command whose summary is still to be delivered. -/
def summaryDue (s : State) (k : Gl) : Option Entry := (qEnts s (.cluster k 3)).find? owesSummary

def deliverSummary (s : State) (k : Gl) : State :=
  match liveSet s k, summaryDue s k with
  | some (i, _), some e =>
    let q : QueueId := .cluster k 3
    let r := summaryCore k e
    let sq := (coreAt s r).sumqs.get e.hh
    if queueFrozen s q then s
    else if sq.ents.length ≥ 32 then
      if e.sumStalled then s
      else
        let s := upCore s r fun c => { c with sumqs := vmod c.sumqs e.hh fun x => { x with full := true } }
        let s := regBell (evVx s i fun m => { m with stalls := satInc 16 m.stalls, evSumStall := true }) r
        stallOf (upEntry s q e.hh e.seq fun x => { x with sumStalled := true }) q e.hh .summaryFull
    else
      let it : Summary := ⟨if e.status == stOk then e.summary.getD 0 else 0, e.seq, k.val, bits e.cmd.mod 0 8, e.status⟩
      let s := upCore s r fun c => { c with sumqs := vmod c.sumqs e.hh fun x => { x with ents := x.ents ++ [it] } }
      let s := upSite s i fun c => { c with vx := { c.vx with sent := wrapInc 32 c.vx.sent } }
      let s := if sq.ents.length + 1 = sq.thresh then raise s (hhSrc e.hh (8 + r.val)) else s
      thaw (upEntry s q e.hh e.seq fun x => { x with summary := none, sumStalled := false }) q
  | _, _ => s

def execSummaryDeliver (k : Gl) (s : State) : Out := .next (deliverSummary s k)

end Sys2Proof.Machine
end

