-- ==== Sys2Proof/Machine/Xsq.lean ====
section
/-! DEFINITION. The execute sequencer: start, stop, resume, record fetch, control records and issue
(R142-R148, R152, R460). -/

namespace Sys2Proof.Machine

/-- The sequencer's share of the household that the cluster serves. -/
def upXsq (s : State) (i : Site) (h : Hh) (f : Xsq → Xsq) : State := upSet s i h fun t => { t with xsq := f t.xsq }

/-- A wait of the sequencer is counted, in timed mode also by the compute engines, as the cluster freezes (R144, R416). -/
def xsqFreeze (s : State) (i : Site) (h : Hh) (c : FreezeCause) : State :=
  let timed := modeOf s h == 2
  let s := tickFresh (stallUnits s i (if timed then [0, 1, 2, 3, 5] else [5]) (freezeCode c) (freeWait s))
  if timed then setFrozen s i (some (c, 5)) else s
def xsqThaw (s : State) (i : Site) : State := if frozenFor s i 5 then s else setFrozen s i none

/-- The sequencer goes on to a record; a miss freezes a timed cluster until the line has come (R143, R144). -/
def xsqGoto (s : State) (i : Site) (h : Hh) (pc : Nat) : State :=
  let s := upXsq s i h fun x => { x with pc := pc }
  let x := (setAt s i h).xsq
  if x.run && (xsqBytes x pc).isNone then xsqFreeze s i h .cacheMiss else s

/-- The sequencer that may process its next record, with that record; none while it is stopped, suspended,
halting, kept by a status word, missing the line, or frozen by another unit. -/
def xsqNext (s : State) (k : Gl) : Option (Site × Hh × Record) :=
  match liveSet s k with
  | none => none
  | some (i, h) =>
    let x := (setAt s i h).xsq
    if !x.run || x.suspended || x.halting || x.due.isSome || (siteAt s i).inReset || frozenFor s i 5 || stopping s k then none
    else (xsqBytes x x.pc).map fun bs => (i, h, recordOf bs)

/-- The start ramp of a timed household, from step 0 (R145): its ACLK are counted under POWER_RAMP, and the first record
comes after it. -/
def startRamp (s : State) (i : Site) (h : Hh) : State :=
  let n := (siteAt s i).mx.ramp
  upSite (stallUnits s i (waitUnits s h 0) scRamp n) i fun c => { c with
    inflight := [], accFly := [], mx := { c.mx with step := 0, rampUp := true, rampDown := false, rampNow := n } }

/-- START, STOP and RESUME of XSQ_CTRL (R143, R145, R152). -/
def xsqStartOp (s : State) (k : Gl) (entry : Nat) : State :=
  match liveSet s k with
  | none => s
  | some (i, h) =>
    let s := upXsq s i h fun x => { x with entry := entry }
    let x := (setAt s i h).xsq
    if x.run || x.suspended || x.halting || x.due.isSome || modeOf s h == 0 || (hhAt s h).lease.isNone then s
    else
      let s := upXsq s i h fun x => { x with
        run := true, pc := entry, checks := 0, processed := 0, loops := [], pend := [], cache := [], tPrev := 0,
        accept := .replicate 5 0, gen := .replicate 64 0, adv := [] }
      xsqGoto (if modeOf s h == 2 then startRamp s i h else s) i h entry

def xsqStopOp (s : State) (k : Gl) : State :=
  match liveSet s k with
  | none => s
  | some (i, h) =>
    if (setAt s i h).xsq.halting then s
    else
      let x := (setAt s i h).xsq
      let t := upXsq s i h fun x => { x with run := false, suspended := false, pend := [], loops := [] }
      settleFreeze (if x.run || x.suspended then haltRamp t i h else t) i h

def xsqResumeOp (s : State) (k : Gl) : State :=
  match liveSet s k with
  | none => s
  | some (i, h) =>
    if (setAt s i h).xsq.suspended then upXsq s i h fun x => { x with suspended := false } else s

/-- The status word of a control record or a fetch fault (R138, R143). -/
def xsqWord (s : State) (k : Gl) (h : Hh) (st opcode operand seq idx : Nat) (susp : Bool) (owner : Option (QueueId × Nat)) : State :=
  postWord s h (statusWord st opcode k.val (wordFlags h susp operand) seq 0 idx) owner
/-- Name under which a word of the sequencer waits for the ring. -/
def xsqKey (k : Gl) (seq : Nat) : QueueId × Nat := (.cluster k 0, 2 ^ 32 + seq)
/-- What keeps a word from the ring, as a freeze (R139, R144). -/
def ringCause (s : State) (h : Hh) : FreezeCause := if (hhAt s h).cmd.cqFault then .fault else .ringFull

/-- A control record completes (R137, R140, R143): its doorbells are raised, and one that failed halts the sequencer, in
timed mode every compute queue too. -/
def xsqComplete (s : State) (k : Gl) (i : Site) (h : Hh) (d : XsqDue) : State :=
  let s := upXsq s i h fun x => { x with due := none, lastStatus := d.status }
  let s := if d.notify then raise s (hhSrc h 1) else s
  if d.status == stOk then s
  else
    let s := errBell s h
    let s := if modeOf s h == 2 then timedHalt s i h d.status else s
    let s := upXsq s i h fun x => { x with run := false, lastStatus := d.status, pend := [], loops := [] }
    if (hhAt s h).tx.opened && abortsGroup d.status then txAbort s h ⟨d.status, d.opcode, k.val, d.seq, d.idx⟩ true else s

/-- A control record has acted: it completes once its word, if it has one, is in the ring; until then the sequencer stalls
(R138, R139). -/
def xsqEnd (s : State) (k : Gl) (i : Site) (h : Hh) (d : XsqDue) (word : Bool) : State :=
  let key := xsqKey k d.seq
  let s := if word then xsqWord s k h d.status d.opcode 0 d.seq d.idx false (some key) else s
  if wordWaits s h key.1 key.2 then xsqFreeze (upXsq s i h fun x => { x with due := some d }) i h (ringCause s h)
  else xsqComplete s k i h d

/-- A record that fails (R137, R143). -/
def xsqFail (s : State) (k : Gl) (i : Site) (h : Hh) (opcode st : Nat) (notify : Bool) : State :=
  let x := (setAt s i h).xsq
  settleFreeze (xsqEnd (xsqThaw s i) k i h ⟨opcode, st, notify, x.processed, x.pc⟩ true) i h

/-- The record that the sequencer stalls on completes once its word is in the ring; `f` is what happens when it stalls on
none. -/
def xsqSettle (s : State) (k : Gl) (opcode : Nat → Bool) (f : State → State) : State := match liveSet s k with
  | some (i, h) => match (setAt s i h).xsq.due with
    | some d => if opcode d.opcode && !frozenFor s i 5 && !wordWaits s h (xsqKey k d.seq).1 (xsqKey k d.seq).2 then
        xsqGoto (settleFreeze (xsqComplete (xsqThaw s i) k i h d) i h) i h (setAt s i h).xsq.pc
      else s
    | none => f s
  | none => s

/-- A miss fetches the aligned 1 KiB of program, or suspends the sequencer on a fault (R143). -/
def xsqFillOp (s : State) (k : Gl) : State := xsqSettle s k (· == 0xFB) fun s =>
  match liveSet s k with
  | none => s
  | some (i, h) =>
    let x := (setAt s i h).xsq
    if !x.run || x.suspended || (xsqBytes x x.pc).isSome || frozenFor s i 5 then s
    else
      let line := xsqAddr x x.pc / 1024
      let va := 1024 * line
      match hRead s h true .read va 1024 with
      | .ok bs =>
        let keep := if x.cache.length < 64 then x.cache else x.cache.eraseIdx (Config.freeNat s.fresh % 64)
        xsqThaw (tickFresh (upXsq (cachePages s h (tlbUnit 1 k.val) [va]) i h fun y => { y with cache := (line, bs) :: keep })) i
      | .error (.fault st a) =>
        let s := xsqWord (recordFault s h 1 st a) k h st 0xFB 0 ((x.processed + 1) % 2 ^ 32) x.pc true none
        xsqFreeze (upXsq (errBell s h) i h fun y => { y with suspended := true, lastStatus := st }) i h .fault
      | .error e => xsqFail (noteMErr s h 1 e) k i h 0xFB e.status false

/-- A record counts as processed (R138). The start ramp is over (R145). -/
def xsqCount (s : State) (i : Site) (h : Hh) : State :=
  let s := if modeOf s h == 2 && (siteAt s i).mx.rampUp then upSite s i fun c => { c with mx := { c.mx with rampUp := false, step := 7 } } else s
  upXsq s i h fun x => { x with processed := wrapInc 32 x.processed }

/-- Decode of a control record: rows 2 to 4 (R132, R460); `modMask` keeps the MOD bits its row names. -/
def controlBad (timed : Bool) (r : Record) (modFree : Nat) : Option Nat :=
  let row2 := bits r.ctrl 3 2 != 0 || (!timed && (r.wait != 0 || r.signal != 0)) ||
    (if r.op = 3 then !r.handoff || decide (r.hq < 6) else r.handoff || r.hq != 0) ||
    (timed && (if r.op = 4 then r.delta != 0 else r.delta == 0))
  if row2 then some stBadOpcode
  else if r.opb ≠ 0 || r.opd ≠ 0 || (r.op ≠ 3 && r.opa ≠ 0) || r.mod &&& modFree ≠ 0 then some stRange
  else none

/-- A control record that ran: its word and doorbell when it asks for them, LAST_STATUS OK (R138, R140). -/
def controlDone (s : State) (k : Gl) (i : Site) (h : Hh) (r : Record) (idx : Nat) : State :=
  xsqEnd (upXsq s i h fun x => { x with tPrev := x.tPrev + r.delta }) k i h ⟨r.opcode, stOk, r.notify, (setAt s i h).xsq.processed, idx⟩ r.report

/-- A control row acts on the next record when it has the row's OP. `f` gives the effect, or the status with
which the record fails. -/
def controlRow (s : State) (k : Gl) (op modFree : Nat) (f : Site → Hh → Record → State → Except Nat State) : State :=
  xsqSettle s k (· == 0xE0 + op) fun s => match xsqNext s k with
  | none => s
  | some (i, h, r) =>
    if r.eng ≠ 7 || r.op ≠ op then s
    else
      let s := xsqCount s i h
      match controlBad (modeOf s h == 2) r modFree with
      | some st => xsqFail s k i h r.opcode st r.notify
      | none => match f i h r s with
        | .error st => xsqFail s k i h r.opcode st r.notify
        | .ok t => t

def allMod : Nat := 0xFFFFFFFF

/-- The record after this one. -/
def xsqPc (s : State) (i : Site) (h : Hh) : Nat := (setAt s i h).xsq.pc

def xsqNopOp (s : State) (k : Gl) : State := controlRow s k 0 allMod fun i h r s =>
  .ok (controlDone (xsqGoto s i h (xsqPc s i h + 1)) k i h r (xsqPc s i h))

/-- LOOP: a fifth level fails (R143). -/
def loopOp (s : State) (k : Gl) : State := controlRow s k 1 0xFFFF0000 fun i h r s =>
  let pc := xsqPc s i h
  if (setAt s i h).xsq.loops.length ≥ 4 then .error stBadOpcode
  else
    let s := upXsq s i h fun x => { x with loops := ⟨pc + 1, bits r.mod 0 16⟩ :: x.loops }
    .ok (controlDone (xsqGoto s i h (pc + 1)) k i h r pc)

/-- ENDLOOP: another pass, or the loop closes (R143). -/
def endloopOp (s : State) (k : Gl) : State := controlRow s k 2 allMod fun i h r s =>
  let pc := xsqPc s i h
  match (setAt s i h).xsq.loops with
  | [] => .error stBadOpcode
  | l :: ls =>
    let (loops, next) := if l.left = 0 then (ls, pc + 1) else (⟨l.body, l.left - 1⟩ :: ls, l.body)
    .ok (controlDone (xsqGoto (upXsq s i h fun x => { x with loops := loops }) i h next) k i h r pc)

/-- The field an HQPUSH pushes: rows 3 and 4, with slot 0 whatever GEO holds (R460). -/
def hqpushField (s : State) (i : Site) (h : Hh) (popped : Bool) (f : Nat) : Except Nat Nat :=
  match rawOperand s h (.replicate 16 Geo.slot0) (handleMode s h) popped f with
  | .error e => .error e.status
  | .ok r => match r.op with
    | .pantry _ g => if check126 (siteAt s i) r false false then .ok g else .error stRange
    | .imm v => if r.clean then .ok (5 * 2 ^ 61 + v) else .error stRange
    | _ => .error stRange

/-- KIND 6 of an execute record names HQ0 to HQ5 (R123). -/
def isPop (f : Nat) : Option (Fin 8) := if bits f 61 3 = 6 ∧ bits f 3 58 = 0 ∧ f % 8 ≤ 5 then some ⟨f % 8, by omega⟩ else none

/-- The operands A, B and D with their pops done in that order; none while a queue is empty (R142). -/
def popOperands (hqs : Vector (List Nat) 8) : List Nat → Option (List (Nat × Bool) × Vector (List Nat) 8)
  | [] => some ([], hqs)
  | f :: fs => match isPop f with
    | none => (popOperands hqs fs).map fun r => ((f, false) :: r.1, r.2)
    | some n => match hqs.get n with
      | [] => none
      | v :: rest => (popOperands (hqs.set n.val rest n.isLt) fs).map fun r => ((v, true) :: r.1, r.2)

/-- HQPUSH: pops its OPA when it is of KIND 6, then pushes the resolved field into HQ6 or HQ7; a full queue holds
the sequencer (R142, R460). -/
def hqpushOp (s : State) (k : Gl) : State := xsqSettle s k (· == 0xE3) fun s => match xsqNext s k with
  | none => s
  | some (i, h, r) =>
    if r.eng ≠ 7 || r.op ≠ 3 then s
    else
      let t := setAt s i h
      let n : Fin 8 := ⟨r.hq % 8, by omega⟩
      match controlBad (modeOf s h == 2) r allMod with
      | some st => xsqFail (xsqCount s i h) k i h r.opcode st r.notify
      | none => match popOperands t.hqs [r.opa] with
        | none => xsqFreeze s i h .handoffEmpty
        | some (fs, hqs) =>
          let (f, p) := fs.headD (0, false)
          match hqpushField s i h p f with
          | .error st =>
            let s := match rawOperand s h (.replicate 16 Geo.slot0) (handleMode s h) p f with
              | .error ⟨st, some va⟩ => if st == stCellar then noteUeVa s h true .read va else recordFault s h 5 st va
              | _ => s
            xsqFail (xsqCount (upSet s i h fun t => { t with hqs := hqs }) i h) k i h r.opcode st r.notify
          | .ok v =>
            if (hqs.get n).length ≥ 16 then xsqFreeze s i h .handoffFull
            else
              let pc := xsqPc s i h
              let s := xsqCount (xsqThaw (upSet s i h fun t => { t with hqs := hqs.set n.val (hqs.get n ++ [v]) n.isLt }) i) i h
              controlDone (xsqGoto s i h (pc + 1)) k i h r pc

/-- The lease sets SCHED_CHECK and the household runs in timed mode (R148). -/
def schedOn (s : State) (h : Hh) : Bool := modeOf s h == 2 && match (hhAt s h).lease with
  | some l => l.sched
  | none => false

/-- CHECK binds to the next engine record; without schedule check it has no effect (R148). -/
def checkOp (s : State) (k : Gl) : State := xsqSettle s k (· == 0xE4) fun s => match xsqNext s k with
  | none => s
  | some (i, h, r) =>
    if r.eng ≠ 7 || r.op ≠ 4 then s
    else
      let s := xsqCount s i h
      let pc := xsqPc s i h
      if !schedOn s h then xsqGoto s i h (pc + 1)
      else match controlBad true r 0xFFFF4000 with
        | some st => xsqFail s k i h r.opcode st r.notify
        | none =>
          let s := upXsq s i h fun x => { x with
            checks := satInc 16 x.checks, pend := x.pend ++ [⟨r.mod.testBit 15, bits r.mod 8 6, bits r.mod 0 8⟩] }
          controlDone (xsqGoto s i h (pc + 1)) k i h r pc

/-- The earliest advance that its generation has not taken. -/
def nextAdvance (x : Xsq) : Option (Nat × Nat × Bool) :=
  (x.adv.filter fun a => !a.2.2).foldl (fun m a => match m with
    | none => some a
    | some b => if a.1 < b.1 then some a else some b) none

/-- TOKEN_ADVANCE: a generation advances, modulo 256 (R148). -/
def tokenAdvanceOp (s : State) (k : Gl) : State :=
  match liveSet s k with
  | none => s
  | some (i, h) => match nextAdvance (setAt s i h).xsq with
    | none => s
    | some a => match fin? 64 a.2.1 with
      | none => s
      | some n => upXsq s i h fun x => { x with
          gen := vmod x.gen n fun g => wrapInc 8 g
          adv := (x.adv.takeWhile (· != a)) ++ [(a.1, a.2.1, true)] ++ (x.adv.dropWhile (· != a)).drop 1 }

/-- Records that the sequencer has issued and that have not completed. -/
def xsqInflight (t : HSet) : Bool := t.queues.toList.any fun q => q.ents.any fun e => e.fromXsq && e.phase != .suspended

/-- The end of a HALT: its word is in the ring, the sequencer stands after it (R143). In timed mode the array
comes down its ramp (R174). -/
def haltEnd (s : State) (i : Site) (h : Hh) (r : Record) : State :=
  let s := upXsq s i h fun y => { y with halting := false, worded := false, lastStatus := stOk, pc := y.pc + 1 }
  let s := if r.notify then raise s (hhSrc h 1) else s
  raise (settleFreeze (haltRamp s i h) i h) (hhSrc h 3)

/-- A HALT whose issued records have completed writes its word, which may wait for the ring (R139, R143). -/
def haltFinish (s : State) (k : Gl) (i : Site) (h : Hh) (r : Record) : State :=
  let x := (setAt s i h).xsq
  let key := xsqKey k x.processed
  let s := if x.worded then s
    else postWord (upXsq s i h fun y => { y with worded := true }) h
      (statusWord stOk r.opcode k.val (wordFlags h false 0) x.processed 0 x.pc) (some key)
  if wordWaits s h key.1 key.2 then xsqFreeze s i h (ringCause s h) else haltEnd s i h r

/-- HALT stops issue and, after every issued record has completed, writes a status word with OK and raises the
XSQ doorbell (R143). -/
def haltOp (s : State) (k : Gl) : State :=
  match liveSet s k with
  | none => s
  | some (i, h) =>
    let x := (setAt s i h).xsq
    if x.halting then
      match xsqBytes x x.pc with
      | some bs => if xsqInflight (setAt s i h) then s else haltFinish s k i h (recordOf bs)
      | none => s
    else controlRow s k 5 allMod fun i h r s =>
      let s := upXsq s i h fun y => { y with run := false, halting := true, loops := [], pend := [], tPrev := y.tPrev + r.delta }
      .ok (if xsqInflight (setAt s i h) then s else haltFinish s k i h r)

/-- A control OP that no row names, or an engine that the XSQ does not feed, fails row 1; an engine record is
issued: its KIND 6 operands are popped, and it joins its engine's queue (R132, R142, R143, R145). -/
def recordIssueOp (s : State) (k : Gl) : State := xsqSettle s k (fun o => decide (o < 0xE0) || decide (0xE5 < o)) fun s =>
  match xsqNext s k with
  | none => s
  | some (i, h, r) =>
    if r.eng = 7 then (if r.op ≤ 5 then s else xsqFail (xsqCount s i h) k i h r.opcode stBadOpcode r.notify)
    else if r.eng ≥ 4 then xsqFail (xsqCount s i h) k i h r.opcode stBadOpcode r.notify
    else
      let t := setAt s i h
      let en : Fin 5 := ⟨r.eng % 5, by omega⟩
      if (List.finRange 4).any fun j => (t.queues.get ⟨j.val, by omega⟩).halted then
        upXsq s i h fun x => { x with run := false }
      else if xsqHeld t r then s
      else
        match (if noOperands r then some ([(r.opa, false), (r.opb, false), (r.opd, false)], t.hqs)
               else popOperands t.hqs [r.opa, r.opb, r.opd]) with
        | none => xsqFreeze s i h .handoffEmpty
        | some (fs, hqs) =>
          let (a, pa) := fs.getD 0 (0, false)
          let (b, pb) := fs.getD 1 (0, false)
          let (d, pd) := fs.getD 2 (0, false)
          let pc := t.xsq.pc
          let timed := modeOf s h == 2
          let t0 := t.xsq.tPrev + r.delta
          let e := { newEntry s h { r with opa := a, opb := b, opd := d } none pc true with
            popA := pa, popB := pb, popD := pd, t0 := if timed then some t0 else none, checks := t.xsq.pend }
          let s := upSet (xsqThaw (xsqCount s i h) i) i h fun t => { t with
            hqs := hqs, xsq := { t.xsq with pend := [], tPrev := if timed then t0 else t.xsq.tPrev } }
          xsqGoto (accept s (.cluster k en) e).1 i h (pc + 1)

def execXsqCacheFill (k : Gl) (s : State) : Out := .next (xsqFillOp s k)
def execXsqNop (k : Gl) (s : State) : Out := .next (xsqNopOp s k)
def execLoop (k : Gl) (s : State) : Out := .next (loopOp s k)
def execEndloop (k : Gl) (s : State) : Out := .next (endloopOp s k)
def execHqpush (k : Gl) (s : State) : Out := .next (hqpushOp s k)
def execCheck (k : Gl) (s : State) : Out := .next (checkOp s k)
def execTokenAdvance (k : Gl) (s : State) : Out := .next (tokenAdvanceOp s k)
def execHalt (k : Gl) (s : State) : Out := .next (haltOp s k)
def execXsqRecordIssue (k : Gl) (s : State) : Out := .next (recordIssueOp s k)

end Sys2Proof.Machine
end

