-- ==== Sys2Proof/Machine/Stream.lean ====
section
/-! DEFINITION. Stream units: LOAD, STORE, KWIN, request issue and return, passed deadlines
(R223-R235, R248-R250, R293, R328). -/

namespace Sys2Proof.Machine

/- Order of effect within the queue (R134). -/

/-- A byte range that an STU command reaches: pantry or cellar, written or read. -/
structure Reach where
  pantry : Bool
  write : Bool
  lo : Int
  hi : Int
deriving DecidableEq, Repr

def reachOf (o : Opnd) (write : Bool) : List Reach := match o with
  | .pantry t _ => [⟨true, write, (extent t false).1, (extent t false).2⟩]
  | .cellar t sb =>
    [⟨false, write, (extent t false).1, (extent t false).2⟩,
     ⟨false, write, (sb : Int), ((sb + 4 * (rowCount t * rowBlocks t) : Nat) : Int)⟩]
  | _ => []
/-- Two commands touch a byte in common, and one writes it. -/
def conflicts (x y : Entry) : Bool :=
  let r (e : Entry) := reachOf e.opA false ++ reachOf e.opD true
  (r x).any fun a => (r y).any fun b => a.pantry == b.pantry && (a.write || b.write) && decide (a.lo < b.hi) && decide (b.lo < a.hi)
/-- An earlier command of the queue whose effect is to come touches what this one does; KWIN keeps its order
with every command (R134). -/
def stuBlocked (s : State) (q : QueueId) (e : Entry) : Bool :=
  ((qEnts s q).takeWhile fun x => !(x.hh == e.hh && x.seq == e.seq)).any fun x =>
    x.phase != .done && !noOperands x.cmd && (x.cmd.opcode == 0x83 || e.cmd.opcode == 0x83 || conflicts x e)

/-- The next STU command with an opcode that may act. -/
def stuEntry (s : State) (k : Gl) (p : Record → Bool) : Option (Site × Entry) :=
  match siteOf s k, (qEnts s (.cluster k 4)).find? fun e => e.phase == .running && p e.cmd with
  | some i, some e => if stuBlocked s (.cluster k 4) e || switching s k then none else some (i, e)
  | _, _ => none

/-- First element of a block at or after an address in it, as an offset. -/
def elemOff (t : Tensor) (b a : Nat) : Nat :=
  let va := blockVa t b
  blockOff t b + (if va ≤ a ∧ a < va + blockBytes t b then (a - va) / t.e * t.e else 0)

/-- A block that a unit cannot move: status, OFFSET and operand (R137, R138, R294, R230). -/
structure BlkStop where
  status : Nat
  off : Nat
  opd : Nat
deriving DecidableEq, Repr

/-- What an error of memory on block b of an operand leaves: recorded or counted, and how the command stops. -/
def memStop (s : State) (h : Hh) (agent : Nat) (t : Tensor) (b opd : Nat) (e : MErr) : State × BlkStop := match e with
  | .fault st va => (recordFault s h agent st va, ⟨st, blockOff t b, opd⟩)
  | .ue va => (noteUeVa s h true .read va, ⟨stCellar, elemOff t b va, opd⟩)
  | .txCap _ => (s, ⟨stTxCap, blockOff t b, opd⟩)

/-- The blocks of a transfer from b on, in ascending order (R229, R230); `f` moves one block or stops. -/
def moveBlocks (f : State → Nat → State × Option BlkStop) : Nat → State → Nat → State × Nat × Option BlkStop
  | 0, s, b => (s, b, none)
  | n + 1, s, b => match f s b with
    | (t, some x) => (t, b, some x)
    | (t, none) => moveBlocks f n t (b + 1)

/-- How a transfer ends: complete, suspended at a block, or failed for good. -/
def moveEnd (s : State) (q : QueueId) (e : Entry) (b : Nat) (x : Option BlkStop) : State :=
  let s := upEntry s q e.hh e.seq fun y => { y with pos := b }
  match x with
  | none => endEntry s q e stOk 0 0
  | some x => endEntry s q e x.status x.off x.opd

/-- One block of a LOAD: verified, then written whole with its seal. -/
def loadBlock (i : Site) (h : Hh) (a : Tensor) (sb : Nat) (d : Tensor) (s : State) (b : Nat) : State × Option BlkStop :=
  match blockFault s h .read a sb b with
  | some (st, va) => (recordFault s h 2 st va, some ⟨st, blockOff a b, 1⟩)
  | none => match hReadBlock s h (blockVa a b) (blockBytes a b) (blockSl a sb b) with
    | .ok bs => (upSite s i fun c => pStoreBlock c (blockVa d b) bs none, none)
    | .error .badSeal => (s, some ⟨stSeal, 0, 0⟩)
    | .error (.mem x) => let r := memStop s h 2 a b 1 x; (r.1, some r.2)

/-- One block of a STORE: read whole and verified, then written with its seal as one unit. -/
def storeBlock (i : Site) (h : Hh) (a d : Tensor) (sb : Nat) (s : State) (b : Nat) : State × Option BlkStop :=
  match blockFault s h .write d sb b with
  | some (st, va) => (recordFault s h 2 st va, some ⟨st, blockOff d b, 3⟩)
  | none =>
    let va := blockVa a b
    match pReadRow (viewOf (siteAt s i)) va (blockBytes a b) (rowAddr a (blockAt a b).1 % 128 == 0) true with
    | none => (s, some ⟨stSeal, 0, 0⟩)
    | some bs => match hWriteBlock s h (blockVa d b) bs (blockSl d sb b) with
      | .ok t => (t, none)
      | .error x => let r := memStop s h 2 d b 3 x; (r.1, some r.2)

/-- LOAD (R229, R230, R249): each block whose data have arrived is verified and written. -/
def loadOp (s : State) (k : Gl) : State :=
  let q : QueueId := .cluster k 4
  match stuEntry s k fun r => r.opcode == 0x81 with
  | none => s
  | some (i, e) => match loadCase s i e with
    | .error st => endEntry s q e st 0 0
    | .ok (a, sb, d) =>
      let f := tensorFeed s e.hh .read a sb
      let (t, b, x) := moveBlocks (loadBlock i e.hh a sb d) (readyRun (blockRead s q e f) f.count e.pos) s e.pos
      if x.isNone && decide (b < f.count) then moveWaits t q e false f b
      else moveEnd t q e b x

def execLoad (k : Gl) (s : State) : Out := .next (loadOp s k)

/-- A transfer into the cellar that has written its last block, or in which a part has failed for good, ends once every
write made is acknowledged (R134, R223, R328). -/
def writesEnd (s : State) (q : QueueId) (e : Entry) (b : Nat) : State :=
  let s := upEntry s q e.hh e.seq fun y => { y with pos := b }
  let s := if e.status = stOk then s else match strmOf s q e true with
    | some x => upStrm s q x fun y => { y with left := [] }
    | none => s
  if writesOut s q e then stallNote s q e.hh scOperand
  else endEntry s q e e.status e.offset e.operand

/-- STORE (R229, R230, R249): each block whose requests have a tag is read, verified and written. -/
def storeOp (s : State) (k : Gl) : State :=
  let q : QueueId := .cluster k 4
  match stuEntry s k fun r => r.opcode == 0x82 with
  | none => s
  | some (i, e) => match storeCase e with
    | .error st => endEntry s q e st 0 0
    | .ok (a, d, sb) => if e.status ≠ stOk then writesEnd s q e e.pos else
      let f := tensorFeed s e.hh .write d sb
      let (t, b, x) := moveBlocks (storeBlock i e.hh a d sb) (readyRun (blockIssued s q e f) f.count e.pos) s e.pos
      match x with
      | some _ => moveEnd t q e b x
      | none => if b < f.count then moveWaits t q e true f b else writesEnd t q e b

def execStore (k : Gl) (s : State) : Out := .next (storeOp s k)

/- Key windows (R233, R250). -/

/-- A window changed by f. -/
def upWin (s : State) (i : Site) (h : Hh) (w : Fin 4) (f : KWin → KWin) : State :=
  upSet s i h fun t => { t with wins := vmod t.wins w f }
/-- A window becomes FAILED, which the cluster's event flag shows (R233, R254). -/
def winFail (s : State) (i : Site) (h : Hh) (w : Fin 4) (st : Nat) : State :=
  evSt (upWin s i h w fun x => failWin x st) i fun r => { r with evWinFail := true }

def winIx (e : Entry) : Fin 4 := ⟨e.cmd.mod % 4, by omega⟩

/-- KWIN with CLOSE = 0 (R250). -/
def kwinOp (s : State) (k : Gl) : State :=
  let q : QueueId := .cluster k 4
  match stuEntry s k fun r => r.opcode == 0x83 && !r.mod.testBit 31 with
  | none => s
  | some (i, e) =>
    let ended (s : State) (st : Nat) : State := endEntry s q e st 0 0
    let t := setAt s i e.hh
    if bits e.cmd.mod 2 29 ≠ 0 then ended s stRange
    else match e.opA, e.opB, e.opD, (hhAt s e.hh).lease with
      | .desc va, .imm g, .pantry d _, some l =>
        if g % 2 = 0 || g ≥ 2 * ringN l || g ≥ 2 ^ 18 then ended s stRange
        else if va % 64 ≠ 0 then ended s stRange
        else match hRead s e.hh true .read va 64 with
          | .error x => ended (noteMErr s e.hh 2 x) x.status
          | .ok bs => match sourceCheck l ⟨va, bs⟩ none with
            | some st => ended s st
            | none =>
              let w := winIx e
              let others := (List.finRange 4).any fun j => j != w && winOpen (t.wins.get j) && winHits (t.wins.get j) d
              if !wholeRange d || others || winOpen (t.wins.get w) then ended s stRange
              else
                let c : Desc := ⟨va, bs⟩
                ended (upWin s i e.hh w fun _ =>
                  { state := .opened, status := 0, tag := c.tag, log2n := c.log2n, level := c.level, g := g,
                    base := d.base, blocks := elemCount d / 1024, fill := 0, seen := [] }) stOk
      | _, _, _, _ => ended s stRange

def execKwin (k : Gl) (s : State) : Out := .next (kwinOp s k)

/-- KWIN with CLOSE = 1 (R250). -/
def kwinCloseOp (s : State) (k : Gl) : State :=
  let q : QueueId := .cluster k 4
  match stuEntry s k fun r => r.opcode == 0x83 && r.mod.testBit 31 with
  | none => s
  | some (i, e) =>
    let ended (s : State) (st : Nat) : State := endEntry s q e st 0 0
    if bits e.cmd.mod 2 29 ≠ 0 || e.opA != .none || e.opB != .none || e.opD != .none then ended s stRange
    else if ((setAt s i e.hh).wins.get (winIx e)).state == .bound then ended s stRange
    else ended (upWin s i e.hh (winIx e) fun _ => KWin.shut) stOk

def execKwinClose (k : Gl) (s : State) : Out := .next (kwinCloseOp s k)

/- Requests (R223-R228, R458). -/

/-- First outstanding read request of a queue that covers a cellar address. -/
def coverer (s : State) (q : QueueId) (cpa : Nat) : Option (Strm × Request) :=
  (qStreams s q).findSome? fun x => if x.write || x.eng != qEng q then none else
    (x.out.find? fun r => decide (r.cpa ≤ cpa) && decide (cpa < r.cpa + r.bytes)).map fun r => (x, r)

/-- CELLAR_READ_RETURN (R293, R294, R458): the unit at `cpa` is corrected, or reported and poisoned; the tag is
free. What a poisoned unit does to its command shows when its block is moved. -/
def readReturnOp (s : State) (q : QueueId) (cpa : Nat) (e : Ecc) : State :=
  if cpa ≥ cellarSize then s
  else match coverer s q cpa with
    | none => s
    | some (x, r) => eccNote (upStrm s q x fun y => { y with out := y.out.erase r }) (place s cpa / 64 * 64) (cpa / 256) e

/-- The oldest outstanding write request of a queue is acknowledged. -/
def ackOne (s : State) (q : QueueId) : State :=
  match (qStreams s q).find? fun x => x.write && x.eng == qEng q && !x.out.isEmpty with
  | some x => upStrm s q x fun y => { y with out := y.out.drop 1 }
  | none => s

/-- Destination bytes of a finished command that stand in the cellar: total bytes, and the address of a byte at
an offset counted by R461 with the bytes of its row or limb from there on. -/
def cellarDest (s : State) (e : Entry) : Option (Nat × (Nat → Nat × Nat)) := match e.opD, (hhAt s e.hh).lease with
  | .cellar t _, _ => some (elemCount t * t.e, fun b =>
      ((rowAddr t (b / rowBytes t) + b % rowBytes t) % 2 ^ 64, rowBytes t - b % rowBytes t))
  | .desc va, some l =>
    let c : Desc := ⟨va, e.held.drop 64⟩
    let n := 4 * ringN l
    if e.held.length = 128 then some (c.parts * c.capacity * n, fun b =>
      ((c.slotVa (b / n / c.capacity) (b / n % c.capacity) + b % n) % 2 ^ 64, n - b % n))
    else none
  | _, _ => none

/-- A command has made writes to the cellar that may still fail: it waits for their acknowledgement, or to complete. -/
def mayFail (s : State) (q : QueueId) (e : Entry) : Bool :=
  e.status == stOk && (cellarDest s e).isSome &&
    (e.phase == .done || (e.phase == .running && (strmOf s q e true).isSome && decide (0 < e.pos)))
/-- A part of a command's destination writes has failed (R328): the granule of byte `off` holds an
undefined value, a destination descriptor has LIVE = 0 (R38), and the command ends with PARTIAL_COMPLETION. -/
def partialOp (s : State) (q : QueueId) (off : Nat) : State :=
  match (qEnts s q).find? (mayFail s q) with
  | none => s
  | some e => match cellarDest s e with
    | none => s
    | some (size, f) =>
      if off ≥ size then s
      else
        let (va, rest) := f off
        let es := match e.opD with
          | .cellar t _ => t.e
          | _ => 4
        let n := min rest (256 - va % 256)
        let s1 := match hWrite s e.hh true va ((List.range n).map fun i => Config.freeByte s.fresh i) with
          | .ok t => t
          | .error _ => s
        let s2 := match e.opD with
          | .desc d => match hRead s1 e.hh true .read (d + 0x14) 1 with
            | .ok bs => match hWrite s1 e.hh true (d + 0x14) (leBytes 1 (clrBit (leNat bs) 0)) with
              | .ok t => t
              | .error _ => s1
            | .error _ => s1
          | _ => s1
        tickFresh (upEntry s2 q e.hh e.seq fun x => { x with
          status := stPartial, offset := off / es * es % 2 ^ 32, operand := 3, summary := summaryAt x stPartial })

/-- CELLAR_WRITE_ACK (R328, R458): a tag is free; a failed part is reported at its offset in the destination. -/
def writeAckOp (s : State) (q : QueueId) (fail : Option Nat) : State :=
  let t := ackOne s q
  match fail with
  | none => t
  | some off => partialOp t q off

/- Deadlines (R231). -/

/-- OFFSET of the first destination element not yet written; free once all are written (log 5). -/
def missOffset (s : State) (e : Entry) : Nat :=
  if e.phase == .done then Config.freeNat s.fresh % 2 ^ 32
  else match e.cmd.opcode, e.opD with
    | 0xC1, _ => 4096 * e.pos
    | _, .pantry t _ => blockOff t e.pos
    | _, .cellar t _ => blockOff t e.pos
    | _, _ => 0

/-- ACLK at which the deadline of a command passes. -/
def deadlineAt (s : State) (q : QueueId) (e : Entry) : Nat :=
  match (qStreams s q).find? fun x => x.hh == e.hh && x.seq == e.seq with
  | some x => x.start + x.window
  | none => 0

/-- The started command of a queue whose deadline passes first, of those not yet counted (R231). -/
def missing (s : State) (q : QueueId) : Option Entry :=
  let open_ := (qEnts s q).filter fun e => e.phase != .queued && !e.missed && (deadlineOf s q e).isSome
  match open_ with
  | [] => none
  | e :: es => some (es.foldl (fun b x => if deadlineAt s q x < deadlineAt s q b then x else b) e)

/-- DEADLINE_MISS (R231): counted for every household; a timed one receives a status word and its error doorbell. -/
def deadlineOp (s : State) (q : QueueId) : State :=
  match missing s q with
  | none => s
  | some e =>
    let timed := modeOf s e.hh == 2
    let s1 := upEntry s q e.hh e.seq fun x => { x with missed := true }
    let s2 := match q with
      | .cluster k _ => match siteOf s k with
        | some i => upSite s1 i fun c => { c with st := { c.st with dlSeq := e.seq, dlCount := satInc 16 c.st.dlCount } }
        | none => s1
      | .larder r => upReg s1 r fun g => { g with ld := { g.ld with dlMiss := satInc 9 g.ld.dlMiss } }
      | .mve _ => s1
    if !timed then s2
    else
      let s3 := match q with
        | .cluster k _ => match siteOf s k with
          | some i => evSt s2 i fun x => { x with evDlMiss := true }
          | none => s2
        | .larder r => evLd s2 r fun x => { x with evDlMiss := true }
        | .mve _ => s2
      let w := statusWord stDeadline e.cmd.opcode (qUnit q) (wordFlags e.hh false 3) e.seq
        (missOffset s e) e.recIdx
      tickFresh (errBell (postWord s3 e.hh w none) e.hh)

def execDeadlineMiss (q : QueueId) (s : State) : Out := .next (deadlineOp s q)

end Sys2Proof.Machine
end

