-- ==== Sys2Proof/Machine/Larder.lean ====
section
/-! DEFINITION. The larder: key headers, STREAM, PREX and its expansion (R42-R47, R236-R247, R251-R253). -/

namespace Sys2Proof.Machine

/-- An evaluation-key header (R42), by its 256 bytes. -/
structure KeyHdr where
  raw : List Byte
deriving DecidableEq, Repr

def KeyHdr.tag (k : KeyHdr) : Nat := leAt k.raw 0 8
def KeyHdr.kind (k : KeyHdr) : Nat := leAt k.raw 9 1
def KeyHdr.log2n (k : KeyHdr) : Nat := leAt k.raw 0x0A 1
def KeyHdr.digits (k : KeyHdr) : Nat := leAt k.raw 0x0B 1
def KeyHdr.limbs (k : KeyHdr) : Nat := leAt k.raw 0x0C 1
def KeyHdr.special (k : KeyHdr) : Nat := leAt k.raw 0x0D 1
def KeyHdr.alpha (k : KeyHdr) : Nat := leAt k.raw 0x0E 1
def KeyHdr.compressed (k : KeyHdr) : Bool := (leAt k.raw 0x0F 1).testBit 0
def KeyHdr.galois (k : KeyHdr) : Nat := leAt k.raw 0x10 4
def KeyHdr.body (k : KeyHdr) : Nat := leAt k.raw 0x20 8
def KeyHdr.seals (k : KeyHdr) : Nat := leAt k.raw 0x28 8
def KeyHdr.seed (k : KeyHdr) : List Byte := slice k.raw 0x40 32
/-- Basis positions (R45). -/
def KeyHdr.positions (k : KeyHdr) : Nat := k.limbs + k.special

/-- R43. -/
def galoisOk (kind g n : Nat) : Bool :=
  if kind = 1 then g == 1 else if kind = 3 then g == 2 * n - 1 else g % 2 == 1 && decide (3 ≤ g) && decide (g ≤ 2 * n - 3)

/-- Rows 1 to 5 of the table "Evaluation-key header checks", and row 6 for a level (R46). -/
def keyCheck (l : Lease) (va : Nat) (k : KeyHdr) (level : Option Nat) : Option Nat :=
  let zero (o n : Nat) : Bool := (slice k.raw o n).all fun b => b == 0
  if va % 64 ≠ 0 || leAt k.raw 8 1 ≠ 1 || k.kind = 0 || k.kind > 3 || decide (leAt k.raw 0x0F 1 ≥ 2) ||
      !zero 0x14 12 || !zero 0x30 16 || !zero 0x60 160 then some stRange
  else if k.log2n ≠ l.log2n || k.special ≠ l.specials.length then some stShape
  else if k.limbs = 0 || k.limbs > l.primes.length || k.digits = 0 || k.digits > k.limbs ||
      k.alpha ≠ cdiv k.limbs k.digits || (k.digits - 1) * k.alpha ≥ k.limbs then some stRange
  else if !galoisOk k.kind k.galois (ringN l) then some stRange
  else if k.body % 64 ≠ 0 || k.seals % 4 ≠ 0 then some stRange
  else match level with
    | some v => if k.limbs < v then some stShape else none
    | none => none

/- STREAM. -/

def winOf (s : State) (i : Site) (h : Hh) (w : Fin 4) : KWin := (setAt s i h).wins.get w

/-- Digit, half and extended position of block b, nb blocks to a row, in the row order of R243. -/
def streamPos (c : Record) (nb b : Nat) : Nat × Nat × Nat :=
  let row := b / nb
  (row / strPosN c / 2, row / strPosN c % 2, strPos0 c + row % strPosN c)
/-- Basis position and limb identifier of an extended position (R243, R47). -/
def basisPos (k : KeyHdr) (lv e : Nat) : Nat := if e < lv then e else k.limbs + e - lv
def limbId (lv e : Nat) : Nat := if e < lv then e else 64 + (e - lv)

/-- A finished pre-expansion of this key in the region (R244). -/
def preExpanded (s : State) (r : Rg) (h : Hh) (va : Nat) (k : KeyHdr) : Option Announce :=
  (regAt s r).ld.ann.find? fun a => a.done && a.hh == h && a.key == va && KeyHdr.seed ⟨a.header⟩ == k.seed

/-- Where a block comes from: the body or an expansion area, with its address and that of its seal, or the
regenerator. -/
inductive KeySrc where
  | stored (va sl : Nat)
  | regen
deriving DecidableEq, Repr

def keySrc (n : Nat) (k : KeyHdr) (pre : Option Announce) (d c p j : Nat) : KeySrc :=
  let nb := n / 1024
  let at_ (base seals row : Nat) : KeySrc :=
    .stored ((base + row * 4 * n + 4096 * j) % 2 ^ 64) ((seals + 4 * (row * nb + j)) % 2 ^ 64)
  if !k.compressed then at_ k.body k.seals ((2 * d + c) * k.positions + p)
  else if c = 0 then at_ k.body k.seals (d * k.positions + p)
  else match pre with
    | some a => at_ a.area (a.area + k.digits * k.positions * 4 * n) (d * k.positions + p)
    | none => .regen

/-- The slot of a STREAM or PREX. -/
def upSlot (s : State) (r : Rg) (e : Entry) (f : LdSlot → LdSlot) : State :=
  upReg s r fun g => { g with ld := { g.ld with
    slots := g.ld.slots.map fun x => if x.active && x.hh == e.hh.val && x.seq == e.seq then f x else x } }

/-- A failed subscriber (R241): LD_MISMATCH, the event flag and the error doorbell. -/
def noteMismatch (s : State) (r : Rg) (e : Entry) (c : Fin 4) (st : Nat) : State :=
  errBell (evLd s r fun l => { l with
    mmStatus := st, mmHh := e.hh.val, mmCluster := c.val, mmCount := satInc 16 l.mmCount, mmSeq := e.seq, evMismatch := true }) e.hh

/-- The hand-off entry of a STREAM goes to a subscriber (R239, R241). -/
def pushHandoff (s : State) (i : Site) (e : Entry) : State :=
  match e.cmd.handoff, e.opD with
  | true, .pantry _ f =>
    let n : Fin 8 := ⟨e.cmd.hq, Nat.lt_of_lt_of_le (Nat.mod_lt _ (by omega)) (Nat.le_refl _)⟩
    upSet s i e.hh fun t => { t with hqs := t.hqs.set n.val (t.hqs.get n ++ [f]) n.isLt }
  | _, _ => s
/-- The hand-off queue that a STREAM pushes into on a subscriber is full. -/
def handoffFull (s : State) (e : Entry) (i : Site) : Bool :=
  e.cmd.handoff && decide (((setAt s i e.hh).hqs.get ⟨e.cmd.hq % 8, by omega⟩).length ≥ 16)

/-- Every OPEN window of the subscribers becomes FAILED (R242). -/
def failOpen (s : State) (e : Entry) (subs : List (Fin 4 × Gl × Site)) (from_ : KwState) (st : Nat) : State :=
  subs.foldl (fun t x => if (winOf t x.2.2 e.hh (strWin e.cmd)).state == from_ then winFail t x.2.2 e.hh (strWin e.cmd) st else t) s

/-- The table "Per-consumer checks" (R240). -/
def consumerCheck (w : KWin) (d : Tensor) (k : KeyHdr) (lv : Nat) : Option Nat :=
  if w.base ≠ d.base || w.blocks ≠ elemCount d / 1024 then some stRange
  else if w.tag ≠ k.tag then some stKey
  else if w.g ≠ k.galois then some stGalois
  else if w.level ≠ lv then some stShape
  else none

/-- Step 4 of R239 on one subscriber: bound, or failed with its status. -/
def bindOne (r : Rg) (e : Entry) (d : Tensor) (k : KeyHdr) (acc : State × List (Fin 4) × Option Nat × Bool)
    (x : Fin 4 × Gl × Site) : State × List (Fin 4) × Option Nat × Bool :=
  let (s, bound, first, aborted) := acc
  if aborted then acc
  else match consumerCheck (winOf s x.2.2 e.hh (strWin e.cmd)) d k (strLevel e) with
    | none => (upWin s x.2.2 e.hh (strWin e.cmd) fun w => { w with state := .bound, fill := 0 }, bound ++ [x.1], first, false)
    | some st =>
      let s := winFail s x.2.2 e.hh (strWin e.cmd) st
      let s := pushHandoff (noteMismatch s r e x.1 st) x.2.2 e
      if (hhAt s e.hh).tx.opened then
        (txAbort s e.hh ⟨st, e.cmd.opcode, r.val, e.seq, e.recIdx⟩ true, bound, some (first.getD st), true)
      else (s, bound, some (first.getD st), false)

/-- A block enters every BOUND subscriber in one hallway transfer, with its seal (R222, R239). -/
def deliver (s : State) (r : Rg) (e : Entry) (d : Tensor) (bound : List (Fin 4)) (b : Nat) (bs : List Byte) : State :=
  let sites := bound.filterMap fun c => siteOf s (clusterOf r c)
  let w := strWin e.cmd
  let s := sites.foldl (fun t i =>
    if (winOf t i e.hh w).state == .bound then
      upWin (upSite t i fun c => pStoreBlock c (d.base + 4096 * b) bs none) i e.hh w fun x => { x with fill := x.fill + 1 }
    else t) s
  upReg s r fun g => { g with ld := { g.ld with
    hwBlocks := wrapInc 32 g.ld.hwBlocks
    hwMcast := if sites.length > 1 then wrapInc 32 g.ld.hwMcast else g.ld.hwMcast } }

/-- Blocks of a STREAM's key. -/
def streamCount (l : Lease) (e : Entry) (k : KeyHdr) : Nat := cdiv (strLevel e) k.alpha * 2 * strPosN e.cmd * (ringN l / 1024)
/-- Where block b of a STREAM comes from (R243, R244). -/
def streamSrc (s : State) (r : Rg) (e : Entry) (l : Lease) (va : Nat) (k : KeyHdr) (b : Nat) : KeySrc :=
  let nb := ringN l / 1024
  let (dg, c, p) := streamPos e.cmd nb b
  keySrc (ringN l) k (preExpanded s r e.hh va k) dg c (basisPos k (strLevel e) p) (b % nb)

/-- One block of a bound STREAM. -/
def streamBlock (r : Rg) (e : Entry) (l : Lease) (va : Nat) (k : KeyHdr) (d : Tensor) (bound : List (Fin 4))
    (s : State) (b : Nat) : State × Option BlkStop :=
  let n := ringN l
  let nb := n / 1024
  let (dg, _, p) := streamPos e.cmd nb b
  let lv := strLevel e
  match streamSrc s r e l va k b with
  | .regen =>
    let q := (primeOfId l (limbId lv p)).getD 2
    let ws := (regenLimb k.seed dg (limbId lv p) q n).drop (1024 * (b % nb)) |>.take 1024
    let s := deliver s r e d bound b (unElems 4 ws)
    (upReg s r fun g => { g with ld := { g.ld with regenKw := wrapInc 32 g.ld.regenKw } }, none)
  | .stored a sl =>
    let fault := match xlateRange s e.hh true .read a 4096 with
      | some x => some x
      | none => xlateRange s e.hh true .read sl 4
    match fault with
    | some (st, f) => (recordFault s e.hh 3 st f, some ⟨st, 4096 * b, 1⟩)
    | none => match hReadBlock s e.hh a 4096 sl with
      | .ok bs => (deliver s r e d bound b bs, none)
      | .error .badSeal => (s, some ⟨stSeal, 0, 0⟩)
      | .error (.mem x) => (noteMErr s e.hh 3 x, some ⟨x.status, 4096 * b, 1⟩)

/-- What the body of a STREAM asks for: its stored blocks; a regenerated one needs no request (R237, R239 step 5, R246). -/
def bodyFeed (s : State) (r : Rg) (e : Entry) (l : Lease) (va : Nat) (k : KeyHdr) : Feed :=
  { count := streamCount l e k
    spans := fun b => match streamSrc s r e l va k b with
      | .stored a _ => spansOf 8 a 4096
      | .regen => []
    ok := fun b => match streamSrc s r e l va k b with
      | .stored a sl => (xlateRange s e.hh true .read a 4096).isNone && (xlateRange s e.hh true .read sl 4).isNone
      | .regen => true }

/-- Step 7 of R239, after the last block: the windows are FILLED; the hand-offs, once no subscriber's queue is full. -/
def streamDone (s : State) (r : Rg) (e : Entry) (bound : List (Fin 4)) (b : Nat) : State :=
  let q : QueueId := .larder r
  let sites := bound.filterMap fun c => siteOf s (clusterOf r c)
  let w := strWin e.cmd
  let t := sites.foldl (fun t i => if (winOf t i e.hh w).state == .bound then
    upWin t i e.hh w fun y => { y with state := .filled, seen := [] } else t) s
  if sites.any (handoffFull t e) then
    stallNote (upEntry t q e.hh e.seq fun x => { x with pos := b }) q e.hh scQueue
  else moveEnd (sites.foldl (fun t i => pushHandoff t i e) t) q e b none

/-- Steps 6 and 7 of R239 from block `pos` on: each block that has arrived or been regenerated goes to the subscribers; or the
failure of R242, or the suspension of R246. -/
def streamBody (s : State) (r : Rg) (e : Entry) (l : Lease) (va : Nat) (k : KeyHdr) (d : Tensor) (bound : List (Fin 4)) : State :=
  let q : QueueId := .larder r
  let total := streamCount l e k
  let f := bodyFeed s r e l va k
  let (t, b, x) := moveBlocks (streamBlock r e l va k d bound) (readyRun (blockRead s q e f) total e.pos) s e.pos
  let short := (List.range (b - e.pos)).any fun j => streamSrc s r e l va k (e.pos + j) == .regen
  let t := tickFresh (upReg t r fun g => { g with ld := { g.ld with
    short := satAdd 16 g.ld.short (if short then Config.freeNat t.fresh else 0) } })
  let t := upSlot t r e fun y => { y with left := total - b }
  match x with
  | none =>
    if b < total then moveWaits t q e false f b
    else streamDone t r e bound b
  | some y =>
    if suspends y.status then moveEnd t q e b (some y)
    else moveEnd (failOpen t e (streamSubs t r e.cmd) .bound y.status) q e b (some y)

/-- Step 4 of R239 on a subscriber must push at once into a queue that is full (R241): it waits (R142). -/
def bindWaits (s : State) (e : Entry) (d : Tensor) (k : KeyHdr) (subs : List (Fin 4 × Gl × Site)) : Bool :=
  subs.any fun x => (consumerCheck (winOf s x.2.2 e.hh (strWin e.cmd)) d k (strLevel e)).isSome && handoffFull s e x.2.2
/-- Steps 3 to 5 of R239, under a header that passes: the wait for the windows, the checks of R240, and the requests of the
body. -/
def streamBind (s : State) (r : Rg) (e : Entry) (l : Lease) (va : Nat) (bs : List Byte) (d : Tensor) : State :=
  let q : QueueId := .larder r
  let subs := ownedSubs s r e
  let k : KeyHdr := ⟨bs⟩
  if subs.any fun x => (winOf s x.2.2 e.hh (strWin e.cmd)).state != .opened || !serves s x.2.2 e.hh then stallNote s q e.hh scQueue
  else if bindWaits s e d k subs then stallNote s q e.hh scQueue
  else
    let (t, bound, first, aborted) := subs.foldl (bindOne r e d k) (s, [], none, false)
    if aborted then t
    else if bound.isEmpty then endEntry t q e (first.getD stRange) 0 0
    else
      let m := maskOf 4 fun i => bound.any fun c => c.val == i
      let t := upEntry t q e.hh e.seq fun x => { x with held := bs ++ leBytes 1 m }
      putStream (upSlot t r e fun y => { y with bound := m, left := streamCount l e k }) q e false (bodyFeed t r e l va k)

/-- STREAM (R239-R244, R246, R252). -/
def streamOp (s : State) (r : Rg) : State :=
  let q : QueueId := .larder r
  match runningEntry s q 0xC1 with
  | none => s
  | some e =>
    let sfail (s : State) (st : Nat) (key : Bool) : State :=
      endEntry (upEntry (failOpen s e (ownedSubs s r e) .opened st) q e.hh e.seq fun x => { x with keyFail := key }) q e st 0 0
    match streamForm s r e with
    | .error st => sfail s st false
    | .ok (l, va, _, d) =>
      if e.held.length = 257 then
        -- bound: the mask of the subscribers follows the header
        let m := leAt e.held 256 1
        if (ownedSubs s r e).any fun x => !serves s x.2.2 e.hh then s
        else streamBody s r e l va ⟨e.held.take 256⟩ d ((List.finRange 4).filter fun j => m.testBit j.val)
      else
        let f := headerFeed s e.hh va
        if !blockRead s q e f 0 then moveWaits s q e false f 0
        else match xlateRange s e.hh true .read va 256 with
        | some (st, a) => moveEnd (recordFault s e.hh 3 st a) q e 0 (some ⟨st, 0, 1⟩)
        | none => match hRead s e.hh true .read va 256 with
            | .error x => sfail (noteMErr s e.hh 3 x) x.status false
            | .ok bs => match keyCheck l va ⟨bs⟩ (some (strLevel e)) with
              | some st => sfail s st true
              | none =>
                if !wholeRange d then sfail s stRange false
                else if d.inner ≠ ringN l || d.c1 ≠ strPosN e.cmd || d.c2 ≠ 2 * cdiv (strLevel e) (KeyHdr.alpha ⟨bs⟩) then sfail s stShape false
                else streamBind s r e l va bs d

def execStream (r : Rg) (s : State) : Out := .next (streamOp s r)

/- PREX (R245, R253). -/

/-- PREX: an announcement, at most eight a region. -/
def prexOp (s : State) (r : Rg) : State :=
  let q : QueueId := .larder r
  match runningEntry s q 0xC2 with
  | none => s
  | some e =>
    let ended (s : State) (st : Nat) : State := endEntry s q e st 0 0
    match (hhAt s e.hh).lease, e.opA, e.opB, e.opD with
    | some l, .desc va, .none, .cellar d _ =>
      if e.cmd.mod ≠ 0 then ended s stRange
      else match hRead s e.hh true .read va 256 with
        | .error (.fault st a) => moveEnd (recordFault s e.hh 3 st a) q e 0 (some ⟨st, 0, 1⟩)
        | .error x => ended (noteMErr s e.hh 3 x) x.status
        | .ok bs =>
          match keyCheck l va ⟨bs⟩ none with
          | some st => ended (upEntry s q e.hh e.seq fun x => { x with keyFail := true }) st
          | none =>
            if !KeyHdr.compressed ⟨bs⟩ then ended s stRange
            else if (regAt s r).ld.ann.length ≥ 8 then ended s stRange
            else ended (upReg s r fun g => { g with ld := { g.ld with
              ann := g.ld.ann ++ [⟨e.hh, bs, 0, va, d.base, false⟩] } }) stOk
    | _, _, _, _ => ended s stRange

def execPrex (r : Rg) (s : State) : Out := .next (prexOp s r)

/-- The larder may expand as ballast: the Hearth runs its unit, it owns a landing buffer, no command stream of any household
can issue on it, and no stream of a timed household is active on it. An expansion holds no tag from one command to the
next, so it stays within 32 (R228, R412). -/
def expansionOn (s : State) (r : Rg) : Bool :=
  (s.hearth.running.any fun u => u.kind == 2 && u.unit == r.val) &&
    ((List.finRange 2).any fun b => landingOwner s r b == 1) && (issuable s (.larder r)).isEmpty &&
    !((qEnts s (.larder r)).any fun e => e.phase != .queued && e.cmd.opcode == 0xC1 && modeOf s e.hh == 2)

/-- A page of the expansion area that is unmapped, may not be written or is transactional (R245). -/
def areaBad (s : State) (h : Hh) (va n : Nat) : Bool :=
  (List.range (cdiv (va % 65536 + n) 65536)).any fun i =>
    match xlate s h false .write ((va / 65536 + i) * 65536 % 2 ^ 64) with
    | .ok p => p.tx
    | .error _ => true

/-- PREX_EXPANSION (R245): every a limb of the first announcement still to expand, with its seals. -/
def expandOp (s : State) (r : Rg) : State :=
  if !expansionOn s r then s
  else match (regAt s r).ld.ann.find? fun a => !a.done with
    | none => s
    | some a =>
      let k : KeyHdr := ⟨a.header⟩
      match (hhAt s a.hh).lease with
      | none => s
      | some l =>
        let n := ringN l
        let rows := k.digits * k.positions
        let drop := evLd (upReg s r fun g => { g with ld := { g.ld with ann := g.ld.ann.erase a } }) r fun x =>
          { x with evPrexDrop := true }
        if areaBad s a.hh a.area (rows * 4 * n) || areaBad s a.hh (a.area + rows * 4 * n) (rows * (n / 256)) then drop
        else
          let limb (t : Except MErr State) (row : Nat) : Except MErr State :=
            let d := row / k.positions
            let i := row % k.positions
            let id := if i < k.limbs then i else 64 + (i - k.limbs)
            let ws := regenLimb k.seed d id ((primeOfId l id).getD 2) n
            (List.range (n / 1024)).foldl (fun t j => match t with
              | .error x => .error x
              | .ok u => hWriteBlock u a.hh ((a.area + row * 4 * n + 4096 * j) % 2 ^ 64) (unElems 4 ((ws.drop (1024 * j)).take 1024))
                  ((a.area + rows * 4 * n + 4 * (row * (n / 1024) + j)) % 2 ^ 64)) t
          match (List.range rows).foldl limb (.ok s) with
          | .error _ => drop
          | .ok t => evLd (upReg t r fun g => { g with ld := { g.ld with
              ann := g.ld.ann.map fun x => if x == a then { x with done := true } else x
              regenKw := (g.ld.regenKw + rows * (n / 1024)) % 2 ^ 32 } }) r fun x => { x with evPrexDone := true }

def execPrexExpansion (r : Rg) (s : State) : Out := .next (expandOp s r)

end Sys2Proof.Machine
end

