-- ==== Sys2Proof/Machine/Mve.lean ====
section
/-! DEFINITION. The move engine: COPY (R283-R288). -/

namespace Sys2Proof.Machine

/-- Linear index of the source element that destination element (j0, row r) receives, none for a pad (R285). -/
def copySource (g : CopyArgs) (a d : Tensor) (r j0 : Nat) : Option Nat :=
  let j1 := r % d.c1
  let j2 := r / d.c1
  if j0 < g.o0 ∨ j1 < g.o1 ∨ j2 < g.o2 then none
  else
    let k0 := j0 - g.o0
    let k1 := j1 - g.o1
    let i2 := j2 - g.o2
    let (i0, i1) := if g.transpose then (k1, k0) else (k0, k1)
    if i0 < a.inner ∧ i1 < a.c1 ∧ i2 < a.c2 then some (i0 + a.inner * (i1 + a.c1 * i2)) else none

/-- Elements of destination block b: their indices in the row, with the source element of each. -/
def copyBlockElems (g : CopyArgs) (a d : Tensor) (b : Nat) : List (Nat × Option Nat) :=
  let (r, j) := blockAt d b
  let lo := 4096 * j / d.e
  let n := blockBytes d b / d.e
  (List.range n).map fun x => (lo + x, copySource g a d r (lo + x))

/-- Block of a tensor that holds an element. -/
def blockOfElem (t : Tensor) (n : Nat) : Nat := n / t.inner * rowBlocks t + n % t.inner * t.e / 4096
/-- Virtual or pantry address of an element. -/
def elemAddr (t : Tensor) (n : Nat) : Nat := (rowAddr t (n / t.inner) + n % t.inner * t.e) % 2 ^ 64

/-- Distinct values of a list, in order of first appearance. -/
def dedup (l : List Nat) : List Nat := l.foldl (fun acc x => if acc.contains x then acc else acc ++ [x]) []

/-- A source block is read, verified when it is read whole (R286); or how the command stops. -/
def copyRead (s : State) (h : Hh) (src : Side) (b : Nat) : Except (Option MErr × BlkStop) (List Byte) := match src with
  | .pantry i t =>
    match pReadRow (viewOf (siteAt s i)) (blockVa t b) (blockBytes t b) (rowAddr t (blockAt t b).1 % 128 == 0) false with
    | some bs => .ok bs
    | none => .error (none, ⟨stSeal, 0, 0⟩)
  | .cellar t sb => match hReadBlock s h (blockVa t b) (blockBytes t b) (blockSl t sb b) with
    | .ok bs => .ok bs
    | .error .badSeal => .error (none, ⟨stSeal, 0, 0⟩)
    | .error (.mem x) => .error (some x, (memStop s h 4 t b 1 x).2)

/-- The value of each wanted source element; a transposed read is strided and not verified (R25). -/
def copyValues (s : State) (h : Hh) (src : Side) (transpose : Bool) (want : List Nat) :
    Except (Option MErr × BlkStop) (Nat → Nat) :=
  let t := src.t
  if transpose then
    let one (n : Nat) : Except (Option MErr × BlkStop) Nat := match src with
      | .pantry i t => .ok (leNat (spRead 0 (siteAt s i).pantry (elemAddr t n) t.e))
      | .cellar t _ => match hRead s h true .read (elemAddr t n) t.e with
        | .ok bs => .ok (leNat bs)
        | .error x => .error (some x, ⟨x.status, n * t.e, 1⟩)
    let r := want.foldl (fun acc n => match acc with
      | .error x => .error x
      | .ok m => match one n with
        | .ok v => .ok ((n, v) :: m)
        | .error x => .error x) (Except.ok ([] : List (Nat × Nat)))
    match r with
    | .error x => .error x
    | .ok m => .ok fun n => ((m.find? fun p => p.1 == n).map Prod.snd).getD 0
  else
    let r := (dedup (want.map (blockOfElem t))).foldl (fun acc b => match acc with
      | .error x => .error x
      | .ok m => match copyRead s h src b with
        | .ok bs => .ok ((b, bs) :: m)
        | .error x => .error x) (Except.ok ([] : List (Nat × List Byte)))
    match r with
    | .error x => .error x
    | .ok m => .ok fun n =>
      match m.find? fun p => p.1 == blockOfElem t n with
      | some p => leAt p.2 (n % t.inner * t.e % 4096) t.e
      | none => 0

/-- Bytes of destination block b that are written: a pantry block whole, within the pantry; a cellar block as
far as its row goes (R20, R286; log 17). -/
def copyLen (dst : Side) (b : Nat) : Nat := match dst with
  | .pantry _ t => min 4096 (pantrySize - blockVa t b)
  | .cellar t _ => blockBytes t b

/-- The contents of a destination block before the merge, read back whole and verified (R286). -/
def copyBack (s : State) (h : Hh) (dst : Side) (b : Nat) : Except (Option MErr × BlkStop) (List Byte) := match dst with
  | .pantry i t =>
    let a := blockVa t b
    let bs := spRead 0 (siteAt s i).pantry a (copyLen dst b)
    if sealOk (viewOf (siteAt s i)) a bs then .ok bs else .error (none, ⟨stSeal, 0, 0⟩)
  | .cellar t sb => match hReadBlock s h (blockVa t b) (blockBytes t b) (blockSl t sb b) with
    | .ok bs => .ok bs
    | .error .badSeal => .error (none, ⟨stSeal, 0, 0⟩)
    | .error (.mem x) => .error (some x, (memStop s h 4 t b 3 x).2)

/-- A block goes to the destination with its seal (R22, R286). -/
def copyPut (s : State) (h : Hh) (dst : Side) (b : Nat) (bs : List Byte) : State × Option BlkStop := match dst with
  | .pantry i t => (upSite s i fun c => pStoreBlock c (blockVa t b) bs none, none)
  | .cellar t sb => match hWriteBlock s h (blockVa t b) bs (blockSl t sb b) with
    | .ok u => (u, none)
    | .error x => let r := memStop s h 4 t b 3 x; (r.1, some r.2)

/-- A destination element that another part of the source overlaps holds an undefined value (R128). -/
def copyFree (s0 : State) (src dst : Side) (b j0 v : Nat) : Nat :=
  let d := dst.t
  if sidesMeet src dst && !sidesSame src dst && (List.range d.e).any fun x =>
      covers src.t (rowAddr d (blockAt d b).1 + j0 * d.e + x) then
    (Config.freeWordAt s0.fresh (b * 4096 + j0)).toNat % 2 ^ (8 * d.e)
  else v

/-- First source element of a block whose page fails translation (R288). -/
def copyFault (s : State) (h : Hh) (src : Side) (want : List Nat) : Option (Nat × Nat × Nat) := match src with
  | .pantry _ _ => none
  | .cellar t _ => want.findSome? fun n => (xlateRange s h true .read (elemAddr t n) t.e).map fun x => (n, x.1, x.2)

/-- An error of memory is recorded or counted. -/
def copyNote (s : State) (h : Hh) (m : Option MErr) : State := match m with
  | some e => noteMErr s h 4 e
  | none => s

/-- One destination block of a COPY (R285-R288). Sources are read as the command found them (`s0`). -/
def copyBlock (s0 : State) (h : Hh) (r : Rg) (g : CopyArgs) (src dst : Side) (s : State) (b : Nat) : State × Option BlkStop :=
  let d := dst.t
  let es := copyBlockElems g src.t d b
  let want := es.filterMap Prod.snd
  if g.noPad && want.isEmpty then (s, none)
  else
    let dfault := match dst with
      | .pantry _ _ => none
      | .cellar t sb => blockFault s h .write t sb b
    match dfault with
    | some (st, va) => (recordFault s h 4 st va, some ⟨st, blockOff d b, 3⟩)
    | none => match copyFault s0 h src want with
      | some (n, st, va) => (recordFault s h 4 st va, some ⟨st, n * src.t.e, 1⟩)
      | none =>
        let full := (!g.noPad || es.all fun x => x.2.isSome) && blockBytes d b == copyLen dst b
        let back : Except (Option MErr × BlkStop) (List Byte) := if full then .ok [] else copyBack s h dst b
        match back with
        | .error (m, x) => (copyNote s h m, some x)
        | .ok old => match copyValues s0 h src g.transpose want with
          | .error (m, x) => (copyNote s h m, some x)
          | .ok val =>
            let pad := g.pad % 2 ^ (8 * d.e)
            let base := if full then List.replicate (copyLen dst b) (0 : Byte) else old
            let lo := 4096 * (blockAt d b).2
            let bs := es.foldl (fun acc x => match x.2 with
              | some n => overlay acc (x.1 * d.e - lo) (leBytes d.e (copyFree s0 src dst b x.1 (val n)))
              | none => if g.noPad then acc else overlay acc (x.1 * d.e - lo) (leBytes d.e (copyFree s0 src dst b x.1 pad))) base
            let (t, x) := copyPut s h dst b bs
            let hall := match src, dst with
              | .cellar _ _, .cellar _ _ => false
              | _, _ => true
            (if hall && x.isNone then upReg t r fun y => { y with ld := { y.ld with hwBlocks := wrapInc 32 y.ld.hwBlocks } } else t, x)

/-- What a side of a COPY in the cellar asks for, nothing for a pantry. -/
def sideFeed (s : State) (h : Hh) (acc : Acc) : Side → Feed
  | .cellar t sb => tensorFeed s h acc t sb
  | .pantry _ _ => ⟨0, fun _ => [], fun _ => true⟩
/-- The source of a COPY has arrived as far as its pages translate; what it lacks is asked for (R230, R283). -/
def copyFetch (s : State) (q : QueueId) (e : Entry) (src : Side) : Option State :=
  match moreRequests s q e false (sideFeed s e.hh .read src) with
  | some t => some t
  | none => if (strmOf s q e false).all fun x => x.left.isEmpty && x.out.isEmpty then none
    else some (stallNote s q e.hh scOperand)
/-- COPY (R285-R288). -/
def copyOp (s : State) (r : Rg) : State :=
  let q : QueueId := .mve r
  match runningEntry s q 0xA1 with
  | none => s
  | some e =>
    match sideOf s q e.cmd e.opA false, sideOf s q e.cmd e.opD true with
    | some src, some dst => match copyCase s q e src dst with
      | some st => endEntry s q e st 0 0
      | none =>
        if e.status ≠ stOk then writesEnd s q e e.pos
        else if poolWaits s q e e.opA false || poolWaits s q e e.opD true then stallNote s q e.hh scOperand
        else match copyFetch s q e src with
          | some t => t
          | none =>
            let f := sideFeed s e.hh .write dst
            let n := blockCount dst.t
            let (t, b, x) := moveBlocks (copyBlock s e.hh r (copyArgs e) src dst) (readyRun (blockIssued s q e f) n e.pos) s e.pos
            tickFresh <| match x with
              | some _ => moveEnd t q e b x
              | none => if b < n then moveWaits t q e true f b else writesEnd t q e b
    | _, _ => endEntry s q e stRange 0 0

def execCopy (r : Rg) (s : State) : Out := .next (copyOp s r)

/-- FLUSH or RESUME of LD_QCTL or MV_QCTL for a household (R137, R238, R283). A STREAM that FLUSH aborts makes
its BOUND windows FAILED (R242). -/
def regionQctl (s : State) (q : QueueId) (h : Hh) (flush : Bool) : State :=
  if !flush then resumeQueue s q h
  else
    let s := match (qEnts s q).find? fun e => e.hh == h && e.phase == .suspended && e.cmd.opcode == 0xC1, q with
      | some e, .larder r => failOpen s e (streamSubs s r e.cmd) .bound stTxAbort
      | _, _ => s
    flushQueue s q h

end Sys2Proof.Machine
end

