-- ==== Sys2Proof/Machine/Psq.lean ====
section
/-! DEFINITION. The polynomial sequencer: triggers, jobs, expansion and issue (R257-R265). -/

namespace Sys2Proof.Machine

/-- A job record (R259), by its 64 bytes. -/
structure Job where
  raw : List Byte
deriving DecidableEq, Repr

def Job.flags (j : Job) : Nat := leAt j.raw 1 1
def Job.report (j : Job) : Bool := j.flags.testBit 7
def Job.notify (j : Job) : Bool := j.flags.testBit 6
def Job.trans (j : Job) : Bool := j.flags.testBit 0
def Job.tfmt (j : Job) : Nat := leAt j.raw 2 1
def Job.chainPos (j : Job) : Nat := leAt j.raw 3 1
def Job.rows (j : Job) : Nat := leAt j.raw 4 2
def Job.cols (j : Job) : Nat := leAt j.raw 6 2
def Job.limbs (j : Job) : Nat := leAt j.raw 8 1
def Job.parts (j : Job) : Nat := leAt j.raw 9 1
def Job.mset (j : Job) : Nat := leAt j.raw 0x0A 1
def Job.npos (j : Job) : Nat := leAt j.raw 0x0C 4
def Job.tab (j : Job) : Nat := leAt j.raw 0x10 4
def Job.tstride (j : Job) : Int := jobInt j.raw 0x14
def Job.xbase (j : Job) : Nat := leAt j.raw 0x18 4
def Job.xj (j : Job) : Int := jobInt j.raw 0x1C
def Job.xp (j : Job) : Int := jobInt j.raw 0x20
def Job.xl (j : Job) : Int := jobInt j.raw 0x24
def Job.ybase (j : Job) : Nat := leAt j.raw 0x28 4
def Job.yb (j : Job) : Int := jobInt j.raw 0x2C
def Job.yp (j : Job) : Int := jobInt j.raw 0x30
def Job.yl (j : Job) : Int := jobInt j.raw 0x34
def Job.scratch (j : Job) : Nat := leAt j.raw 0x38 4
/-- Bytes of a table element (R260). -/
def Job.elem (j : Job) : Nat := match j.tfmt with
  | 0 => 1
  | 1 => 4
  | _ => 8
/-- Stored table rows and elements in each. -/
def Job.tabRows (j : Job) : Nat := if j.trans then j.cols else j.rows
def Job.tabCols (j : Job) : Nat := if j.trans then j.rows else j.cols
/-- Slices of up to 4,096 positions (R263). -/
def Job.slices (j : Job) : Nat := cdiv j.npos 4096
/-- Records of one limb: a MODSET, then the MM of each part and slice. -/
def Job.records (j : Job) : Nat := 1 + j.parts * j.slices
/-- Shape code of R262. -/
def Job.shape (j : Job) : Nat :=
  if j.rows ≤ 128 ∧ j.cols ≤ 128 then 0 else if j.rows ≤ 64 ∧ j.cols ≤ 256 then 1 else 2

/-- Lowest byte and byte after the highest of a range with strides and counts (R126). -/
def spanOf (base len : Nat) (dims : List (Nat × Int)) : Int × Int :=
  dims.foldl (fun p x =>
    let d := ((x.1 : Int) - 1) * x.2
    (p.1 + min 0 d, p.2 + max 0 d)) ((base : Int), ((base + len : Nat) : Int))
def Job.tabSpan (j : Job) : Int × Int := spanOf j.tab (j.tabCols * j.elem) [(j.tabRows, j.tstride)]
def Job.inSpan (j : Job) : Int × Int := spanOf j.xbase (4 * j.npos) [(j.rows, j.xj), (j.parts, j.xp), (j.limbs, j.xl)]
def Job.outSpan (j : Job) : Int × Int := spanOf j.ybase (4 * j.npos) [(j.cols, j.yb), (j.parts, j.yp), (j.limbs, j.yl)]
def Job.scratchSpan (j : Job) : Int × Int := spanOf j.scratch 132352 []
def spansMeet (a b : Int × Int) : Bool := decide (a.1 < b.2) && decide (b.1 < a.2)
/-- A range lies in the pantry, on shelves that are ON (R126). -/
def spanOk (c : SiteSt) (p : Int × Int) : Bool :=
  decide (0 ≤ p.1) && decide (p.2 ≤ (pantrySize : Int)) && shelvesOn c p.1.toNat p.2.toNat
def by128 (v : Int) : Bool := v % 128 == 0

/-- The table "Job checks" (R261). -/
def jobCheck (c : SiteSt) (t : HSet) (l : Lease) (j : Job) : Option Nat :=
  if leAt j.raw 0 1 ≠ 1 || j.tfmt > 2 || bits j.flags 1 5 ≠ 0 || leAt j.raw 0x0B 1 ≠ 0 || leAt j.raw 0x3C 4 ≠ 0 ||
      j.mset > 7 then some stRange
  else if j.rows = 0 || j.rows > 128 || j.cols = 0 || j.cols > 512 || j.limbs = 0 || j.limbs > 76 || j.parts = 0 ||
      j.parts > 3 || j.npos % 32 ≠ 0 || j.npos = 0 || j.npos > 131072 then some stRange
  else if (j.rows > 128 || j.cols > 128) && (j.rows > 64 || j.cols > 256) && (j.rows > 32 || j.cols > 512) then some stShape
  else if j.chainPos + j.limbs > chainLen l then some stRange
  else if !(by128 j.tab && by128 j.xbase && by128 j.ybase && by128 j.scratch &&
      (j.tabRows = 1 || by128 j.tstride) && (j.rows = 1 || by128 j.xj) && (j.parts = 1 || by128 j.xp) &&
      (j.limbs = 1 || by128 j.xl) && (j.cols = 1 || by128 j.yb) && (j.parts = 1 || by128 j.yp) && (j.limbs = 1 || by128 j.yl)) ||
      !(spanOk c j.tabSpan && spanOk c j.inSpan && spanOk c j.outSpan && spanOk c j.scratchSpan) then some stRange
  else if (j.yb == 0 && decide (j.cols > 1)) || (j.yp == 0 && decide (j.parts > 1)) || (j.yl == 0 && decide (j.limbs > 1)) then
    some 0x23
  else if spansMeet j.outSpan j.tabSpan || spansMeet j.outSpan j.scratchSpan || spansMeet j.scratchSpan j.tabSpan ||
      spansMeet j.scratchSpan j.inSpan ||
      (t.wins.toList.any fun w => winOpen w && spansMeet j.outSpan ((w.base : Int), ((w.base + 4096 * w.blocks : Nat) : Int))) then
    some stRange
  else none

def upPsq (s : State) (i : Site) (h : Hh) (f : Psq → Psq) : State := upSet s i h fun t => { t with psq := f t.psq }

/-- The job record is fetched, or the PSQ suspends before the job (R265); an uncorrectable unit fails the job. -/
def psqFetch (s : State) (k : Gl) (i : Site) (h : Hh) : State :=
  let p := (setAt s i h).psq
  match hRead s h true .read ((p.base + 64 * p.job) % 2 ^ 64) 64 with
  | .ok bs => upPsq (cachePages s h (tlbUnit 6 k.val) [(p.base + 64 * p.job) % 2 ^ 64]) i h fun p => { p.restart with suspended := false, jobRec := bs }
  | .error (.fault st va) =>
    let s := recordFault s h 6 st va
    let s := postWord s h (statusWord st 0xFE k.val (wordFlags h true 0) p.job 0 0xFFFFFFFF) none
    let s := upPsq s i h fun p => { p with suspended := true, lastStatus := st }
    errBell (evPs s i h fun r => { r with evSusp := true }) h
  | .error e =>
    let s := psqFail (noteMErr s h 6 e) k i h e.status
    if (hhAt s h).tx.opened then txAbort s h ⟨e.status, 0xFE, k.val, p.job, 0xFFFFFFFF⟩ true else s

/-- Queues whose commands may wait on a semaphore of cluster k. -/
def semQueues (k : Gl) : List QueueId := (List.finRange 5).map (QueueId.cluster k) ++
  if k.val < 32 then [.mve (regionOf k), .larder (regionOf k)] else []
/-- PSQ_TRIGGER (R257, R258): the trigger is taken and the job fetched. A trigger after a COMMIT waits (R318); an engine
command that can take the same semaphore takes it first. -/
def psqTriggerOp (s : State) (k : Gl) : State :=
  match liveSet s k with
  | none => s
  | some (i, h) =>
    let p := (setAt s i h).psq
    let n : Fin 16 := ⟨p.trigSem % 16, by omega⟩
    if !p.enable || p.busy || p.failed || (siteAt s i).inReset || stopping s k || modeOf s h == 2 || (hhAt s h).tx.committing ||
        ((setAt s i h).sems.get n).count == 0 || (semQueues k).any (fun q => semTaker s q == some (k, n, h)) then s
    else
      let s := upSet s i h fun t => { t with
        sems := vmod t.sems n fun x => { x with count := x.count - 1 }
        psq := { t.psq.restart with busy := true, job := t.psq.next, jobRec := [] } }
      psqFetch s k i h

def execPsqTrigger (k : Gl) (s : State) : Out := .next (psqTriggerOp s k)

/-- Table element (row, column) as a signed integer (R260). -/
def jobElem (c : SiteSt) (j : Job) (row col : Nat) : Int :=
  let (r, x) := if j.trans then (col, row) else (row, col)
  let a := wrapTo 32 ((j.tab : Int) + (r : Nat) * j.tstride + ((x * j.elem : Nat) : Int))
  sext (8 * j.elem) (leNat (spRead 0 c.pantry a j.elem))

/-- First byte of the buffer of limb c (R262). -/
def jobBuffer (j : Job) (c : Nat) : Nat := j.scratch + c % 2 * 0x10280

/-- The table is expanded for a limb: weight block and identifier table, with their seals (R262). -/
def jobExpand (c : SiteSt) (l : Lease) (j : Job) (limb : Nat) : SiteSt :=
  let pos := j.chainPos + limb
  let q := (chain l).getD pos 1
  let code := if pos < l.primes.length then pos else 64 + (pos - l.primes.length)
  let buf := jobBuffer j limb
  let rows := (List.range j.rows).map fun r => (List.range j.cols).map fun b => ((jobElem c j r b) % (q : Int)).toNat
  let c := (rows.zip (List.range j.rows)).foldl (fun c e =>
    pWriteRow c (buf + e.2 * jobPitch j.raw) (unElems 4 e.1) (fun _ => true) (fun _ => none)) c
  let ids := (List.range 640).map fun n =>
    if n < 512 then (if n < j.cols then BitVec.ofNat 8 code else 0xFF)
    else if n - 512 < j.rows then BitVec.ofNat 8 code else (0xFF : Byte)
  pStoreBlock c (buf + 0x10000) ids none

/-- A pantry field of KIND 1. -/
def pantryField (geo base inner c1 c2 : Nat) : Nat :=
  2 ^ 61 + geo * 2 ^ 57 + base / 128 * 2 ^ 40 + inner * 2 ^ 22 + (c1 - 1) * 2 ^ 10 + (c2 - 1)

/-- Record n of a limb (R263): the MODSET, then the MM of each part and slice. -/
def jobRecord (j : Job) (limb n : Nat) : Record :=
  let buf := jobBuffer j limb
  if n = 0 then ⟨0x02, 0, 0, 0, j.mset, pantryField 0 (buf + 0x10000) 160 1 1, 0, 0⟩
  else
    let p := (n - 1) / j.slices
    let sl := (n - 1) % j.slices
    let v := min 4096 (j.npos - 4096 * sl)
    let a := wrapTo 32 ((j.xbase : Int) + (p : Nat) * j.xp + (limb : Nat) * j.xl + ((16384 * sl : Nat) : Int))
    let d := wrapTo 32 ((j.ybase : Int) + (p : Nat) * j.yp + (limb : Nat) * j.yl + ((16384 * sl : Nat) : Int))
    ⟨0x01, 0, 0, 0, j.shape * 2 ^ 30 + 2 * 2 ^ 25 + j.mset * 2 ^ 22, pantryField 1 a v j.rows 1,
      pantryField 2 buf j.cols j.rows 1, pantryField 3 d v j.cols 1⟩

/-- A record of the queue still reads the buffer of a limb (R262). -/
def bufferBusy (es : List Entry) (j : Job) (limb : Nat) : Bool :=
  let buf := jobBuffer j limb
  es.any fun e => e.fromPsq && (128 * bits e.cmd.opb 40 17 == buf || 128 * bits e.cmd.opa 40 17 == buf + 0x10000)

/-- Records from n on join the MXA queue while it has room (R263). -/
def jobIssue (k : Gl) (h : Hh) (j : Job) (limb : Nat) : Nat → State → Nat → State × Nat
  | 0, s, n => (s, n)
  | fuel + 1, s, n =>
    if n ≥ j.records ∨ qCount s (.cluster k 0) h ≥ 64 then (s, n)
    else
      let e := { newEntry s h (jobRecord j limb n) none 0xFFFFFFFF false with fromPsq := true, handle := false, late := false }
      jobIssue k h j limb fuel (accept s (.cluster k 0) e).1 (n + 1)

/-- COMBINE (R261-R263): the job is checked before anything else; then each event takes one limb as far as its
buffer and the MXA queue allow (log 18). -/
def combineOp (s : State) (k : Gl) : State :=
  match liveSet s k with
  | none => s
  | some (i, h) =>
    let p := (setAt s i h).psq
    let j : Job := ⟨p.jobRec⟩
    match (hhAt s h).lease with
    | none => s
    | some l =>
      if !p.busy || p.suspended || p.allIssued || p.jobRec.isEmpty || (siteAt s i).inReset || stopping s k then s
      else
        let chk := if p.checked then none else jobCheck (siteAt s i) (setAt s i h) l j
        match chk with
        | some st => psqFail s k i h st
        | none =>
          let es := ((setAt s i h).queues.get 0).ents
          if !p.expanded && bufferBusy es j p.limb then upPsq s i h fun x => { x with checked := true }
          else
            let s := if p.expanded then s else upSite s i fun c => jobExpand c l j p.limb
            let (s, n) := jobIssue k h j p.limb j.records s p.issued
            let last := n ≥ j.records
            let next := ((setAt s i h).queues.get 0).next
            upPsq s i h fun x => { x with
              checked := true, expanded := !last, lastSeq := (next + 2 ^ 32 - 1) % 2 ^ 32
              issued := if last then 0 else n
              limb := if last && decide (p.limb + 1 < j.limbs) then p.limb + 1 else p.limb
              allIssued := last && decide (p.limb + 1 ≥ j.limbs) }

def execCombine (k : Gl) (s : State) : Out := .next (combineOp s k)

/-- PSQ_JOB_COMPLETE (R264): after its last MM, DONE_SEM, PS_NEXT and the report. -/
def jobCompleteOp (s : State) (k : Gl) : State :=
  match liveSet s k with
  | none => s
  | some (i, h) =>
    let t := setAt s i h
    let p := t.psq
    let j : Job := ⟨p.jobRec⟩
    let key : QueueId × Nat := (.cluster k 0, 2 ^ 33 + p.job)
    if !p.busy || !p.allIssued || !p.lastDone then s
    else
      let s := if j.report && !p.worded then
          postWord (upPsq s i h fun x => { x with worded := true }) h
            (statusWord stOk 0xFE k.val (wordFlags h false 0) p.job p.limb 0xFFFFFFFF) (some key)
        else s
      if wordWaits s h key.1 key.2 then s
      else
        let s := upSet s i h fun t => { t with
          sems := vmod t.sems ⟨p.doneSem % 16, by omega⟩ fun x => if x.count ≥ 0xFFFF then ⟨0xFFFF, true⟩ else ⟨x.count + 1, x.ovf⟩
          psq := { t.psq with busy := false, worded := false, lastStatus := stOk, next := wrapInc 32 t.psq.next, allIssued := false } }
        if j.notify then raise s (hhSrc h 1) else s

def execPsqJobComplete (k : Gl) (s : State) : Out := .next (jobCompleteOp s k)

/-- RESUME of PS_CTRL: a suspended job is fetched again, a failed one runs again from limb 0 (R264, R265). -/
def psResumeOp (s : State) (k : Gl) : State :=
  match liveSet s k with
  | none => s
  | some (i, h) =>
    let p := (setAt s i h).psq
    if p.suspended then psqFetch s k i h
    else if p.failed then
      let s := upPsq s i h fun p => { p.restart with failed := false, busy := true }
      if p.jobRec.isEmpty then psqFetch s k i h else s
    else s
/-- SKIP of PS_CTRL: a failed job is abandoned (R264). -/
def psSkipOp (s : State) (k : Gl) : State :=
  match liveSet s k with
  | none => s
  | some (i, h) => if (setAt s i h).psq.failed then upPsq s i h fun p => { p with failed := false, next := wrapInc 32 p.next } else s

end Sys2Proof.Machine
end

