-- ==== Sys2Proof/Machine/House.lean ====
section
/-! DEFINITION. Changes of household on a cluster: shelf masks, wakes, zeroing, power domains, and what a
household's share of a cluster becomes (R67, R78, R106, R206, R280, R281, R404, R405). -/

namespace Sys2Proof.Machine

/-- The package is powered and not held by a thermal trip (R361); while it is held, no access has an effect (log 23). -/
def alive (s : State) : Bool := s.boot.powered && !s.boot.tripped

/- Power domains (R73, R404). -/

def domainIsOn (s : State) (d : Nat) : Bool := s.hearth.domains.testBit d
def setDomain (s : State) (d : Nat) (on : Bool) : State :=
  { s with hearth := { s.hearth with domains := if on then setBit s.hearth.domains d else clrBit s.hearth.domains d } }
def fusedSite (s : State) (i : Site) : Bool := s.attic.fused.testBit i.val

/- Ports (R384). -/

/-- Identifier of the package: the deed's, in a warm start-up the one retained under R363. -/
def ownId (s : State) : Nat := match s.deed, s.boot.pairId with
  | some d, _ => d.terraceId
  | none, some p => p.id
  | none, none => 0
/-- The expected identifier of the twin. -/
def ownTwin (s : State) : Nat := match s.deed, s.boot.pairId with
  | some d, _ => d.twinId
  | none, some p => p.twin
  | none, none => 0
/-- A port is enabled: its bit of the deed (a party-wall bit also of the retained pair identity), and its domain is on. -/
def portEnabled (s : State) (p : PortId) : Bool :=
  if p.val < 16 then (match s.deed with
    | some d => d.portEnable.testBit p.val
    | none => false) && domainIsOn s (60 + p.val / 8)
  else (match s.deed, s.boot.pairId with
    | some d, _ => d.pwEnable.testBit (p.val - 16)
    | none, some q => q.pwEnable.testBit (p.val - 16)
    | none, none => false) && domainIsOn s 62
def upPort (s : State) (p : PortId) (f : Port → Port) : State := { s with terr := { s.terr with ports := vmod s.terr.ports p f } }
def portAt (s : State) (p : PortId) : Port := s.terr.ports.get p
def allPorts : List PortId := List.finRange 18
/-- Ports follow their enables: a port enabled enters TRAINING, one disabled is OFF. -/
def enablePorts (s : State) : State := allPorts.foldl (fun t p =>
  if portEnabled t p then (if (portAt t p).state = .off then upPort t p fun x => { x with state := .training } else t)
  else upPort t p fun x => { x with state := .off, neighbour := 0xFFFF, missed := 0, replay := [] }) s

/- Shelves (R280). -/

def shelfOfAddr (a : Nat) : Nat := a / 3145728
/-- Seal slots cover 128 bytes each. -/
def shelfOfSlot (n : Nat) : Nat := n / 24576
/-- Data and seal slots of the shelves that `keep` does not name read zero. -/
def keepShelves (c : SiteSt) (keep : Nat → Bool) : SiteSt :=
  { c with pantry := spKeep (fun a => keep (shelfOfAddr a)) c.pantry, seals := spKeep (fun n => keep (shelfOfSlot n)) c.seals }

/-- The shelf mask in force on a site (R78, R280). -/
def shelfMaskOf (s : State) (i : Site) : Nat :=
  if (siteAt s i).retired then 0xF
  else match globalOf s i with
    | none => 0xF
    | some k =>
      if k.val ≥ 32 then 0xF
      else match allHh.find? fun h => holdsExcl s h k with
        | some h => match (hhAt s h).lease with
          | some l => match l.shelves.find? fun e => e.1 == k.val with
            | some e => e.2 % 16
            | none => 0xF
          | none => 0xF
        | none => match (poolOfGl s k).bind (poolDef s) with
          | some d => d.shelfMask % 16
          | none => 0xF

/-- A mask takes effect: shelves it unpowers go OFF, shelves it powers wake while the domain is on. -/
def remask (c : SiteSt) (on : Bool) (m : Nat) : SiteSt :=
  let sh := Vector.ofFn fun j : Fin 4 => match c.shelves.get j, m.testBit j.val with
    | _, false => Shelf.off
    | .off, true => if on then .waking else .off
    | x, true => x
  keepShelves { c with mask := m, shelves := sh } fun j => m.testBit j
def applyMask (s : State) (i : Site) : State :=
  upSite s i fun c => remask c (domainIsOn s i.val) (shelfMaskOf s i)

/-- A WAKING shelf ends its ramp and zeroing (R280). -/
def wakeDone (s : State) (i : Site) (j : Fin 4) : State :=
  if (siteAt s i).shelves.get j = .waking then
    upSite s i fun c => keepShelves { c with shelves := c.shelves.set j.val .on j.isLt } fun n => n != j.val
  else s

/-- A cluster reset: queues, registers and the accumulator file (R162, R280, R368); pantry and shelves stay. -/
def resetSite (c : SiteSt) : SiteSt :=
  { SiteSt.init with
    retired := c.retired, dead := c.dead, failStatus := c.failStatus, served := c.served, inReset := c.inReset
    shelves := c.shelves, mask := c.mask, pantry := c.pantry, seals := c.seals, testOk := c.testOk }

/-- A cluster domain switches off: ON shelves are retained, a wake is abandoned, the cluster is reset (R280, R405). -/
def clusterOff (s : State) (i : Site) : State :=
  upSite (setDomain s i.val false) i fun c =>
    let c := { resetSite c with inReset := true }
    let sh := c.shelves.map fun x => match x with
      | .on => Shelf.retain
      | .waking => .off
      | x => x
    keepShelves { c with shelves := sh } fun j => match fin? 4 j with
      | some j => sh.get j == .retain
      | none => false
/-- A cluster domain switches on: reset is released, RETAIN returns to ON, shelves of the mask wake (R280, R404). -/
def clusterOn (s : State) (i : Site) : State :=
  upSite (setDomain s i.val true) i fun c =>
    { c with
      inReset := false
      shelves := Vector.ofFn fun j : Fin 4 => match c.shelves.get j with
        | .retain => Shelf.on
        | .off => if c.mask.testBit j.val then .waking else .off
        | x => x }

/-- The units of a region's own domain lose their state with it: control core, hallway, MVE (R402, R404). -/
def regionOff (s : State) (r : Rg) : State :=
  upReg (setDomain s (34 + r.val) false) r fun g =>
    { g with inReset := true, core := Core.init, mve := RQueue.init, landing := .replicate 2 none }
def regionOn (s : State) (r : Rg) : State := upReg (setDomain s (34 + r.val) true) r fun g => { g with inReset := false }
def larderOff (s : State) (r : Rg) : State :=
  upReg (setDomain s (42 + r.val) false) r fun g => { g with larder := RQueue.init, ld := LdRegs.init }

/-- A domain takes a state; on a domain already in that state nothing happens. -/
def switchDomain (s : State) (d : Nat) (on : Bool) : State :=
  if domainIsOn s d == on then s
  else match fin? 34 d, fin? 8 (d - 34), fin? 8 (d - 42) with
    | some i, _, _ => if on then clusterOn s i else clusterOff s i
    | none, some r, _ => if on then regionOn s r else regionOff s r
    | none, none, some r => if on then setDomain s d true else larderOff s r
    | _, _, _ => enablePorts (setDomain s d on)

/- Zeroing (R67, R281). -/

/-- Modulus sets, programs and constants that a zeroing invalidates (R159, R206, R207); windows close (R233)
unless a pool switch keeps them (R331). -/
def invalidated (t : HSet) (keepWins : Bool) : HSet :=
  { t with
    msets := .replicate 8 MSet.invalid, progs := .replicate 16 Prog.invalid, consts := .replicate 76 none
    wins := if keepWins then t.wins else .replicate 4 KWin.shut, roots := false }

/-- A zeroing begins: shelves in RETAIN are switched OFF; a self-test on the site ends (R281, R412). -/
def zeroBegin (s : State) (i : Site) (keepWins : Bool) : State :=
  upSite s i fun c =>
    let sh := c.shelves.map fun x => if x = .retain then Shelf.off else x
    keepShelves { c with
      pn := { c.pn with zeroBusy := true }, shelves := sh, inflight := [], frozen := none, testing := false
      st := { c.st with streams := if keepWins then c.st.streams.map Strm.rewind else [] }, accFly := []
      sets := c.sets.map fun t => invalidated t keepWins } fun j => match fin? 4 j with
        | some j => sh.get j != .off
        | none => false

/-- PANTRY_ZEROING: the ON shelves and the accumulator file are zero (R162, R281). -/
def zeroDone (s : State) (i : Site) : State :=
  if !(siteAt s i).pn.zeroBusy then s
  else
    let s := upSite s i fun c =>
      keepShelves { c with acc := [], accLines := [], recent := [] } fun j => match fin? 4 j with
        | some j => c.shelves.get j != .on
        | none => false
    evPn s i fun p => { p with zeroBusy := false, zeroCount := satInc 16 p.zeroCount, evZeroDone := true }

/- A household's share of a cluster. -/

/-- A cluster that stays with the household under a replaced lease (R91, R125, R159, R186, R206, R233). -/
def refreshed (t : HSet) : HSet :=
  { invalidated t false with geo := .replicate 5 (.replicate 16 Geo.slot0) }
/-- The cluster begins to serve h under a lease load: a fresh series of every queue (R106). -/
def beginServe (s : State) (i : Site) (h : Hh) : State :=
  upSite s i fun c => { c with
      served := some h, sets := c.sets.set h.val HSet.init h.isLt, testing := false, frozen := none
      st := { c.st with streams := c.st.streams.filter fun x => x.hh != h } }
/-- The cluster leaves h: nothing of h stays on it. -/
def endServe (s : State) (i : Site) (h : Hh) : State :=
  upSite s i fun c => { c with
    served := if c.served = some h then none else c.served
    sets := c.sets.set h.val HSet.init h.isLt
    st := { c.st with streams := c.st.streams.filter fun x => x.hh != h }
    frozen := if c.served = some h then none else c.frozen }

/-- Sites that serve the global numbers of a mask. -/
def sitesOfMask (s : State) (m : Nat) : List (Gl × Site) :=
  (List.finRange 34).filterMap fun k => if decide (k.val < 32) && m.testBit k.val then (siteOf s k).map fun i => (k, i) else none

/-- A site of the list is being zeroed. -/
def anyZeroing (s : State) (m : Nat) : Bool := allSites.any fun i => m.testBit i.val && (siteAt s i).pn.zeroBusy
/-- A shelf of a cluster that h holds is WAKING (R280). -/
def anyWaking (s : State) (h : Hh) : Bool := (List.finRange 34).any fun k =>
  decide (k.val < 32) && holds s h k && match siteOf s k with
    | some i => (siteAt s i).shelves.toList.any (· == .waking)
    | none => false

/-- Route masks are set (R422). -/
def setRoute (s : State) (src mask : Nat) : State := { s with db := { s.db with mask := spSet 0 s.db.mask src mask } }
/-- The household's sources have empty masks and no pending bit (R422). -/
def clearRoutes (s : State) (h : Hh) (pend : Bool) : State :=
  (List.range 48).foldl (fun t j =>
    let t := setRoute t (hhSrc h j) 0
    if pend then { t with db := dbSetPend t.db (hhSrc h j) false } else t) s

end Sys2Proof.Machine
end

