-- ==== Sys2Proof/Machine/Link.lean ====
section
/-! DEFINITION. The link layer of the terrace and of the party wall: packets as they stand on a port, replay buffers,
and the messages that wait for their delivery (R347, R349, R357, R360, R380, R381, R386, R393). -/

namespace Sys2Proof.Machine

/- Packets on a port (R380, R381). -/

/-- The 32 bytes of a packet header. -/
def headerBytes (pk : Packet) : List Byte :=
  leBytes 1 pk.type ++ leBytes 1 pk.flags ++ leBytes 1 pk.hops ++ leBytes 1 (pk.srcHh % 16 * 16 + pk.dstHh % 16) ++
    leBytes 2 pk.dst ++ leBytes 2 pk.src ++ leBytes 4 pk.tag ++ leBytes 2 pk.length ++ leBytes 1 pk.status ++
    leBytes 1 pk.rsv ++ leBytes 8 pk.addr ++ leBytes 8 pk.aux
/-- One byte more of a CRC-32C, with the bits of each byte taken from the lowest up (log 22). -/
def crcByte (c : Nat) (b : Byte) : Nat :=
  (List.range 8).foldl (fun c _ => if c % 2 = 1 then (c / 2) ^^^ 0x82F63B78 else c / 2) (c ^^^ b.toNat)
/-- CRC-32C of a byte string; its polynomial 0x1EDC_6F41 is written with its bits in reverse. -/
def crc32c (bs : List Byte) : Nat := bs.foldl crcByte 0xFFFFFFFF ^^^ 0xFFFFFFFF
/-- Flits of a packet: header, payload and CRC, padded to whole flits of 64 bytes. -/
def flits (pk : Packet) : Nat := cdiv (36 + pk.payload.length) 64
/-- The bytes of a packet as they pass the port. -/
def wireBytes (pk : Packet) : List Byte :=
  let body := headerBytes pk ++ pk.payload
  let framed := body ++ leBytes 4 (crc32c body)
  framed ++ List.replicate (64 * flits pk - framed.length) 0

/- Replay buffers (R380, R386). -/

/-- Bytes that a message takes in a replay buffer. -/
def replayBytes : Emit → Nat
  | .packet _ pk => 64 * flits pk
  | .frame _ _ _ _ data => data.length + 64
  | .bulk _ data => data.length + 64
  | _ => 64
/-- The newest messages that fit the 256 KiB of a buffer: the sender has waited for the acknowledgement of the others. -/
def fitReplay : Nat → List Emit → List Emit
  | _, [] => []
  | room, m :: ms => if replayBytes m ≤ room then m :: fitReplay (room - replayBytes m) ms else []
/-- A message leaves by a port and stays in its replay buffer until it is acknowledged. -/
def sendOn (s : State) (p : PortId) (m : Emit) : State :=
  upPort (send s m) p fun x => { x with replay := (fitReplay 262144 (m :: x.replay.reverse)).reverse }
/-- The neighbour's link layer has acknowledged all that left by the port: known when a packet comes from it (log 22). -/
def linkAcked (s : State) (p : PortId) : State := upPort s p fun x => { x with replay := [] }

def portActive (s : State) (n : Nat) : Bool := match fin? 18 n with
  | some p => (portAt s p).state == .active
  | none => false
/-- A port whose terrace half, or the party wall, waits for its reset takes no new work (R367). -/
def portHeld (s : State) (n : Nat) : Bool := quiescing s (if n < 16 then 0x52 + n / 8 else 0x54)

/- The party wall (R393). -/

/-- Party-wall ports that are ACTIVE (R393). -/
def wallUp (s : State) : Bool := portActive s 16 || portActive s 17
/-- Port of the n-th message of a run: the ACTIVE ports take turns. -/
def wallPort (s : State) (n : Nat) : Option PortId :=
  if portActive s 16 && (!portActive s 17 || n % 2 == 0) then some 16 else if portActive s 17 then some 17 else none
/-- The n-th message of a run leaves for the twin; none leaves while no port is ACTIVE. -/
def sendWall (s : State) (n : Nat) (m : Emit) : State := match wallPort s n with
  | some p => sendOn s p m
  | none => s
/-- A run of messages. -/
def sendRun (s : State) (ms : List Emit) : State :=
  (ms.zip (List.range ms.length)).foldl (fun t e => sendWall t e.2 e.1) s
/-- A message of R347 leaves for the twin. -/
def mirror (s : State) (m : Mirror) : State := if s.pw.role = .primary ∧ s.pw.paired then sendWall s 0 (.regs m) else s

/-- What has left for the twin and is not acknowledged. -/
def wallReplay (s : State) : List Emit := (portAt s 16).replay ++ (portAt s 17).replay
def isFrameOf (h seq : Nat) : Emit → Bool
  | .frame g q _ _ _ => g == h && q == seq
  | _ => false
def isBulk : Emit → Bool
  | .bulk _ _ => true
  | _ => false
/-- The entry of a frame in the journal (R317). -/
def journalEntry (e : Nat × Bool) : List Byte := leBytes 8 (e.1 * 131072 + b2n e.2)
/-- Digest over the entries of a set in order (R348). -/
def setDigest (fs : List (Nat × Bool)) : Nat := beNat (sha384 (fs.flatMap journalEntry))
/-- The mark of a set leaves once every frame has been delivered (R393). -/
def markProgress (s : State) (h : Hh) : State := match s.pw.ship.get h with
  | none => s
  | some x =>
    if x.sent || !wallUp s || (wallReplay s).any (isFrameOf h.val x.seq) then s
    else
      let s := sendWall s 0 (.mark h.val x.seq x.frames.length (setDigest x.frames))
      { s with pw := { s.pw with ship := s.pw.ship.set h.val (some { x with sent := true }) h.isLt } }
/-- What waits for a delivery goes on: marks (R393), BUSY of a bulk copy (R360), SYNCED (R357). -/
def wallProgress (s : State) : State :=
  let s := allHh.foldl markProgress s
  { s with pw := { s.pw with
    bulkBusy := s.pw.bulkBusy && !(s.pw.bulkSent && !(wallReplay s).any isBulk)
    synced := s.pw.synced || (s.pw.syncing && (wallReplay s).isEmpty)
    syncing := s.pw.syncing && !(wallReplay s).isEmpty } }
/-- A packet has come in on a port. -/
def linkHeard (s : State) (p : PortId) : State := wallProgress (linkAcked s p)

/-- The frames of a set leave for the standby with their NEW data; the mark follows (R347, R349, R393). -/
def shipFrames (s : State) (h : Hh) (seq : Nat) (fs : List (Nat × Bool)) : State :=
  let s := sendRun s (fs.map fun e => .frame h.val seq e.1 e.2 (cRead s (e.1 * 131072 + (if e.2 then 65536 else 0)) 65536))
  markProgress { s with pw := { s.pw with ship := s.pw.ship.set h.val (some ⟨seq, fs, false⟩) h.isLt } } h

/-- The buffer of a failed port is discarded; on a party-wall port FRAME and BULK leave again by the other one where that
is ACTIVE. With neither ACTIVE nothing of a set waits any more: the standby's heartbeats show what it lacks (R386, log 22). -/
def discardReplay (s : State) (p : PortId) : State :=
  let ms := (portAt s p).replay.filter fun m => isBulk m || match m with
    | .frame .. => true
    | _ => false
  let s := linkAcked s p
  if p.val < 16 then s
  else if wallUp s then sendRun s ms
  else { s with pw := { s.pw with
    ship := s.pw.ship.map fun o => o.map fun x => { x with sent := true }, bulkSent := false, syncing := false } }

end Sys2Proof.Machine
end

