-- ==== Sys2Proof/Machine/Images.lean ====
section
/-! DEFINITION. Deed and lease images: layout, trust, the image checks, and what an image decides (R70-R86). -/

namespace Sys2Proof.Machine

/-- How a check fails: status, REASON, section index and byte offset (R84). -/
structure ImgErr where
  status : Nat
  reason : Nat
  sect : Nat
  offset : Nat
deriving DecidableEq, Repr

/-- A section found in the directory: its type, directory index, offset and content. -/
structure Sect where
  type : Nat
  ix : Nat
  off : Nat
  c : List Byte
deriving DecidableEq, Repr

/- Layout of the sections (R72, R73, R77). -/

/-- Known types of an image kind (1 deed, 2 lease). -/
def sectTypes (kind : Nat) : List Nat :=
  if kind = 1 then [1, 2, 3, 4, 5, 6, 7, 8, 9] else [0x101, 0x102, 0x103, 0x104, 0x105, 0x106, 0x107]
def sectRequired (kind : Nat) : List Nat := if kind = 1 then [1, 2, 7, 8, 9] else [0x101, 0x102, 0x103, 0x104]

/-- A section made of entries: bytes before the first, size of an entry, least and greatest count. -/
def sectEntries : Nat → Option (Nat × Nat × Nat × Nat)
  | 2 => some (0, 64, 16, 16)
  | 3 => some (0, 32, 1, 8)
  | 4 => some (0, 2, 1, 32)
  | 5 => some (0, 8, 1, 16)
  | 6 => some (0, 4, 1, 16)
  | 8 => some (4, 16, 0, 256)
  | 0x105 => some (0, 2, 1, 32)
  | 0x106 => some (0, 16, 1, 64)
  | 0x107 => some (0, 8, 1, 16)
  | _ => none
/-- The content length agrees with the table "Section types". -/
def sectLenOk (ty : Nat) (c : List Byte) : Bool :=
  match sectEntries ty with
  | some (head, sz, lo, hi) =>
    decide (head ≤ c.length) && (c.length - head) % sz == 0 && decide (lo ≤ (c.length - head) / sz) &&
      decide ((c.length - head) / sz ≤ hi)
  | none =>
    if ty = 0x101 then decide (3 ≤ c.length) && c.length == 16 + 12 * leAt c 1 1 + 8 * leAt c 2 1
    else if ty = 7 then c.length == 64
    else c.length == 16
/-- Entries of a section, with their offsets in it. -/
def entriesOf (ty : Nat) (c : List Byte) : List (Nat × List Byte) := match sectEntries ty with
  | some (head, sz, _, _) => (List.range ((c.length - head) / sz)).map fun i => (head + sz * i, slice c (head + sz * i) sz)
  | none => []

/-- Reserved bytes of the part before the entries, and of each entry (R73, R77). -/
def sectReserved : Nat → List Nat × List Nat
  | 1 => (List.range' 7 9, [])
  | 2 => ([], [14, 15])
  | 3 => ([], [3] ++ List.range' 10 6 ++ List.range' 24 8)
  | 5 => ([], [2, 3])
  | 6 => ([], [3])
  | 8 => ([2, 3], List.range' 2 4)
  | 9 => ([3] ++ List.range' 10 6, [])
  | 0x101 => (List.range' 3 13, [])
  | 0x102 => (List.range' 5 11, [])
  | 0x103 => (List.range' 3 13, [])
  | 0x104 => (List.range' 1 15, [])
  | 0x106 => ([], List.range' 2 4)
  | 0x107 => ([], [2, 3])
  | _ => ([], [])
/-- Offset x of a section is a byte that the tables do not name. -/
def isReserved (ty x : Nat) : Bool :=
  let r := sectReserved ty
  match sectEntries ty with
  | some (head, sz, _, _) => if x < head then r.1.contains x else r.2.contains ((x - head) % sz)
  | none => r.1.contains x

def within (lo hi v : Nat) : Bool := decide (lo ≤ v) && decide (v ≤ hi)
def zeroOr (lo hi v : Nat) : Bool := v == 0 || within lo hi v

/-- Fields outside their range, by offset: those before the entries (R73, R77). `solo`: the strap role is SOLO. -/
def headRange (ty log2n : Nat) (solo : Bool) (c : List Byte) : List Nat :=
  let f (o n : Nat) := leAt c o n
  let bad (o : Nat) (ok : Bool) : List Nat := if ok then [] else [o]
  match ty with
  | 1 => bad 0 (decide (f 0 2 ≤ 0xFFF)) ++ bad 2 (solo || (decide (f 2 2 ≤ 0xFFF) && f 2 2 != f 0 2)) ++ bad 6 (decide (f 6 1 < 4))
  | 7 => (List.range 64).filter fun d => decide (f d 1 > 1)
  | 8 => bad 0 (decide (f 0 1 ≤ 63)) ++ bad 1 (within 1 64 (f 1 1))
  | 9 => bad 0 (decide (f 0 1 < 32)) ++ bad 1 (decide (f 1 1 ≤ 1)) ++ bad 2 (zeroOr 5 100 (f 2 1)) ++
      bad 4 (within 600 1800 (f 4 2)) ++ bad 6 (zeroOr 5 500 (f 6 2)) ++ bad 8 (f 1 1 != 1 || within 400 700 (f 8 2))
  | 0x101 => bad 0 (within 12 17 (f 0 1)) ++ bad 1 (within 1 60 (f 1 1)) ++ bad 2 (decide (f 2 1 ≤ 16))
  | 0x102 => bad 4 (decide (f 4 1 ≤ 1))
  | 0x103 => bad 0 (decide (f 0 1 ≤ 2)) ++ bad 1 (decide (f 1 1 ≤ 2)) ++ bad 2 (f 2 1 == 0 || (f 2 1 == 1 && f 0 1 == 2))
  | 0x104 => bad 0 (f 0 1 == 0 || (decide (log2n ≤ f 0 1 + 9) && decide (f 0 1 ≤ 9)))
  | _ => []
/-- Fields of one entry outside their range. -/
def entryRange (ty : Nat) (e : List Byte) : List Nat :=
  let f (o n : Nat) := leAt e o n
  let bad (o : Nat) (ok : Bool) : List Nat := if ok then [] else [o]
  match ty with
  | 2 => bad 0 (decide (f 0 1 ≤ 1)) ++ bad 1 (decide (f 1 1 ≤ 7) || f 1 1 == 0xFF) ++ bad 2 (decide (f 2 1 ≤ 63)) ++
      bad 3 (decide (f 3 1 ≤ 64))
  | 3 => bad 0 (decide (f 0 1 ≤ 1)) ++ bad 1 (zeroOr 5 200 (f 1 1)) ++ bad 2 (decide (f 2 1 < 16)) ++
      bad 0x10 ((List.range 16).all fun h => (f 8 2).testBit h == (bits (f 0x10 8) (4 * h) 4 != 0))
  | 4 => bad 0 (decide (f 0 1 ≤ 31)) ++ bad 1 (decide (f 1 1 ≤ 9))
  | 5 => bad 0 (decide (f 0 1 ≤ 15)) ++ bad 1 (within 1 3 (f 1 1)) ++
      bad 4 (if f 1 1 = 3 then within 1000 200000 (f 4 4) else within 1 10000000 (f 4 4))
  | 6 => bad 0 (decide (f 0 1 ≤ 7)) ++ bad 1 (decide (f 1 1 ≤ 1)) ++ bad 2 (within 1 2 (f 2 1))
  | 8 => bad 0 (decide (f 0 2 ≤ 1023)) ++ bad 6 (decide (f 6 10 < 2 ^ 74))
  | 0x105 => bad 0 (decide (f 0 1 ≤ 31)) ++ bad 1 (decide (f 1 1 < 16))
  | 0x106 => bad 0 (decide (f 0 2 ≤ 47)) ++ bad 6 (decide (f 6 10 < 2 ^ 74))
  | 0x107 => bad 0 (decide (f 0 1 ≤ 15)) ++ bad 1 (f 1 1 == 0x10) ++ bad 4 (within 1 10000000 (f 4 4))
  | _ => []
/-- The number that may stand only once in a section, for sections of sources, shelf clusters and timers. -/
def entryKey (ty : Nat) (e : List Byte) : Option Nat := match ty with
  | 5 => some (leAt e 0 1)
  | 8 => some (leAt e 0 2)
  | 0x105 => some (leAt e 0 1)
  | 0x106 => some (leAt e 0 2)
  | 0x107 => some (leAt e 0 1)
  | _ => none

/- Checks 3 to 7 (R70, R81). -/

def imgMagic : Nat := 0x4C4D4E4B

/-- Check 4: fields of the header in offset order. A deed whose DEED_DIGEST is not 0 fails here (log 31). -/
def headerErr (img : List Byte) (len kind hh : Nat) : Option ImgErr :=
  let f (o n : Nat) := leAt img o n
  let err (o : Nat) : Option ImgErr := some ⟨stImgForm, 0x01, 0xFF, o⟩
  if f 0 4 ≠ imgMagic then err 0
  else if f 4 1 ≠ 1 then err 4
  else if f 5 1 ≠ kind then err 5
  else if f 6 1 ≠ hh then err 6
  else if f 8 4 ≠ len then err 8
  else if kind = 1 ∧ f 0x18 8 ≠ 0 then err 0x18
  else if f 0x50 4 ≥ 2 then err 0x50
  else match (List.range' 0x54 44).find? fun o => f o 1 != 0 with
    | some o => err o
    | none => none

/-- Checks 5 to 7: the device, the signer and the floor. `also`: serial numbers that TARGET may name beside the
package's own, in a takeover the primary's (R354). -/
def trustErr (img : List Byte) (serial : Nat) (also : List Nat) (signers : List Nat) (floor : Nat) : Option ImgErr :=
  let t := leAt img 0x10 8
  if t ≠ 0 ∧ t ≠ serial ∧ !also.contains t then some ⟨stImgSig, 0x13, 0xFF, 0x10⟩
  else if !signers.contains (beNat (slice img 0x20 48)) then some ⟨stImgSig, 0x10, 0xFF, 0x20⟩
  else if leAt img 0x0C 4 < floor then some ⟨stImgSig, 0x11, 0xFF, 0x0C⟩
  else none

/-- Signers of deeds and firmware: the attic's digests that are not revoked (R81). -/
def deedSigners (a : Attic) : List Nat :=
  (List.finRange 4).filterMap fun i => if a.revoked.get i then none else some (a.signers.get i)

/-- The signed bytes and the signature block of an image or firmware (R80). -/
def signedBytes (img : List Byte) : List Byte := img.take (img.length - 256)
/-- Check 8: the signature block is well formed, the key is the signer's, and ECDSA on P-384 verifies (R80, R432,
R433). A reserved byte of the block that is not 0, and a SIGNER that is not the digest of the key, fail this check
(log 31). -/
def signatureOk (img : List Byte) (signerOff : Nat) : Bool :=
  let b := img.drop (img.length - 256)
  let g (o : Nat) := beNat (slice b o 48)
  let (x, y, r, t) := (g 0, g 48, g 96, g 144)
  (b.drop 192).all (· == 0) && slice img signerOff 48 == sha384 (b.take 96) &&
    decide (x < p384.p) && decide (y < p384.p) && within 1 (p384.n - 1) r && within 1 (p384.n - 1) t && onCurve p384 x y &&
    ecdsaVerify p384 (beNat (sha384 (signedBytes img))) (x, y) r t

/- Checks 9 to 11. -/

/-- Check 9 on one directory entry: the offset in the entry of its first failing field. -/
def dirEntryErr (img : List Byte) (kind dend : Nat) (seen : List Sect) (e : List Byte) : Option Nat :=
  let ty := leAt e 0 2
  let off := leAt e 4 4
  let len := leAt e 8 4
  let lim := img.length - 256
  if !(sectTypes kind).contains ty || seen.any (fun x => x.type == ty) then some 0
  else if leAt e 2 1 ≠ 1 then some 2
  else if leAt e 3 1 ≠ 0 then some 3
  else if off % 64 ≠ 0 ∨ off < dend then some 4
  else if seen.any fun x => decide (off < x.off + x.c.length) && decide (x.off < off + len) then some 4
  else if off + len > lim ∨ !sectLenOk ty (slice img off (min len lim)) then some 8
  else if leAt e 12 4 ≠ 0 then some 12
  else none

/-- Check 9: the directory (R71, R72). A missing section has no directory entry: SECTION reads 0xFF and OFFSET names the
count of sections (log 31). -/
def directory (img : List Byte) (kind : Nat) : Except ImgErr (List Sect) :=
  let n := leAt img 7 1
  let dend := 0x80 + 16 * n
  if n = 0 ∨ n > 32 ∨ dend > img.length - 256 then .error ⟨stImgForm, 0x03, 0xFF, 7⟩
  else
    let r := (List.range n).foldl (fun acc i => match acc with
      | .error x => .error x
      | .ok seen =>
        let e := slice img (0x80 + 16 * i) 16
        match dirEntryErr img kind dend seen e with
        | some o => .error ⟨stImgForm, 0x03, i, 0x80 + 16 * i + o⟩
        | none => .ok (seen ++ [⟨leAt e 0 2, i, leAt e 4 4, slice img (leAt e 4 4) (leAt e 8 4)⟩])) (Except.ok ([] : List Sect))
    match r with
    | .error x => .error x
    | .ok ss =>
      if (sectRequired kind).all fun ty => ss.any fun x => x.type == ty then .ok ss
      else .error ⟨stImgForm, 0x03, 0xFF, 7⟩

/-- Check 10: the first nonzero byte that is reserved in a section, or lies between sections and then belongs to no
entry, so that SECTION reads 0xFF (log 31). -/
def reservedErr (img : List Byte) (ss : List Sect) : Option ImgErr :=
  let dend := 0x80 + 16 * leAt img 7 1
  let hit (p : Nat) : Option Nat := match ss.find? fun x => decide (x.off ≤ p) && decide (p < x.off + x.c.length) with
    | some x => if isReserved x.type (p - x.off) then some x.ix else none
    | none => some 0xFF
  (List.range' dend (img.length - 256 - dend)).findSome? fun p =>
    if leAt img p 1 = 0 then none else (hit p).map fun ix => ⟨stImgForm, 0x04, ix, p⟩

def sectOf (ss : List Sect) (ty : Nat) : List Byte := match ss.find? fun x => x.type == ty with
  | some x => x.c
  | none => []

/-- Offsets in a section that fail check 11. -/
def sectRange (ss : List Sect) (solo : Bool) (x : Sect) : List Nat :=
  let es := entriesOf x.type x.c
  let dups := (es.zip (List.range es.length)).filterMap fun p => match entryKey x.type p.1.2 with
    | none => none
    | some k => if (es.take p.2).any fun q => entryKey x.type q.2 == some k then some p.1.1 else none
  headRange x.type (leAt (sectOf ss 0x101) 0 1) solo x.c ++ (es.flatMap fun e => (entryRange x.type e.2).map (e.1 + ·)) ++ dups
/-- Check 11: the failing field that lies first in the image. -/
def rangeErr (ss : List Sect) (solo : Bool) : Option ImgErr :=
  let all := ss.flatMap fun x => (sectRange ss solo x).map fun o => (x.off + o, x.ix)
  match all with
  | [] => none
  | a :: as =>
    let m := as.foldl (fun b y => if y.1 < b.1 then y else b) a
    some ⟨stImgForm, 0x06, m.2, m.1⟩

/- What an image says. -/

def routesOf (ty : Nat) (c : List Byte) : List RouteEntry := (entriesOf ty c).map fun e => ⟨leAt e.2 0 2, leAt e.2 6 10⟩
def timersOf (ty : Nat) (c : List Byte) : List TimerClaim := (entriesOf ty c).map fun e => ⟨leAt e.2 0 1, leAt e.2 1 1, leAt e.2 4 4⟩
def orDefault (v d : Nat) : Nat := if v = 0 then d else v

def parseGrant (e : List Byte) : Grant :=
  { enabled := leAt e 0 1 == 1, pool := fin? 8 (leAt e 1 1), vecBase := leAt e 2 1, vecCount := leAt e 3 1,
    excl := leAt e 4 4, floor := leAt e 8 4, gib := leAt e 12 2, signer := beNat (slice e 16 48) }
def parsePool (e : List Byte) : PoolDef :=
  { enabled := leAt e 0 1 == 1, quantum := orDefault (leAt e 1 1) 20, shelfMask := leAt e 2 1, clusters := leAt e 4 4,
    members := leAt e 8 2, weights := Vector.ofFn fun h => bits (leAt e 16 8) (4 * h.val) 4 }
def parseBallast (c : List Byte) (outlet : Nat) : Ballast :=
  { enable := leAt c 0 1, mode := leAt c 1 1, band := orDefault (leAt c 2 1) 20, setpoint := leAt c 4 2,
    slew := orDefault (leAt c 6 2) 50, outlet := if leAt c 1 1 = 1 then leAt c 8 2 else outlet }
/-- The pair digest of R356: sections other than SYSTEM in directory order. -/
def pairDigest (ss : List Sect) : Nat := beNat (sha384 ((ss.filter fun x => x.type != 1).flatMap fun x => x.c))

def parseDeed (img : List Byte) (ss : List Sect) : Deed :=
  let sys := sectOf ss 1
  let hh := sectOf ss 2
  let db := sectOf ss 8
  { terraceId := leAt sys 0 2, twinId := leAt sys 2 2, portEnable := leAt sys 4 2, pwEnable := leAt sys 6 1,
    grants := Vector.ofFn fun h => parseGrant (slice hh (64 * h.val) 64),
    pools := (entriesOf 3 (sectOf ss 3)).map fun e => parsePool e.2,
    pinmux := (entriesOf 4 (sectOf ss 4)).map fun e => (leAt e.2 0 1, leAt e.2 1 1),
    timers := timersOf 5 (sectOf ss 5),
    landing := if ss.any fun x => x.type == 6 then
        some ((entriesOf 6 (sectOf ss 6)).map fun e => (leAt e.2 0 1, leAt e.2 1 1, leAt e.2 2 1)) else none,
    powerOff := Vector.ofFn fun d => leAt (sectOf ss 7) d.val 1 == 1,
    pfVecBase := leAt db 0 1, pfVecCount := leAt db 1 1, routes := routesOf 8 db,
    ballast := parseBallast (sectOf ss 9) 0x262, sequence := leAt img 0x0C 4, digest := beNat (sha384 (signedBytes img)),
    pairDigest := pairDigest ss, raiseFloor := (leAt img 0x50 4).testBit 0, image := img }

def parseLease (img : List Byte) (ss : List Sect) : Lease :=
  let c := sectOf ss 0x101
  let l := leAt c 1 1
  let n := l + leAt c 2 1
  let w (o i : Nat) := leAt c (0x10 + 4 * (o + i)) 4
  { log2n := leAt c 0 1, primes := (List.range l).map (w 0), specials := (List.range (n - l)).map (w l),
    roots := (List.range n).map (w n), decs := (List.range l).map (w (2 * n)),
    excl := leAt (sectOf ss 0x102) 0 4, usePool := leAt (sectOf ss 0x102) 4 1 == 1,
    mode := leAt (sectOf ss 0x103) 0 1, naming := leAt (sectOf ss 0x103) 1 1, sched := leAt (sectOf ss 0x103) 2 1 == 1,
    rowLog2 := leAt (sectOf ss 0x104) 0 1,
    shelves := (entriesOf 0x105 (sectOf ss 0x105)).map fun e => (leAt e.2 0 1, leAt e.2 1 1),
    routes := routesOf 0x106 (sectOf ss 0x106), timers := timersOf 0x107 (sectOf ss 0x107),
    sequence := leAt img 0x0C 4, digest := beNat (sha384 (signedBytes img)), image := img }

/- Check 12 (R85, R86). -/

/-- A conflict at a relative offset of a section. -/
def conflictAt (ss : List Sect) (reason ty rel : Nat) : Option ImgErr := match ss.find? fun x => x.type == ty with
  | some x => some ⟨stImgConf, reason, x.ix, x.off + rel⟩
  | none => some ⟨stImgConf, reason, 0xFF, 7⟩
/-- First of a list of outcomes. -/
def firstErr (l : List (Option ImgErr)) : Option ImgErr := l.findSome? id

/-- The place of the first entry that repeats the key of an earlier one. -/
def firstDup (l : List (Nat × Nat)) : Option Nat :=
  ((l.zip (List.range l.length)).find? fun p => (l.take p.2).any fun q => q.2 == p.1.2).map fun p => p.1.1

/-- 0x20 PIN. -/
def pinErr (d : Deed) (ss : List Sect) : Option ImgErr :=
  let es := d.pinmux.zip (List.range d.pinmux.length)
  let twice := es.findSome? fun p =>
    let before := d.pinmux.take p.2
    if before.any fun q => q.1 == p.1.1 then some (2 * p.2)
    else if decide (2 ≤ p.1.2) && before.any fun q => q.2 == p.1.2 then some (2 * p.2 + 1)
    else none
  match twice with
  | some o => conflictAt ss 0x20 4 o
  | none =>
    let has (f : Nat) := d.pinmux.any fun q => q.2 == f
    if d.ballast.mode = 1 ∧ !(has 4 && has 5 && d.timers.any fun t => t.func == 2) then conflictAt ss 0x20 9 1 else none

/-- 0x22 LANDING. -/
def landingErr (d : Deed) (ss : List Sect) : Option ImgErr :=
  let l := d.landing.getD []
  match firstDup ((l.zip (List.range l.length)).map fun p => (4 * p.2, 2 * p.1.1 + p.1.2.1)) with
  | some o => conflictAt ss 0x22 6 o
  | none => none

def masksOf (m : Nat) : List Nat := (List.range 32).filter fun k => m.testBit k
/-- Global numbers that a deed grants, with the section and offset of the grant, in section order. -/
def grantList (d : Deed) : List (Nat × Nat × Nat) :=
  (allHh.flatMap fun h => (masksOf (d.grants.get h).excl).map fun k => (2, 64 * h.val + 4, k)) ++
  ((d.pools.zip (List.range d.pools.length)).flatMap fun p => (masksOf p.1.clusters).map fun k => (3, 32 * p.2 + 4, k))
def grantedMask (d : Deed) : Nat :=
  d.pools.foldl (fun m p => m ||| p.clusters) (allHh.foldl (fun m h => m ||| (d.grants.get h).excl) 0)

/-- 0x23 CLUSTER for a deed: the grants in image order, then pools without members, then POOL against MEMBERS (log 31). -/
def deedClusterErr (s : State) (d : Deed) (ss : List Sect) : Option ImgErr :=
  let gs := grantList d
  let g := (gs.zip (List.range gs.length)).find? fun p =>
    let act := match fin? 34 p.1.2.2 with
      | some k => isActive s k
      | none => false
    !act || (gs.take p.2).any fun q => q.2.2 == p.1.2.2
  let empty := (d.pools.zip (List.range d.pools.length)).find? fun p => p.1.enabled && p.1.members == 0
  let hpool := allHh.find? fun h => match (d.grants.get h).pool with
    | some i => match d.pools[i.val]? with
      | some p => !p.members.testBit h.val
      | none => true
    | none => false
  let ppool := (d.pools.zip (List.range d.pools.length)).find? fun p => allHh.any fun h =>
    p.1.members.testBit h.val && (d.grants.get h).pool.map (·.val) != some p.2
  firstErr [g.bind fun p => conflictAt ss 0x23 p.1.1 p.1.2.1, empty.bind fun p => conflictAt ss 0x23 3 (32 * p.2 + 8),
    hpool.bind fun h => conflictAt ss 0x23 2 (64 * h.val + 1), ppool.bind fun p => conflictAt ss 0x23 3 (32 * p.2 + 8)]

/-- Vectors of a target mask. -/
def vectorsIn (m : Nat) : List Nat := (List.range 64).filter fun v => m.testBit (10 + v)
def inVec (base count v : Nat) : Bool := decide (base ≤ v) && decide (v < base + count)

/-- 0x24 VECTOR for a deed. -/
def deedVectorErr (d : Deed) (ss : List Sect) : Option ImgErr :=
  let rs : List (Nat × Nat × Nat × Nat) := (8, 0, d.pfVecBase, d.pfVecCount) ::
    allHh.map fun h => (2, 64 * h.val + 2, (d.grants.get h).vecBase, (d.grants.get h).vecCount)
  let bad := (rs.zip (List.range rs.length)).find? fun p =>
    let (_, _, b, n) := p.1
    decide (b + n > 64) || (rs.take p.2).any fun q => decide (b < q.2.2.1 + q.2.2.2) && decide (q.2.2.1 < b + n) &&
      decide (n ≠ 0) && decide (q.2.2.2 ≠ 0)
  let ent := (d.routes.zip (List.range d.routes.length)).findSome? fun p =>
    if p.1.source ≥ 256 then some (4 + 16 * p.2)
    else if (vectorsIn p.1.targets).any fun v => !inVec d.pfVecBase d.pfVecCount v then some (4 + 16 * p.2 + 6)
    else none
  firstErr [bad.bind fun p => conflictAt ss 0x24 p.1.1 p.1.2.1, ent.bind fun o => conflictAt ss 0x24 8 o]

/-- A domain may be off under R86; clusters by the global number whose site the entry governs (R73). -/
def mayBeOff (s : State) (granted ports : Nat) (d : Nat) : Bool :=
  let ungranted (r : Nat) : Bool := bits granted (4 * r) 4 == 0
  match fin? 34 d with
  | some k =>
    if d < 32 then !isActive s k || !granted.testBit d
    else match siteOf s k with
      | some i => (siteAt s i).retired
      | none => true
  | none =>
    if d < 42 then ungranted (d - 34)
    else if d < 50 then ungranted (d - 42)
    else if d = 60 then bits ports 0 8 == 0
    else if d = 61 then bits ports 8 8 == 0
    else d == 62 && s.pw.role == .solo

/-- 0x25 POWER. -/
def powerErr (s : State) (d : Deed) (ss : List Sect) : Option ImgErr :=
  match findFin 64 fun n => d.powerOff.get n && !mayBeOff s (grantedMask d) d.portEnable n.val with
  | some n => conflictAt ss 0x25 7 n.val
  | none => none

/-- 0x2A QUOTA: the entry at which the sum passes 510 GiB. -/
def quotaErr (d : Deed) (ss : List Sect) : Option ImgErr :=
  let sum (n : Nat) : Nat := (allHh.filter fun h => decide (h.val ≤ n) && (d.grants.get h).enabled).foldl
    (fun a h => a + (d.grants.get h).gib) 0
  match allHh.find? fun h => decide (sum h.val > 510) with
  | some h => conflictAt ss 0x2A 2 (64 * h.val + 12)
  | none => none

/-- Check 12 for a deed; two claims of one timer in it have failed check 11. -/
def deedConflict (s : State) (d : Deed) (ss : List Sect) : Option ImgErr :=
  firstErr [pinErr d ss, landingErr d ss, deedClusterErr s d ss, deedVectorErr d ss, powerErr s d ss, quotaErr d ss]

/-- 0x21 TIMER for a lease: a timer of the deed or of another live lease. -/
def leaseTimerErr (s : State) (d : Deed) (h : Hh) (l : Lease) (ss : List Sect) : Option ImgErr :=
  let taken := (d.timers ++ allHh.flatMap fun g => if g = h then [] else match (hhAt s g).lease with
    | some x => x.timers
    | none => []).map (·.timer)
  match (l.timers.zip (List.range l.timers.length)).find? fun p => taken.contains p.1.timer with
  | some p => conflictAt ss 0x21 0x107 (8 * p.2)
  | none => none

/-- The pool of a household under a deed; one that is not ENABLED is no pool for USE_POOL (log 31). -/
def memberPool (d : Deed) (h : Hh) : Option PoolDef := match (d.grants.get h).pool with
  | some i => match d.pools[i.val]? with
    | some p => if p.enabled then some p else none
    | none => none
  | none => none

/-- 0x23 CLUSTER for a lease (R78, R85). -/
def leaseClusterErr (s : State) (d : Deed) (h : Hh) (l : Lease) (ss : List Sect) : Option ImgErr :=
  let outside := (masksOf l.excl).any fun k => !(d.grants.get h).excl.testBit k || !(match fin? 34 k with
    | some g => isActive s g
    | none => false)
  if outside then conflictAt ss 0x23 0x102 0
  else if l.usePool && (memberPool d h).isNone then conflictAt ss 0x23 0x102 4
  else match (l.shelves.zip (List.range l.shelves.length)).find? fun p => !l.excl.testBit p.1.1 with
    | some p => conflictAt ss 0x23 0x105 (2 * p.2)
    | none => if l.excl = 0 ∧ !l.usePool then conflictAt ss 0x23 0x102 0 else none

/-- 0x24 VECTOR for a lease. -/
def leaseVectorErr (d : Deed) (h : Hh) (l : Lease) (ss : List Sect) : Option ImgErr :=
  let g := d.grants.get h
  let mine := l.excl ||| (if l.usePool then match memberPool d h with
    | some p => p.clusters
    | none => 0 else 0)
  match (l.routes.zip (List.range l.routes.length)).find? fun p =>
      ((vectorsIn p.1.targets).any fun v => !inVec g.vecBase g.vecCount v) ||
      (List.range 8).any fun r => p.1.targets.testBit r && bits mine (4 * r) 4 == 0 with
  | some p => conflictAt ss 0x24 0x106 (16 * p.2 + 6)
  | none => none

/-- First eight bytes of a digest, little-endian (R95). -/
def digest8 (dg : Nat) : Nat := leNat ((beBytes 48 dg).take 8)

/-- Check 12 for a lease; `dg` is the digest that DEED_DIGEST is compared with (R356). -/
def leaseConflict (s : State) (d : Deed) (h : Hh) (l : Lease) (ss : List Sect) (dg : Nat) : Option ImgErr :=
  let want := leAt l.image 0x18 8
  firstErr [leaseTimerErr s d h l ss, leaseClusterErr s d h l ss, leaseVectorErr d h l ss,
    if want ≠ 0 ∧ want ≠ dg then some ⟨stImgConf, 0x26, 0xFF, 0x18⟩ else none,
    if l.mode = 2 ∧ (d.grants.get h).pool.isSome then conflictAt ss 0x29 0x103 0 else none]

/-- Check 13: primes, repeats, roots, each in chain order (R17, R79). -/
def chainErr (l : Lease) (ss : List Sect) : Option ImgErr :=
  let qs := chain l
  let at_ (reason o : Nat) : Option ImgErr := match ss.find? fun x => x.type == 0x101 with
    | some x => some ⟨stModulus, reason, x.ix, x.off + 0x10 + 4 * o⟩
    | none => none
  let ix := List.range qs.length
  match ix.find? fun i => !primeAccepted (qs.getD i 0) with
  | some i => at_ 0x30 i
  | none => match ix.find? fun i => (qs.take i).contains (qs.getD i 0) with
    | some i => at_ 0x32 i
    | none => match ix.find? fun i => !rootAccepted (qs.getD i 1) (l.roots.getD i 0) l.log2n with
      | some i => at_ 0x31 (qs.length + i)
      | none => none

/-- Checks 8 to 11: the sections of a trusted image. OFFSET of a failed signature is the start of its block (log 31). -/
def trustedSections (img : List Byte) (kind : Nat) (solo : Bool) : Except ImgErr (List Sect) :=
  if !signatureOk img 0x20 then .error ⟨stImgSig, 0x12, 0xFF, img.length - 256⟩
  else match directory img kind with
    | .error x => .error x
    | .ok ss => match reservedErr img ss with
      | some x => .error x
      | none => match rangeErr ss solo with
        | some x => .error x
        | none => .ok ss

/-- Checks 4 to 7 for a deed, which need no Strongbox (R83). -/
def deedEarly (s : State) (img : List Byte) (len : Nat) : Option ImgErr :=
  match headerErr img len 1 0xFF with
  | some x => some x
  | none => trustErr img s.attic.serial [] (deedSigners s.attic) s.deedFloor
/-- Checks 8 to 12 for a deed. -/
def deedLate (s : State) (img : List Byte) : Except ImgErr Deed :=
  match trustedSections img 1 (s.pw.role == .solo) with
  | .error x => .error x
  | .ok ss => match deedConflict s (parseDeed img ss) ss with
    | some x => .error x
    | none => .ok (parseDeed img ss)
/-- Checks 4 to 12 for a deed. -/
def checkDeed (s : State) (img : List Byte) (len : Nat) : Except ImgErr Deed := match deedEarly s img len with
  | some x => .error x
  | none => deedLate s img

/-- What stands for a lease's own package while it is loaded: nothing in a load; in a takeover the digest of the
primary's deed and the primary's serial number where it is known (R354, R356). -/
structure TwinOf where
  digest : Nat
  serial : Nat
deriving DecidableEq, Repr

/-- Checks 4 to 7 for a lease of h. -/
def leaseEarly (s : State) (d : Deed) (h : Hh) (img : List Byte) (len : Nat) (twin : Option TwinOf) : Option ImgErr :=
  let g := d.grants.get h
  let floor := match (hhAt s h).lease with
    | some l => max g.floor l.sequence
    | none => g.floor
  match headerErr img len 2 h.val with
  | some x => some x
  | none => trustErr img s.attic.serial (twin.elim [] fun t => [t.serial]) [g.signer] floor
/-- Checks 8 to 13 for a lease of h. -/
def leaseLate (s : State) (d : Deed) (h : Hh) (img : List Byte) (twin : Option TwinOf) : Except ImgErr Lease :=
  match trustedSections img 2 false with
  | .error x => .error x
  | .ok ss =>
    let l := parseLease img ss
    match leaseConflict s d h l ss (twin.elim (digest8 d.digest) fun t => t.digest) with
    | some x => .error x
    | none => match chainErr l ss with
      | some x => .error x
      | none => .ok l
/-- Checks 4 to 13 for a lease of h. -/
def checkLease (s : State) (d : Deed) (h : Hh) (img : List Byte) (len : Nat) (twin : Option TwinOf) : Except ImgErr Lease :=
  match leaseEarly s d h img len twin with
  | some x => .error x
  | none => leaseLate s d h img twin

end Sys2Proof.Machine
end

