-- ==== Sys2Proof/Machine/Pools.lean ====
section
/-! DEFINITION. The loader's operations and time-slice pools: applying and replacing images, retiring, quanta,
switches and their save areas (R76, R82, R86-R93, R329-R334). -/

namespace Sys2Proof.Machine

/- Discarded accesses (R58, R63). -/

/-- Code of LAST_FUNC (R63). -/
def funcCode : Agent → Nat
  | .pf => 0
  | .vf h => h.val + 1
  | .cc _ => 0xFFFF
  | .house => 0xFFFF
/-- An access that R58 discards. -/
def discardBy (s : State) (f : Nat) : State := { s with discFunc := f, discCount := satInc 16 s.discCount }
def discard (s : State) (a : Agent) : State := discardBy s (funcCode a)
/-- The physical function and the house cores. -/
def pfOrHouse : Agent → Bool
  | .pf => true
  | .house => true
  | _ => false

/- The loader (R84-R93). -/

/-- An operation completes (R84, R88, R95); BOOT_STAT.STATUS keeps a failure of step 9 (R377). -/
def loaderEnd (s : State) (e : Option ImgErr) : State :=
  let x := e.getD ⟨stOk, 0, 0xFF, 0⟩
  let s := if e.isSome && s.boot.stage == 9 then { s with boot := { s.boot with status := x.status } } else s
  let s := match s.loader.waits with
    | some h => openWaiting s h
    | none => s
  raise { s with loader := { s.loader with
    busy := false, done := true, status := x.status, reason := x.reason, sect := x.sect, offset := x.offset
    waits := none, job := none, watch := 0, needs := 0 } } 1

/-- The house takes the Strongbox for a verification once no operation is in flight (R83): its operand memory is wiped
on a change of owner (R430). -/
def sbForHouse (s : State) : State :=
  if s.sb.owner = 0x11 then s
  else { s with sb := { s.sb with owner := 0x11, op := 4, status := stOk, mem := [], evWiped := true } }

/-- Commands that the household has in any queue, running engines, or a Strongbox operation in flight (R84 check 2). -/
def hhBusy (s : State) (h : Hh) : Bool :=
  (hhAt s h).tx.opened ||
  (allSites.any fun i =>
    let t := setAt s i h
    t.queues.toList.any (fun q => !q.ents.isEmpty) || t.xsq.run || t.psq.busy) ||
  (allRegions.any fun r => (regAt s r).larder.ents.any (fun e => e.hh == h) || (regAt s r).mve.ents.any (fun e => e.hh == h)) ||
  (match s.sb.cur with
    | some o => o.owner == .hh h
    | none => false)

/-- Sites on which the household's pool runs, with the place of each in the rising order of the pool's clusters
(R332). -/
def poolSites (s : State) (i : Fin 8) : List (Nat × Gl × Site) := match poolDef s i with
  | none => []
  | some d =>
    let ks := (List.finRange 34).filter fun k => decide (k.val < 32) && d.clusters.testBit k.val
    (ks.zip (List.range ks.length)).filterMap fun p => (siteOf s p.1).map fun x => (p.2, p.1, x)

def poolAt (s : State) (i : Fin 8) : PoolSt := s.pools.get i
/-- The household runs a quantum of its pool (R91). -/
def inQuantum (s : State) (h : Hh) : Bool := match poolOf s h with
  | some i => (poolAt s i).running == some h
  | none => false
/-- The household leaves its pool; a quantum it runs ends (R93 step 2). The member that the pool then serves is the
next ready one after it (log 20). -/
def leavePool (s : State) (h : Hh) : State := match poolOf s h with
  | none => s
  | some i =>
    let s := upPool s i fun p => { p with
      running := if p.running = some h then none else p.running
      next := if p.next = some h then none else p.next }
    (poolSites s i).foldl (fun t p => endServe t p.2.2 h) s

/-- A lease becomes current in one step (R87, R90, R91): clusters that leave end their service and are zeroed;
clusters that enter begin it; clusters that stay keep their pantry. `zero`: the entering clusters are zeroed now. -/
def leaseCurrent (s : State) (h : Hh) (l : Lease) (zero : Bool) : State :=
  let old := match (hhAt s h).lease with
    | some x => x.excl
    | none => 0
  let oldPool := match (hhAt s h).lease with
    | some x => x.usePool
    | none => false
  let leaving := (sitesOfMask s old).filter fun p => !l.excl.testBit p.1.val
  let staying := (sitesOfMask s old).filter fun p => l.excl.testBit p.1.val
  let entering := (sitesOfMask s l.excl).filter fun p => !old.testBit p.1.val
  let s := leaving.foldl (fun t p => zeroBegin (endServe t p.2 h) p.2 false) s
  let s := entering.foldl (fun t p => beginServe (if zero then zeroBegin t p.2 false else t) p.2 h) s
  let s := staying.foldl (fun t p => upSet t p.2 h refreshed) s
  let pool := match poolOf s h with
    | some i => poolSites s i
    | none => []
  let s := pool.foldl (fun t p => if l.usePool && oldPool then upSet t p.2.2 h refreshed
    else if l.usePool || oldPool then upSet t p.2.2 h fun _ => HSet.init else t) s
  let s := if oldPool && !l.usePool then leavePool s h else s
  let s := { s with regions := s.regions.map fun g =>
    { g with
      larder := { g.larder with geo := g.larder.geo.set h.val (.replicate 16 Geo.slot0) h.isLt }
      mve := { g.mve with geo := g.mve.geo.set h.val (.replicate 16 Geo.slot0) h.isLt }
      ld := { g.ld with ann := g.ld.ann.filter fun a => a.hh != h } } }
  let s := upHh s h fun x => { x with
    lease := some l, nextLease := none, vfOn := true
    cmd := { x.cmd with handle := l.naming != 0, dtValid := .replicate 64 0, dtSnap := [] } }
  let s := l.routes.foldl (fun t r => setRoute t (hhSrc h r.source) r.targets) (clearRoutes s h false)
  let s := (leaving ++ entering ++ staying).foldl (fun t p => applyMask t p.2) s
  { s with loader := { s.loader with
    job := some (.current h)
    watch := if zero then maskOf 34 fun n => (leaving ++ entering).any fun p => p.2.val == n else s.loader.watch } }

/-- Steps 4 and 5 of a retire (R93). -/
def retireEnd (s : State) (h : Hh) : State :=
  let s := clearRoutes s h true
  let s := { s with regions := s.regions.map fun g => { g with ld := { g.ld with ann := g.ld.ann.filter fun a => a.hh != h } } }
  let s := upHh s h fun x => { x with
    lease := none, nextLease := none, vfOn := false, cmd := { x.cmd with dtValid := .replicate 64 0, dtSnap := [] } }
  if s.sb.owner = h.val then { s with sb := { s.sb with mem := [], evWiped := true } } else s

/-- Clusters that h uses under a lease: its exclusive ones, and those of its pool where it runs on it. -/
def leaseMask (s : State) (h : Hh) (l : Lease) : Nat :=
  l.excl ||| (if l.usePool then match (poolOf s h).bind (poolDef s) with
    | some d => d.clusters
    | none => 0 else 0)
/-- Those of them that have a serving site (R92). -/
def leaseNeeds (s : State) (h : Hh) (l : Lease) : Nat := maskOf 32 fun n => (leaseMask s h l).testBit n && match fin? 34 n with
  | some k => isActive s k
  | none => false
/-- A cluster of the mask has no serving site any more (R92). -/
def lostCluster (s : State) (m : Nat) : Bool := (List.finRange 34).any fun k =>
  decide (k.val < 32) && m.testBit k.val && !isActive s k
/-- The load ends, and nothing is applied, because a cluster of the lease is lost (R92). -/
def loadLost (s : State) : State := loaderEnd s (some ⟨stImgConf, 0x2B, 0xFF, 0⟩)

/-- A cluster domain is on under a deed: the entry of the global number that the site holds says so, and the site is
neither fused off nor retired before the deed applies (R73, R86). -/
def siteOn (s : State) (d : Deed) (i : Site) : Bool :=
  !fusedSite s i && !(siteAt s i).retired && match globalOf s i with
    | some k => !(d.powerOff.get ⟨k.val, by omega⟩)
    | none => false
/-- Domains take the states of the deed's POWER section (R73, R86). -/
def applyPower (s : State) (d : Deed) : State :=
  (List.finRange 64).foldl (fun t n => match fin? 34 n.val with
    | some i => switchDomain t n.val (siteOn t d i)
    | none => switchDomain t n.val (!(d.powerOff.get n))) s

/-- A deed becomes current (R73, R82, R86, R87, R418). -/
def deedCurrent (s : State) (d : Deed) : State :=
  let b := d.ballast
  let s := { s with
    deed := some d
    pools := .replicate 8 PoolSt.init
    deedFloor := if d.raiseFloor then max s.deedFloor d.sequence else s.deedFloor
    hearth := { s.hearth with
      mode := b.mode == 1, enable := b.enable, slew := b.slew, band := b.band, setpoint := b.setpoint, started := false
      outletDc := if b.mode = 1 then b.outlet else s.hearth.outletDc }
    pw := { s.pw with twinId := d.twinId }
    boot := { s.boot with pairId := none } }
  let s := d.routes.foldl (fun t r => setRoute t r.source r.targets) s
  let s := enablePorts (applyPower s d)
  let s := allSites.foldl (fun t i => applyMask t i) s
  mirror s (.deed d.image)

/-- Check 12 is past: a lease of a household that is not live has its clusters zeroed first (R90); a replacement waits
for a quantum that the household runs, or is made at once (R91). -/
def leaseApply (s : State) (h : Hh) (l : Lease) : State :=
  let s := { s with loader := { s.loader with needs := leaseNeeds s h l } }
  match (hhAt s h).lease with
  | none =>
    let ps := sitesOfMask s l.excl
    let s := ps.foldl (fun t p => zeroBegin t p.2 false) s
    { s with loader := { s.loader with
      job := some (.create h l), watch := maskOf 34 fun n => ps.any fun p => p.2.val == n } }
  | some _ =>
    if inQuantum s h then
      { upHh s h (fun x => { x with nextLease := some l }) with loader := { s.loader with job := some (.quantum h) } }
    else mirror (leaseCurrent s h l true) (.lease h l.image)

/-- The house waits for the Strongbox with an image (R83). -/
def houseWaits (s : State) : Bool := match s.loader.job with
  | some (.verify _ _) => true
  | _ => s.boot.fwWait.isSome
/-- The image that waited for the Strongbox goes on at check 8 (R83, R84). -/
def verifyImage (s : State) (h : Option Hh) (img : List Byte) : State :=
  let s := { sbForHouse s with loader := { s.loader with job := none } }
  match h, s.deed with
  | none, _ => match deedLate s img with
    | .error e => loaderEnd s (some e)
    | .ok d => loaderEnd (deedCurrent s d) none
  | some h, some d => match leaseLate s d h img none with
    | .error e => loaderEnd s (some e)
    | .ok l => leaseApply s h l
  | some _, none => loaderEnd s (some ⟨stImgConf, 0x28, 0xFF, 0⟩)

/-- The loader goes on as far as the Strongbox, zeroings and wakes allow. -/
def loaderStep (s : State) : State := match s.loader.job with
  | none => s
  | some (.verify h img) => if s.sb.cur.isSome then s else verifyImage s h img
  | some (.quantum h) =>
    if lostCluster s s.loader.needs then loadLost (upHh s h fun x => { x with nextLease := none }) else s
  | some (.create h l) =>
    if lostCluster s s.loader.needs then loadLost s
    else if anyZeroing s s.loader.watch then s
    else mirror (leaseCurrent s h l false) (.lease h l.image)
  | some (.current h) => if anyZeroing s s.loader.watch || anyWaking s h then s else loaderEnd s none
  | some (.retire h) => if anyZeroing s s.loader.watch then s else loaderEnd (retireEnd s h) none
def loaderProgress (s : State) : State := loaderStep (loaderStep (loaderStep s))

/- Pools (R329-R334). -/

/-- A larder or MVE command of h names a cluster of the mask. -/
def regionNames (s : State) (h : Hh) (m : Nat) : Bool := allRegions.any fun r =>
  ((regAt s r).larder.ents.any fun e => e.hh == h && e.cmd.opcode == 0xC1 &&
    (List.finRange 4).any fun j => e.cmd.mod.testBit (28 + j.val) && m.testBit (clusterOf r j).val) ||
  ((regAt s r).mve.ents.any fun e => e.hh == h && e.cmd.opcode == 0xA1 &&
    (namesPantry s (.mve r) e e.cmd.opa false m || namesPantry s (.mve r) e e.cmd.opd true m))

/-- Pending work of a household on a pool (R329). -/
def pendingWork (s : State) (i : Fin 8) (h : Hh) : Bool :=
  ((poolSites s i).any fun p =>
    let t := setAt s p.2.2 h
    t.queues.toList.any (fun q => !q.ents.isEmpty) || t.xsq.run ||
      (t.psq.enable && decide (0 < (t.sems.get ⟨t.psq.trigSem % 16, by omega⟩).count))) ||
  (match poolDef s i with
    | some d => regionNames s h d.clusters
    | none => false)

/-- A member that may take a quantum now: it has pending work, or a replaced lease that waits for the quantum
(log 20). -/
def memberReady (s : State) (i : Fin 8) (h : Hh) : Bool :=
  poolOf s h == some i && !retiring s h && (match (hhAt s h).lease, poolDef s i with
    | some l, some d => l.usePool && d.enabled && d.members.testBit h.val
    | _, _ => false) && (pendingWork s i h || (hhAt s h).nextLease.isSome)

/-- The next member in ascending order after one, wrapping, that is ready (R76, R329). -/
def nextMember (s : State) (i : Fin 8) (after : Nat) : Option Hh :=
  (List.range 16).findSome? fun j => match fin? 16 ((after + 1 + j) % 16) with
    | some h => if memberReady s i h then some h else none
    | none => none

/-- A replacement that waited for this quantum takes effect (R91). -/
def quantumLease (s : State) (h : Hh) : State := match (hhAt s h).nextLease with
  | none => s
  | some l => loaderProgress (mirror (leaseCurrent s h l true) (.lease h l.image))

/-- A quantum starts. -/
def quantumStart (s : State) (i : Fin 8) (h : Hh) (given : Nat) : State :=
  let q := match poolDef s i with
    | some d => d.quantum * 10
    | none => 0
  quantumLease (upPool s i fun p => { p with running := some h, last := some h, left := q, given := given, idle := 0 }) h

/-- Work of the site that must end before the switch: commands that complete, and requests of the STU that are
outstanding (R330). A command that has read nothing because it waits for a key window is a pre-empted head (R331). -/
def mustComplete (s : State) (i : Site) (h : Hh) : Bool :=
  ((List.finRange 5).any fun e => ((setAt s i h).queues.get e).ents.any fun x =>
    x.phase != .queued && x.phase != .suspended && !preempted e.val x.cmd.opcode && !(x.phase == .running && windowWaits s i x)) ||
  (siteAt s i).st.streams.any fun x => x.hh == h && !x.out.isEmpty
/-- A job of the PSQ that a switch stops starts again from limb 0: its records in the MXA queue go with it (R265). -/
def psqSwitched (t : HSet) : HSet :=
  if t.psq.busy && !t.psq.suspended && !t.psq.lastDone then { t with
    psq := t.psq.restart
    queues := vmod t.queues 0 fun q => { q with ents := q.ents.filter fun e => !e.fromPsq } }
  else t

/- Save areas (R331, R332), by cellar physical address. -/

/-- Contents of n bytes from a, both multiples of 256, keyed from 0. -/
def cellarDump (s : State) (a n : Nat) : BMap :=
  s.cellar.mem.foldl (fun m e => match (List.range (n / 256)).find? fun g => place s (a + 256 * g) / 256 == e.1 / 256 with
    | some g => spSet 0 m (256 * g + e.1 % 256) e.2
    | none => m) []
/-- n bytes from a take the contents of a map keyed from 0. -/
def cellarFill (s : State) (a n : Nat) (m : BMap) : State :=
  let mine (p : Nat) : Bool := (List.range (n / 256)).any fun g => place s (a + 256 * g) / 256 == p / 256
  let mem := s.cellar.mem.filter fun e => !mine e.1
  { s with cellar := { s.cellar with
    mem := m.foldl (fun c e => if e.1 < n then spSet 0 c (place s (a + e.1)) e.2 else c) mem
    poison := s.cellar.poison.filter fun u => !mine (64 * u) } }

/-- Entries of a sparse map from lo to hi, keyed from 0, and the reverse. -/
def cutMap (m : BMap) (lo hi : Nat) : BMap := (m.filter fun e => decide (lo ≤ e.1) && decide (e.1 < hi)).map fun e => (e.1 - lo, e.2)
/-- Seal slots of a shelf as bytes, four for each slot, and the reverse. -/
def slotBytes (m : NMap) (j : Nat) : BMap :=
  (m.filter fun e => shelfOfSlot e.1 == j).foldl (fun c e => spWrite 0 c (4 * (e.1 - 24576 * j)) (leBytes 4 e.2)) []
def bytesSlots (b : BMap) (j : Nat) (m : NMap) : NMap :=
  b.foldl (fun c e => spSet 0 c (24576 * j + e.1 / 4) (leNat (spRead 0 b (e.1 / 4 * 4) 4))) m

def saveBase (s : State) (h : Hh) (ix : Nat) : Nat := (hhAt s h).pool.save + 18 * 2 ^ 20 * ix

/-- The outgoing household's state of one cluster goes to its save area. The 64 KiB of queue and register state
stay in the household's share as well; their bytes in the area are free (log 19). -/
def saveSite (s : State) (i : Site) (h : Hh) (ix : Nat) : State :=
  let b := saveBase s h ix
  let c := siteAt s i
  let st : BMap := (List.range 65536).foldl (fun m n => spSet 0 m n (Config.freeByte s.fresh n)) []
  let s := tickFresh (cellarFill s b 65536 st)
  let s := c.accLines.foldl (fun t n =>
    let bs := (List.range 128).flatMap fun j => leBytes 10 (spGet 0 c.acc (128 * n + j))
    cellarFill t (b + 0x10000 + 1280 * n) 1280 (spWrite 0 [] 0 bs)) s
  let s := (List.range 4).foldl (fun t j => if c.mask.testBit j then
      let t := cellarFill t (b + 0x510000 + j * 0x300000) 0x300000 (cutMap c.pantry (3145728 * j) (3145728 * (j + 1)))
      cellarFill t (b + 0x1110000 + j * 0x18000) 0x18000 (slotBytes c.seals j)
    else t) s
  upSet s i h fun t => { psqSwitched t with ran := true, lines := c.accLines, xsq := { t.xsq with cache := [] } }

/-- The incoming household's state of one cluster comes from its save area; nothing at its first quantum. -/
def restoreSite (s : State) (i : Site) (h : Hh) (ix : Nat) : State :=
  let t := setAt s i h
  if !t.ran then s
  else
    let b := saveBase s h ix
    let acc := t.lines.foldl (fun m n =>
      let bs := cRead s (b + 0x10000 + 1280 * n) 1280
      (List.range 128).foldl (fun m j => spSet 0 m (128 * n + j) (leAt bs (10 * j) 10)) m) ([] : NMap)
    let js := (List.range 4).filter fun j => (siteAt s i).mask.testBit j
    let data := js.foldl (fun m j => (cellarDump s (b + 0x510000 + j * 0x300000) 0x300000).foldl
      (fun m e => spSet 0 m (3145728 * j + e.1) e.2) m) ([] : BMap)
    let seals := js.foldl (fun m j => bytesSlots (cellarDump s (b + 0x1110000 + j * 0x18000) 0x18000) j m) ([] : NMap)
    upSite s i fun c => { c with acc := acc, accLines := t.lines, pantry := data, seals := seals }

/- The prologue (R333). -/

/-- Records of HH_POOL_PRO, up to the first that cannot be fetched, with how that fetch fails. -/
def prologue (s : State) (h : Hh) : List Record × Option MErr :=
  let p := (hhAt s h).pool
  (List.range p.proCount).foldl (fun acc n => match acc.2 with
    | some _ => acc
    | none => match hRead s h true .read ((p.proVa + 32 * n) % 2 ^ 64) 32 with
      | .ok bs => (acc.1 ++ [recordOf bs], none)
      | .error e => (acc.1, some e)) ([], none)
/-- The field names a pantry operand: KIND 1, or in handle mode an entry of FORM 1. An entry that cannot be read or is not
valid is the decode's matter. -/
def prologuePantry (s : State) (h : Hh) (f : Nat) : Bool := match bits f 61 3 with
  | 1 => true
  | 3 => !handleMode s h || match readEntry s h (bits f 0 16) with
    | .ok bs => leAt bs 0 1 == 1
    | .error _ => true
  | _ => false
/-- Records that R333 does not allow, or whose operands are not pantry operands, end with BAD_OPCODE. -/
def prologueBad (s : State) (h : Hh) (r : Record) : Bool :=
  !(r.opcode == 0x02 || r.opcode == 0x63 || r.opcode == 0x64) || !prologuePantry s h r.opa ||
    [r.opb, r.opd].any fun f => bits f 61 3 != 0 && !prologuePantry s h f
/-- A record goes in front of what the queue holds, with the next SEQ of the series (log 19). -/
def pushFront (s : State) (k : Gl) (i : Site) (e : Entry) (en : Fin 5) (ahead : Nat) : State :=
  let (s, n) := accept s (.cluster k en) e
  upSet s i e.hh fun t => { t with queues := vmod t.queues en fun q =>
    let es := q.ents.filter fun x => x.seq != n
    { q with ents := es.take ahead ++ [{ e with seq := n }] ++ es.drop ahead } }
/-- The incoming prologue on one cluster. A fetch fault completes the first record, in its own queue, with the fault's
status; the records fetched before the fault stand behind it. Of a first record that itself cannot be fetched the engine is
not known: the MXA queue takes it (log 19). -/
def issuePrologue (s : State) (k : Gl) (i : Site) (h : Hh) : State :=
  let (rs, bad) := prologue s h
  let first : Option Nat := bad.map MErr.status
  let s := match bad with
    | some e => noteMErr s h 1 e
    | none => s
  let rs := if rs.isEmpty && bad.isSome then [(⟨0, 0, 0, 0, 0, 0, 0, 0⟩ : Record)] else rs
  let entry (n : Nat) (r : Record) : Entry :=
    let e : Entry := { newEntry s h r none 0xFFFFFFFF false with prologue := true, late := false }
    match (if n = 0 then first else none), prologueBad s h r with
    | some st, _ => { e with phase := .done, status := st }
    | none, true => { e with phase := .done, status := stBadOpcode }
    | none, false => e
  ((rs.zip (List.range rs.length)).foldl (fun (t, m, v) r =>
    let e := entry r.2 r.1
    if r.1.opcode / 32 = 3 then (pushFront t k i e 3 v, m, v + 1) else (pushFront t k i e 0 m, m + 1, v)) (s, 0, 0)).1

/-- The switch goes on as far as the clusters allow (R331); on a failed site it is abandoned (R343). -/
def poolStep (s : State) (i : Fin 8) : State :=
  let p := poolAt s i
  let cs := (poolSites s i).filter fun c => !(siteAt s c.2.2).dead
  match p.stage with
  | .none => s
  | .stopping =>
    let waits := match p.running with
      | some h => cs.any fun c => mustComplete s c.2.2 h
      | none => false
    if waits then s
    else
      let s := cs.foldl (fun t c =>
        let t := match p.running with
          | some h => if (siteAt t c.2.2).served = some h then saveSite t c.2.2 h c.1 else t
          | none => t
        zeroBegin (upSite t c.2.2 fun x => { x with served := none }) c.2.2 true) s
      upPool s i fun p => { p with stage := .zeroing }
  | .zeroing =>
    if cs.any fun c => (siteAt s c.2.2).pn.zeroBusy then s
    else match p.next with
      | none => upPool s i fun p => { p with stage := .none, running := none }
      | some h =>
        let s := cs.foldl (fun t c =>
          let t := restoreSite t c.2.2 h c.1
          upSet (upSite t c.2.2 fun x => { x with served := some h }) c.2.2 h fun x => { x with roots := true }) s
        let s := upPool s i fun p => { p with
          stage := .none, next := none, switches := wrapInc 32 p.switches, lastUs := Config.freeNat s.fresh % 4096 }
        let s := cs.foldl (fun t c => issuePrologue t c.2.1 c.2.2 h) (tickFresh s)
        quantumStart s i h 1
/-- Every switch and the loader go on as far as they can. -/
def settle (s : State) : State :=
  let s := (List.finRange 8).foldl (fun t i => poolStep (poolStep t i) i) s
  loaderProgress s

/-- A switch to another member begins (R330). -/
def switchTo (s : State) (i : Fin 8) (h : Hh) : State :=
  settle (upPool s i fun p => { p with stage := .stopping, next := some h })

/-- QUANTUM_END (R76, R329): the quantum has run out; the running household goes on while it has quanta left in the round,
or the next ready member takes over. -/
def quantumEndOp (s : State) (i : Fin 8) : State :=
  let p := poolAt s i
  match p.stage, p.running with
  | .none, some h =>
    if p.left ≠ 0 then s
    else
    let w := match poolDef s i with
      | some d => d.weights.get h
      | none => 0
    if decide (p.given < w) && memberReady s i h then quantumStart s i h (p.given + 1)
    else match nextMember s i h.val with
      | none => quantumStart s i h 1
      | some g => if g = h then quantumStart s i h 1 else switchTo s i g
  | _, _ => s

/-- QUANTUM_IDLE_END (R329): the household served has had no pending work for the 10 µs of a tick; the next ready member
takes over, and the remainder of the quantum is forfeited. -/
def quantumIdleOp (s : State) (i : Fin 8) : State :=
  let p := poolAt s i
  match p.stage, p.running with
  | .none, some h =>
    if pendingWork s i h || decide (p.idle = 0) then s
    else match nextMember s i h.val with
      | none => s
      | some g => if g = h then s else switchTo s i g
  | .none, none => match nextMember s i (p.last.elim 15 Fin.val) with
      | none => s
      | some g => switchTo s i g
  | _, _ => s

def execQuantumEnd (i : Fin 8) (s : State) : Out := .next (quantumEndOp s i)
def execQuantumIdleEnd (i : Fin 8) (s : State) : Out := .next (quantumIdleOp s i)

/-- COMMAND_COMPLETE (R134); a switch that waited for the command goes on. -/
def execCommandComplete (q : QueueId) (s : State) : Out := .next (settle (complete s q))
/-- CELLAR_WRITE_ACK; a switch that waited for the request goes on (R330). -/
def execCellarWriteAck (q : QueueId) (fail : Option Nat) (s : State) : Out := .next (settle (writeAckOp s q fail))
def execPantryZeroing (i : Site) (s : State) : Out := .next (settle (zeroDone s i))
def execShelfWakeDone (i : Site) (j : Fin 4) (s : State) : Out := .next (settle (wakeDone s i j))

/- Loading and retiring (R84-R93). -/

/-- A write of GO to IMG_CTRL with an operation: its agent, OVERRUN while busy (R88, R95). -/
def loaderGo (s : State) (a : Agent) (op : Nat) (h : Option Hh) (f : State → State) : State :=
  if !alive s then s
  else if !pfOrHouse a then discard s a
  else if s.loader.busy then { s with loader := { s.loader with overrun := true } }
  else f { s with loader := { s.loader with
    busy := true, op := op
    hh := match h with
      | some h => h.val
      | none => s.loader.hh } }

/-- Check 3: the image as its source gives it; no field of the image fails, so OFFSET reads 0 (log 31). -/
def imageSource (s : State) (img : Option (List Byte)) : Except ImgErr (List Byte) :=
  let l := s.loader
  if l.addr % 64 ≠ 0 ∨ l.len < 512 ∨ l.len > 2 ^ 20 ∨ l.len % 64 ≠ 0 then .error ⟨stImgForm, 0x05, 0xFF, 0⟩
  else match img with
    | some bs => if bs.length = l.len then .ok bs else .error ⟨stImgForm, 0x05, 0xFF, 0⟩
    | none => .error ⟨stImgForm, 0x05, 0xFF, 0⟩

def loaderFail (s : State) (e : ImgErr) : State := loaderEnd s (some e)
/-- An image that has passed checks 1 to 7 waits for the Strongbox (R83). -/
def loaderVerify (s : State) (h : Option Hh) (img : List Byte) : State :=
  settle { s with loader := { s.loader with job := some (.verify h img) } }

/-- LOAD_DEED (R84, R89). -/
def loadDeedOp (img : Option (List Byte)) (s : State) : State :=
  if s.deed.isSome then loaderFail s ⟨stImgConf, 0x28, 0xFF, 0⟩
  else match imageSource s img with
    | .error e => loaderFail s e
    | .ok bs => match deedEarly s bs s.loader.len with
      | some e => loaderFail s e
      | none => loaderVerify s none bs

def execLoadDeed (a : Agent) (img : Option (List Byte)) (s : State) : Out := .next (loaderGo s a 0 none (loadDeedOp img))

/-- LOAD_LEASE (R84, R90, R91, R346); before READY it fails as STATE does (R372, log 24). -/
def loadLeaseOp (h : Hh) (img : Option (List Byte)) (s : State) : State :=
  match s.deed with
  | none => loaderFail s ⟨stImgConf, 0x28, 0xFF, 0⟩
  | some d =>
    if !(d.grants.get h).enabled || s.pw.role == .standby || s.pw.role == .deposed || s.boot.stage != 15 then
      loaderFail s ⟨stImgConf, 0x28, 0xFF, 0⟩
    else
      let live := (hhAt s h).lease.isSome
      if live && hhBusy s h then loaderFail s ⟨stImgConf, 0x27, 0xFF, 0⟩
      else match imageSource s img with
        | .error e => loaderFail s e
        | .ok bs => match leaseEarly s d h bs s.loader.len none with
          | some e => loaderFail s e
          | none => loaderVerify { s with loader := { s.loader with waits := if live then some h else none } } (some h) bs

def execLoadLease (a : Agent) (h : Hh) (img : Option (List Byte)) (s : State) : Out :=
  .next (loaderGo s a 1 (some h) (loadLeaseOp h img))

/-- Step 1 of R93: queues closed, commands stopped, the group aborted. -/
def closeHousehold (s : State) (h : Hh) : State :=
  let s := txAbort s h AbortBy.house true
  stopSequencers (dropCommands (sbDrop s h) h) h

/-- RETIRE_LEASE (R84 check 1, R93). -/
def retireLeaseOp (h : Hh) (s : State) : State :=
  match s.deed, (hhAt s h).lease with
  | some d, some l =>
    if !(d.grants.get h).enabled then loaderFail s ⟨stImgConf, 0x28, 0xFF, 0⟩
    else
      let s := leavePool (closeHousehold s h) h
      let ps := sitesOfMask s l.excl
      let s := ps.foldl (fun t p => zeroBegin (endServe t p.2 h) p.2 false) s
      let s := { s with loader := { s.loader with
        job := some (.retire h), watch := maskOf 34 fun n => ps.any fun p => p.2.val == n } }
      settle (ps.foldl (fun t p => applyMask t p.2) s)
  | _, _ => loaderFail s ⟨stImgConf, 0x28, 0xFF, 0⟩

def execRetireLease (a : Agent) (h : Hh) (s : State) : Out := .next (loaderGo s a 2 (some h) (retireLeaseOp h))

end Sys2Proof.Machine
end

