-- ==== Sys2Proof/Machine/Rights.lean ====
section
/-! DEFINITION. Rights of the agents that reach the register map, and the register actions with a row of their
own on engines, sequencers, larders, MVEs, the ring and the descriptor table (R58-R62, R69, R101, R117, R396). -/

namespace Sys2Proof.Machine

/-- A virtual function answers while its household is live and the host has not disabled it (R90, R365, R395). -/
def vfLive (s : State) (h : Hh) : Bool := (hhAt s h).vfOn && (hhAt s h).lease.isSome
/-- A request that completes with Unsupported Request (R395, R400). -/
def noteUr (s : State) : State := { s with porch := { s.porch with ur := satInc 16 s.porch.ur } }
/-- The control core of a region runs at level MON in context 16, where it reaches the register map (R101). -/
def atMonitor (s : State) (r : Rg) : Bool :=
  !(regAt s r).inReset && domainIsOn s (34 + r.val) && (coreAt s r).level == 2 && (coreAt s r).ctx == 16
/-- An access to BAR0. A package held in reset answers none (R361); a porch that waits for its reset takes none from the
host (R367). One that a control core cannot make is no event of the block; one by the function of a household that is not
live completes with Unsupported Request (R395). -/
def access (s : State) (a : Agent) (f : State → State) : State :=
  if !alive s then s
  else match a with
  | .cc r => if atMonitor s r then f s else s
  | .vf h => if quiescing s 0x51 then s else if vfLive s h then f s else noteUr s
  | .pf => if quiescing s 0x51 then s else f s
  | .house => f s

/-- A package-level register that every agent but a virtual function reaches (R69). -/
def pkgRow (s : State) (a : Agent) (f : State → State) : State := access s a fun s => match a with
  | .vf _ => discard s a
  | _ => f s
/-- A register, or the writes of one, kept for the physical function and the house cores. -/
def pfRow (s : State) (a : Agent) (f : State → State) : State := access s a fun s => if pfOrHouse a then f s else discard s a
/-- A register of one household in the house or terrace block (R69, R396). -/
def hhRow (s : State) (a : Agent) (h : Hh) (f : State → State) : State := access s a fun s => match a with
  | .vf g => if g = h then f s else discard s a
  | _ => f s

/-- The window of a global number answers the household's function (R396). -/
def vfSees (s : State) (h : Hh) (k : Gl) : Bool :=
  holdsExcl s h k || (holdsPool s h k && match siteOf s k with
    | some i => serves s i h
    | none => false)
/-- A site's registers take writes: powered, out of reset, neither fused off nor retired (R59). -/
def siteWritable (s : State) (i : Site) : Bool :=
  domainIsOn s i.val && !(siteAt s i).inReset && !fusedSite s i && !(siteAt s i).retired
/-- A write to the window of a cluster (R59, R396). -/
def clusterRow (s : State) (a : Agent) (k : Gl) (f : State → State) : State := access s a fun s =>
  let sees := match a with
    | .vf h => vfSees s h k
    | _ => true
  match siteOf s k with
  | some i => if sees && siteWritable s i then f s else discard s a
  | none => discard s a

/-- A block of a region window answers: its domain is on and it is not held in reset (R59). -/
def regionUp (s : State) (r : Rg) : Bool := domainIsOn s (34 + r.val) && !(regAt s r).inReset
def larderUp (s : State) (r : Rg) : Bool := domainIsOn s (42 + r.val) && !(regAt s r).inReset
/-- A write to a register of a region's larder or MVE (R59, R62). -/
def larderRow (s : State) (a : Agent) (r : Rg) (f : State → State) : State := pkgRow s a fun s =>
  if larderUp s r then f s else discard s a
def mveRow (s : State) (a : Agent) (r : Rg) (f : State → State) : State := pkgRow s a fun s =>
  if regionUp s r then f s else discard s a
/-- LD_QCTL or MV_QCTL: the physical function, the house cores and the region's own control core (R255, R303). -/
def ownRegion (a : Agent) (r : Rg) : Bool := match a with
  | .vf _ => false
  | .cc q => q == r
  | _ => true
/-- A register of the control core of region r: the physical function, the house cores and CCr itself (R117). -/
def coreRow (s : State) (a : Agent) (r : Rg) (f : State → State) : State := access s a fun s =>
  if ownRegion a r && regionUp s r then f s else discard s a
def larderQctlRow (s : State) (a : Agent) (r : Rg) (f : State → State) : State := access s a fun s =>
  if ownRegion a r && larderUp s r then f s else discard s a
def mveQctlRow (s : State) (a : Agent) (r : Rg) (f : State → State) : State := access s a fun s =>
  if ownRegion a r && regionUp s r then f s else discard s a
/-- A register of a stack's controller (R59, R304). -/
def stackRow (s : State) (a : Agent) (k : StackId) (f : State → State) : State := pkgRow s a fun s =>
  if domainIsOn s (50 + k.val) then f s else discard s a

/- Queues, semaphores, ring and table (R131, R136, R137, R139, R151, R153). -/

def execClQctlResume (a : Agent) (k : Gl) (e : Fin 8) (s : State) : Out :=
  .next (clusterRow s a k fun s => clQctl s k e.val false)
def execClQctlFlush (a : Agent) (k : Gl) (e : Fin 8) (s : State) : Out :=
  .next (clusterRow s a k fun s => settle (clQctl s k e.val true))
def execClSemWrite (a : Agent) (k : Gl) (n : Fin 16) (v : Nat) (hw : Option Bool) (s : State) : Out :=
  .next (clusterRow s a k fun s => clSemOp s k n v hw)
def execHhDtValidWrite (a : Agent) (h : Hh) (w : Fin 64) (v : Nat) (s : State) : Out :=
  .next (hhRow s a h fun s => mirror (dtValidOp s h w v) (.reg (0x8000 + 0x200 * h.val + 8 * w.val) 8 v))
def execHhCqBaseWrite (a : Agent) (h : Hh) (v : Nat) (s : State) : Out :=
  .next (hhRow s a h fun s => mirror (cqBaseOp s h v) (.reg (0x4008 + 0x40 * h.val) 8 v))

/- Sequencers (R143, R152, R264, R265). -/

def execXsqStart (a : Agent) (k : Gl) (entry : Nat) (s : State) : Out := .next (clusterRow s a k fun s => xsqStartOp s k entry)
def execXsqStop (a : Agent) (k : Gl) (s : State) : Out := .next (clusterRow s a k fun s => settle (xsqStopOp s k))
def execXsqResume (a : Agent) (k : Gl) (s : State) : Out := .next (clusterRow s a k fun s => xsqResumeOp s k)
def execPsResume (a : Agent) (k : Gl) (s : State) : Out := .next (clusterRow s a k fun s => psResumeOp s k)
def execPsSkip (a : Agent) (k : Gl) (s : State) : Out := .next (clusterRow s a k fun s => psSkipOp s k)

/- Larder and MVE (R238, R255, R283, R303). -/

/-- HOUSEHOLD keeps the value written. -/
def ldQctlOp (s : State) (r : Rg) (h : Hh) (flush : Bool) : State :=
  settle (regionQctl (upReg s r fun g => { g with larder := { g.larder with qctl := h.val } }) (.larder r) h flush)
def mvQctlOp (s : State) (r : Rg) (h : Hh) (flush : Bool) : State :=
  settle (regionQctl (upReg s r fun g => { g with mve := { g.mve with qctl := h.val } }) (.mve r) h flush)
def execLdQctlResume (a : Agent) (r : Rg) (h : Hh) (s : State) : Out :=
  .next (larderQctlRow s a r fun s => ldQctlOp s r h false)
def execLdQctlFlush (a : Agent) (r : Rg) (h : Hh) (s : State) : Out :=
  .next (larderQctlRow s a r fun s => ldQctlOp s r h true)
def execMvQctlResume (a : Agent) (r : Rg) (h : Hh) (s : State) : Out :=
  .next (mveQctlRow s a r fun s => mvQctlOp s r h false)
def execMvQctlFlush (a : Agent) (r : Rg) (h : Hh) (s : State) : Out :=
  .next (mveQctlRow s a r fun s => mvQctlOp s r h true)

/- Cellar controllers (R296, R300, R304). -/

/-- START of CE_RETIRE, by the physical function or a house core; without an agent the automatic start, which
needs AUTO and a limit passed (R296). CHANNEL keeps the channel written. -/
def retireStartOp (s : State) (k : StackId) (c : Fin 32) : State :=
  retireStart (upStack s k fun x => { x with channel := c.val }) k c false
def execTrafficGeneratorGo (a : Agent) (k : StackId) (c : Fin 32) (v : Nat) (s : State) : Out :=
  .next (stackRow s a k fun s => tgGo s k c (setBit v 63))

end Sys2Proof.Machine
end

