-- ==== Sys2Proof/Machine/Commit.lean ====
section
/-! DEFINITION. Invalidation of translations, and opening, committing and aborting transaction groups
(R310, R314, R318-R323, R349). -/

namespace Sys2Proof.Machine

/- Translation caches (R310). -/

/-- A write of HH_TLBINV; GO is ignored while BUSY (R336). -/
def tlbinvOp (s : State) (h : Hh) (v : Nat) : State := upTr s h fun t => { t with
  tlbSpan := bits v 48 5, tlbVa := bits v 16 32 * 65536, tlbBusy := t.tlbBusy || v.testBit 63 }
def execTlbinvGo (a : Agent) (h : Hh) (v : Nat) (s : State) : Out :=
  .next (hhRow s a h fun s => mirror (tlbinvOp s h (setBit v 63)) (.reg (0x6008 + 0x80 * h.val) 8 (setBit v 63)))

/-- Pages that the invalidation names: 2^SPAN from VA, or all. -/
def tlbinvNames (t : HhTrans) (e : TlbEnt) : Bool :=
  t.tlbSpan == 31 || (decide (t.tlbVa / 65536 ≤ e.page) && decide (e.page < t.tlbVa / 65536 + 2 ^ t.tlbSpan))
/-- Requests of the household are outstanding. -/
def requestsOut (s : State) (h : Hh) : Bool :=
  let out (xs : List Strm) : Bool := xs.any fun x => x.hh == h && !x.out.isEmpty
  (allSites.any fun i => out (siteAt s i).st.streams) || allRegions.any fun r =>
    out (regAt s r).larder.streams || out (regAt s r).mve.streams
/-- TLBINV_DONE (R310): once the accesses made with invalidated entries have been performed the entries are gone, BUSY
clears, and held ring words are tried again (R139). -/
def tlbinvDoneOp (s : State) (h : Hh) : State :=
  let t := (hhAt s h).tr
  if !t.tlbBusy || (t.tlb.any (tlbinvNames t) && requestsOut s h) then s
  else ringDrain (upTr s h fun t => { t with tlbBusy := false, tlb := t.tlb.filter fun e => !tlbinvNames t e }) h
def execTlbinvDone (h : Hh) (s : State) : Out := .next (tlbinvDoneOp s h)

/- Groups. -/

/-- OPEN waits during a replacement of the household's lease (R88). -/
def txOpenOp (s : State) (h : Hh) (replay : Bool) : State :=
  if s.loader.waits = some h then upTx s h fun t => { t with waitOpen := t.waitOpen ++ [replay] } else openGroup s h replay
/-- A write of HH_TX_CTRL_h, which the primary mirrors like any other (R347). -/
def txRow (s : State) (a : Agent) (h : Hh) (v : Nat) (f : State → State) : State :=
  hhRow s a h fun s => mirror (f s) (.reg (0x6018 + 0x80 * h.val) 4 v)
def execTxOpen (a : Agent) (h : Hh) (replay : Bool) (s : State) : Out :=
  .next (txRow s a h (2 ^ 31 + b2n replay * 2 ^ 28) fun s => txOpenOp s h replay)

/-- COMMIT (R318): the commit begins and holds new work. -/
def txCommitOp (s : State) (h : Hh) : State := upTx s h fun t =>
  if !t.opened then { t with result := stTxAbort }
  else if t.committing then { t with result := stTxNest }
  else { t with committing := true }
def execTxCommit (a : Agent) (h : Hh) (s : State) : Out := .next (txRow s a h (2 ^ 30) fun s => txCommitOp s h)

/-- ABORT (R322). -/
def txAbortOp (s : State) (h : Hh) : State :=
  if !(hhAt s h).tx.opened then upTx s h fun t => { t with result := stTxAbort }
  else settle (txAbort (upTx s h fun t => { t with result := stOk }) h AbortBy.house true)
def execTxAbort (a : Agent) (h : Hh) (s : State) : Out := .next (txRow s a h (2 ^ 29) fun s => txAbortOp s h)

/-- A command, job or Strongbox operation of the household accepted before the COMMIT has not completed (R318
step 2). -/
def commitWaits (s : State) (h : Hh) : Bool :=
  let before (es : List Entry) : Bool := es.any fun e => e.hh == h && !e.late
  (allSites.any fun i => (setAt s i h).psq.busy || (setAt s i h).queues.toList.any fun q => before q.ents) ||
  (allRegions.any fun r => before (regAt s r).larder.ents || before (regAt s r).mve.ents) ||
  ((hhAt s h).sb.pending && !(hhAt s h).sb.late) ||
  (match s.sb.cur with
    | some o => o.owner == .hh h
    | none => false)

/-- A committed set leaves for the standby (R347-R349, R393). -/
def shipSet (s : State) (h : Hh) (seq : Nat) (fs : List (Nat × Bool)) : State :=
  if s.pw.role ≠ .primary ∨ !s.pw.paired ∨ !s.pw.linkUp ∨ !wallUp s then s
  else shipFrames (upHh s h fun x => { x with shipped := seq }) h seq fs

/-- The previous set has been fully sent, and the party wall takes new work (R349, R367). -/
def prevSent (s : State) (h : Hh) : Bool := !quiescing s 0x54 && match s.pw.ship.get h with
  | some x => x.sent
  | none => true

/-- Steps 3 to 6 of R318: the journal, the selectors, the end of the group, the doorbell and the set. -/
def commitOp (s : State) (h : Hh) : State :=
  let tx := (hhAt s h).tx
  if !tx.opened || !tx.committing || commitWaits s h || !prevSent s h then s
  else
    let seq := (tx.seq + 1) % 2 ^ 32
    let s := journalHeader s h 2 tx.writeSet.length seq
    let s := tx.writeSet.foldl (fun t e => setSelector t e.1 e.2) s
    let s := journalHeader s h 3 tx.writeSet.length seq
    let s := upTx s h fun t => { t with opened := false, committing := false, writeSet := [], seq := seq, result := stOk }
    let s := upSb (releaseLate s h) h fun x => { x with late := false }
    shipSet (raise s (hhSrc h 2)) h seq tx.writeSet
def execCommitApply (h : Hh) (s : State) : Out := .next (commitOp s h)

end Sys2Proof.Machine
end

