-- ==== Sys2Proof/Machine/Failover.lean ====
section
/-! DEFINITION. Loss of a cluster, a region or a die: retirement and replacement of sites, region resets, yielding
and the DEPOSED role (R338-R345, R353). -/

namespace Sys2Proof.Machine

/- Roles (R346, R353). -/

/-- Event flags of the party wall and their doorbell (R360, R419). -/
def evPw (s : State) (f : PwSt → PwSt) : State := raise { s with pw := f s.pw } 4

/-- A multi-purpose pin carries this function (R73). -/
def pinHas (s : State) (f : Nat) : Bool := match s.deed with
  | some d => d.pinmux.any fun e => e.2 == f
  | none => false
/-- The package enters DEPOSED (R353): its virtual functions are disabled, the package fault output is asserted where a
pin carries it, and it runs nothing more. -/
def depose (s : State) : State :=
  if s.pw.role = .deposed then s
  else
    let s := evPw s fun p => { p with role := .deposed, evDeposed := true, faultOut := p.faultOut || pinHas s 0x09 }
    let s := allHh.foldl (fun t h => upHh t h fun x => { x with vfOn := false }) s
    raise (logFault s 0x0A 0xFF 0x3F 0 0) 0

/-- The households stop: engine aborts, and an abort of every open group (R353 step 1). -/
def stopAll (s : State) : State := allHh.foldl (fun t h => if (hhAt t h).lease.isSome then closeHousehold t h else t) s
/-- Sequences a YIELD carries: the last shipped of each household (R348). -/
def shippedSeqs (s : State) : Vector Nat 16 := s.hhs.map fun x => x.shipped

/-- A primary yields (R353). -/
def yieldOp (s : State) : State :=
  if s.pw.role ≠ .primary then s
  else
    let s := stopAll (logFault s 0x08 0xFF 0x3F 0 0)
    let s := if s.pw.linkUp && wallUp s then sendWall s 0 (.yield (shippedSeqs s)) else { s with pw := { s.pw with stopped := true } }
    depose s

/- Replacing a cluster (R339-R343). -/

/-- RESERVE_AVAIL of a die (R63). -/
def reserveAvail (s : State) (d : Fin 2) : Bool :=
  let i : Site := ⟨32 + d.val, by omega⟩
  s.map.get i == i.val && !(siteAt s i).retired && !(siteAt s i).dead && (siteAt s i).testOk && !fusedSite s i
/-- Die of a global number (R52). -/
def dieOf (k : Gl) : Fin 2 := ⟨k.val / 16 % 2, by omega⟩

/-- Households affected by the loss of a cluster: those its site runs, and every one with a STREAM or COPY in
progress that names it (R341). -/
def affected (s : State) (k : Gl) : List Hh := allHh.filter fun h =>
  (runsOn s k).contains h || allRegions.any fun r =>
    ((regAt s r).larder.ents.any fun e => e.hh == h && e.phase != .queued && e.cmd.opcode == 0xC1 &&
      (List.finRange 4).any fun j => e.cmd.mod.testBit (28 + j.val) && clusterOf r j == k) ||
    ((regAt s r).mve.ents.any fun e => e.hh == h && e.phase != .queued && e.cmd.opcode == 0xA1 &&
      (namesPantry s (.mve r) e e.cmd.opa false (2 ^ k.val) || namesPantry s (.mve r) e e.cmd.opd true (2 ^ k.val)))

/-- A group aborts for the loss of a cluster or a region; the household's word is written by that rule (R322). -/
def lossAbort (s : State) (h : Hh) (unit phys st : Nat) : State :=
  if (hhAt s h).tx.opened then logFault (txAbort s h AbortBy.house false) 0x0E unit phys st h.val else s
/-- The single word of R341 or R344, with the error doorbell (R461). -/
def lossWord (s : State) (h : Hh) (unit : Nat) : State :=
  errBell (postWord s h (statusWord stTxAbort 0 unit (wordFlags h false 0) 0 0 0xFFFFFFFF) none) h

/-- A share of a lost site as it starts on the next one: empty queues with their series and geometry (R106, R340 steps
4 and 5). -/
def carried (t : HSet) : HSet :=
  { HSet.init with
    queues := t.queues.map fun q => { EQueue.empty with next := q.next, doneSeq := q.doneSeq, lastStatus := q.lastStatus }
    geo := t.geo, roots := true }
/-- h is brought in by a pool switch that involves cluster k: what it saved there is kept (R341, R343). -/
def incoming (s : State) (k : Gl) (h : Hh) : Bool := match poolOfGl s k with
  | some p => (s.pools.get p).next == some h
  | none => false
/-- The share of a household in the site that replaces the one of cluster k. -/
def shareAfter (s : State) (k : Gl) (hs : List Hh) (h : Hh) (t : HSet) : HSet :=
  if !hs.contains h then t
  else if incoming s k h then { t with queues := t.queues.map dropQueue, wins := t.wins.map fun _ => KWin.shut }
  else carried t

/-- The reserve takes global number k (R340 steps 3 to 5, R51, R60): zeroed, mapped, prepared and released. -/
def mapReserve (s : State) (i : Site) (k : Gl) (r : Site) (hs : List Hh) : State :=
  let old := siteAt s i
  let s := if domainIsOn s r.val then s else clusterOn s r
  let s := zeroDone (zeroBegin s r false) r
  let s := upSite s r fun c => { c with
    served := old.served, testing := false, st := { c.st with streams := old.st.streams }
    sets := Vector.ofFn fun h : Fin 16 => shareAfter s k hs h (old.sets.get h) }
  let s := { s with map := (s.map.set k.val r.val k.isLt).set r.val i.val r.isLt, lastSite := s.lastSite.set k.val r k.isLt }
  { s with fo := { s.fo with replaced := satInc 16 s.fo.replaced, lastUs := Config.freeNat s.fresh % 65536 } }
/-- No reserve is available: k loses its cluster (R343). -/
def loseNumber (s : State) (i : Site) (k : Gl) : State :=
  { s with map := s.map.set k.val 0x3F k.isLt, lastSite := s.lastSite.set k.val i k.isLt, fo := { s.fo with degraded := true } }
/-- The site leaves service (R51). -/
def retireSite (s : State) (i : Site) : State :=
  applyMask (upSite s i fun c => { resetSite c with retired := true, dead := false, served := none }) i

/-- Another failed site of the die, retired in the same SCLK cycle, has a lower global number: it takes the reserve
(R343). -/
def yieldsReserve (s : State) (k : Gl) : Bool := (List.finRange 34).any fun j =>
  decide (j.val < k.val) && dieOf j == dieOf k && (siteOf s j).any fun i => (siteAt s i).dead && !(siteAt s i).retired
/-- CLUSTER_REPLACEMENT (R340): a quarantined site is replaced, or its number left without a cluster; an unused
reserve is retired in place (R339). `same`: the failed sites of its die that wait were retired in the same SCLK cycle. -/
def replaceOp (s : State) (i : Site) (same : Bool) : State :=
  if !(siteAt s i).dead || (siteAt s i).retired then s
  else
    let st := (siteAt s i).failStatus
    match globalOf s i with
    | none => retireSite s i
    | some k =>
      if k.val ≥ 32 then logFault (upSite (retireSite s i) i fun c => { c with testOk := false }) 0x03 k.val i.val st 0
      else
        let hs := affected s k
        let s := freeLandingOf (hs.foldl (fun t h => lossAbort t h k.val i.val st) s) k
        let d := dieOf k
        let r : Site := ⟨32 + d.val, by omega⟩
        let got := reserveAvail s d && !(same && yieldsReserve s k)
        let s := if got then mapReserve s i k r hs else loseNumber s i k
        let s := retireSite s i
        let s := if got then applyMask s r else s
        let s := hs.foldl (fun t h => lossWord t h k.val) s
        let s := logFault (raise s 0) (if got then 0x02 else 0x03) k.val i.val st (match hs with
          | h :: _ => h.val
          | [] => 0)
        let s := settle (tickFresh s)
        if !got && s.fo.degrade && s.pw.role == .primary && s.pw.paired then yieldOp s else s
def execClusterReplacement (i : Site) (s : State) (same : Bool := false) : Out := .next (replaceOp s i same)

/-- RETIRE of FO_CTRL (R339, R359); CLUSTER keeps the number written. -/
def foRetireOp (s : State) (k : Fin 32) : State :=
  let s := { s with fo := { s.fo with cluster := k.val } }
  match siteOf s ⟨k.val, by omega⟩ with
  | some i => quarantine s i 0
  | none => s
def execFoRetire (a : Agent) (k : Fin 32) (s : State) : Out := .next (pfRow s a fun s => foRetireOp s k)
def execFoYield (a : Agent) (s : State) : Out := .next (pfRow s a yieldOp)

/-- A critical-state error of a cluster resets and retires it (R338, R339, R365). -/
def clusterCriticalOp (s : State) (i : Site) : State :=
  if fusedSite s i || (siteAt s i).retired then s
  else quarantine { s with rst := { s.rst with cluster := true } } i 0

/-- CLUSTER_SELF_TEST_END (R339, R412): the test ends with the pantry zeroed; a failing site is retired, and a failing
unused reserve loses its RESERVE_AVAIL bit. -/
def selfTestEndOp (s : State) (i : Site) (pass : Bool) : State :=
  if !(siteAt s i).testing then s
  else
    let s := upSite s i fun c => { c with testing := false, testOk := c.testOk && pass }
    if pass then zeroBegin s i false else quarantine s i 0
def execClusterSelfTestEnd (i : Site) (pass : Bool) (s : State) : Out := .next (selfTestEndOp s i pass)

/- Regions and dies (R344, R345). -/

/-- Windows of the region's clusters close (R344, R368). -/
def closeWindows (s : State) (r : Rg) : State :=
  (List.finRange 4).foldl (fun t c => match siteOf t (clusterOf r c) with
    | some i => upSite t i fun x => { x with sets := x.sets.map fun v => { v with wins := v.wins.map fun _ => KWin.shut } }
    | none => t) s
/-- Households with a cluster in the region (R66). -/
def regionHhs (s : State) (r : Rg) : List Hh := allHh.filter fun h => inRegion s h r

/-- A region reset by a critical-state error (R344). -/
def regionCriticalOp (s : State) (r : Rg) : State :=
  let hs := regionHhs s r
  let s := hs.foldl (fun t h => lossAbort t h 0xFF 0x3F 0) s
  let s := closeWindows s r
  let s := upReg s r fun g => { RegionSt.init with inReset := g.inReset }
  let s := hs.foldl (fun t h => lossWord t h (0x80 + r.val)) s
  let s := { s with
    rst := { s.rst with region := true }
    fo := { s.fo with regionFaults := satInc 8 s.fo.regionFaults } }
  let s := settle (logFault s 0x06 (0x80 + r.val) 0x3F 0 0)
  if s.fo.regionFaults ≥ 2 then yieldOp s else s

/-- A die fault (R345): a primary yields; a package without a twin to yield to stops and enters DEPOSED. -/
def dieFaultOp (s : State) (d : Fin 2) : State :=
  let s := logFault s 0x07 (0xC0 + d.val) 0x3F 0 0
  if s.pw.role = .primary then yieldOp s else depose (stopAll s)
def execDieFault (d : Fin 2) (s : State) : Out := .next (dieFaultOp s d)

/-- The failure of a second channel is escalated as a die fault, once (R299, R338). -/
def escalate (s : State) : State := match s.cellar.second with
  | some (d, false) => dieFaultOp { s with cellar := { s.cellar with second := some (d, true) } } d
  | _ => s
def execScrubRead (ch : Fin 256) (u : Nat) (e : Ecc) (s : State) : Out := .next (escalate (scrubOp s ch u e))
/-- CELLAR_READ_RETURN; a switch that waited for the request goes on (R330). -/
def execCellarReadReturn (q : QueueId) (cpa : Nat) (e : Ecc) (s : State) : Out := .next (escalate (settle (readReturnOp s q cpa e)))
def execChannelRetireStart (a : Option Agent) (k : StackId) (c : Fin 32) (s : State) : Out := .next <| match a with
  | some a => stackRow s a k fun s => if pfOrHouse a then retireStartOp s k c else discard s a
  | none => escalate (limitCheck s (32 * k.val + c.val))

end Sys2Proof.Machine
end

