-- ==== Sys2Proof/Machine/Terrace.lean ====
section
/-! DEFINITION. The terrace: ports, routing, floods, send queues and received packets (R379-R392, R399). -/

namespace Sys2Proof.Machine

/-- Event flags of the terrace and their doorbell (R399, R419). -/
def evTerr (s : State) (f : TerrSt → TerrSt) : State := raise { s with terr := f s.terr } 5

/- Ports (R384). -/

/-- A port fails (R384, R386, R393): with its last party-wall port the party wall is down. -/
def failPort (s : State) (p : PortId) (dup : Bool) : State :=
  let was := wallUp s
  let s := discardReplay (upPort s p fun x => { x with state := .failed, neighbour := 0xFFFF, missed := 0, dup := x.dup || dup }) p
  let s := if was && !wallUp s then logFault s 0x0B 0xFF 0x3F 0 0 else s
  evTerr s fun t => { t with evPortFail := true }

def execPortTrainingDone (p : PortId) (s : State) : Out := .next <|
  if (portAt s p).state = .training then upPort s p fun x => { x with state := .hello } else s
def execPortTrainingTimeout (p : PortId) (s : State) : Out := .next <|
  if (portAt s p).state = .training then failPort s p false else s
def execPortRetrainDelay (p : PortId) (s : State) : Out := .next <|
  if (portAt s p).state = .failed then upPort s p fun x => { x with state := .training } else s
def execHelloWaitTimeout (p : PortId) (s : State) : Out := .next <|
  if (portAt s p).state = .hello then failPort s p false else s

/-- Code of a role in PW_STAT and in messages (R360). -/
def roleCode : Role → Nat
  | .solo => 0
  | .primary => 1
  | .standby => 2
  | .deposed => 3
  | .survivor => 4

/-- HELLO_PERIOD (R384); a DEPOSED package sends nothing on the terrace under its identifier (R353). -/
def helloPeriodOp (s : State) (p : PortId) : State :=
  let st := (portAt s p).state
  if (st = .hello ∨ st = .active) ∧ ¬(s.pw.role = .deposed ∧ p.val < 16) then
    send s (.hello p.val ⟨ownId s, p.val, ownTwin s, roleCode s.pw.role⟩)
  else s
def execHelloPeriod (p : PortId) (s : State) : Out := .next (helloPeriodOp s p)

/-- The form of a packet of the given type (R381, R382). -/
def packetOk (pk : Packet) (ty : Nat) : Bool :=
  let isSealed := pk.flags == 0x80
  pk.type == ty && (pk.flags == 0 || (isSealed && ty == 1)) && pk.rsv == 0 && pk.payload.length == pk.length &&
    (ty == 2 || pk.status == 0) && (ty == 1 || pk.addr == 0) &&
    (if ty = 1 then (if isSealed then pk.length == 4100 else decide (pk.length ≤ 4096) && pk.aux == 0)
     else if ty = 0x10 then pk.length == 16 && pk.aux == 0
     else pk.length == 0 && (ty == 2 || (if ty = 0x11 ∨ ty = 0x13 then decide (pk.aux < 2 ^ 32) else pk.aux == 0)))
/-- Packets of this source are discarded (R388). -/
def fenced (s : State) (x : Nat) : Bool := s.terr.floods.any fun f => !f.claim && f.fenced == x
/-- A malformed packet is discarded and counted at its port (R382). -/
def badPacket (s : State) (p : PortId) : State := upPort s p fun x => { x with bad := satInc 8 x.bad }
/-- A message of one link arrives: malformed ones and those of a fenced source go (R382, R388). A HELLO is taken in the
states HELLO and ACTIVE, the others while the port is ACTIVE (R384). -/
def arriveLink (s : State) (p : PortId) (pk : Packet) (ty : Nat) (f : State → State) : State :=
  let st := (portAt s p).state
  if st ≠ .active ∧ ¬(st = .hello ∧ ty = 0x10) then s
  else if !packetOk pk ty then badPacket s p
  else if fenced s pk.src then s
  else f s
/-- A received HELLO (R384). -/
def helloOp (s : State) (p : PortId) (m : Hello) : State :=
  if m.id = ownId s then failPort s p true
  else if p.val ≥ 16 ∧ m.id ≠ ownTwin s then
    evPw (upPort s p fun x => { x with state := .hello, missed := 0 }) fun q => { q with evPairFail := true }
  else if m.id > 0x0FFF then s
  else
    let s := linkHeard (upPort s p fun x => { x with state := .active, neighbour := m.id, missed := 0, dup := false }) p
    match s.pw.oweYield with
    | some v => if p.val ≥ 16 then sendOn { s with pw := { s.pw with oweYield := none } } p (.yield v) else s
    | none => s
/-- A HELLO of 16 bytes arrives in its packet (R381, R382, R384). -/
def execHello (p : PortId) (m : Hello) (s : State) (pk : Packet := .bare 0x10 16) : Out := .next (arriveLink s p pk 0x10 fun s => helloOp s p m)

/-- One HELLO period without a HELLO; the third in a row fails an ACTIVE port (R384). -/
def helloMissedOp (s : State) (p : PortId) : State :=
  if (portAt s p).state ≠ .active then s
  else if (portAt s p).missed ≥ 2 then failPort s p false
  else upPort s p fun x => { x with missed := x.missed + 1 }
def execHelloMissed (p : PortId) (s : State) : Out := .next (helloMissedOp s p)

/-- A packet with a CRC error is discarded and replayed (R380); the count stands at the port (R399). `fault`: the link
does not recover, which is a link fault (R384, log 22). -/
def crcErrorOp (s : State) (p : PortId) (fault : Bool) : State :=
  if (portAt s p).state ≠ .active then s
  else
    let s := upPort s p fun x => { x with replays := satInc 16 x.replays }
    if fault then failPort s p false else s
def execCrcErrorReplay (p : PortId) (s : State) (fault : Bool := false) : Out := .next (crcErrorOp s p fault)

/- Routing (R385). -/

def dropPkt (s : State) : State := { s with terr := { s.terr with drops := satInc 16 s.terr.drops } }
/-- Port by which a packet for d leaves, and whether that is a detour. -/
def routeOut (s : State) (d : Nat) : Option (Nat × Bool) :=
  let e := spGet 0 s.terr.routes d
  if !e.testBit 31 then none
  else if portActive s (bits e 16 4) then some (bits e 16 4, false)
  else ((List.range 16).find? fun p => e.testBit p && portActive s p).map fun p => (p, true)
/-- A packet leaves by the route table; `from_`: the port on which it arrived. -/
def sendPacket (s : State) (from_ : Option Nat) (pk : Packet) : State :=
  match routeOut s pk.dst with
  | none => dropPkt s
  | some (n, detour) =>
    if from_ = some n then dropPkt s
    else
      match fin? 18 n with
      | none => s
      | some p =>
        let s := sendOn s p (.packet n pk)
        if detour then upPort s p fun x => { x with detours := satInc 16 x.detours } else s
/-- An own packet; a DEPOSED package sends none (R353). -/
def sendOwn (s : State) (pk : Packet) : State := if s.pw.role = .deposed then s else sendPacket s none pk

/-- The packet is for this device (R383). -/
def mine (s : State) (d : Nat) : Bool :=
  d == 0xFFFF || (s.deed.isSome && d == ownId s) || s.terr.claimed == some d

/-- A WRITE, ACK or NOTIFY arrives on a port (R382-R385, R388): malformed packets and packets of a fenced source go,
own ones are taken, others forwarded. -/
def arrive (s : State) (p : Fin 16) (pk : Packet) (ty : Nat) (own : State → State) : State :=
  let p' : PortId := ⟨p.val, by omega⟩
  if portHeld s p.val then s
  else arriveLink s p' pk ty fun s =>
    let s := linkHeard s p'
    if mine s pk.dst then (if s.pw.role = .deposed then s else own s)
    else if pk.hops = 0 then dropPkt s
    else sendPacket s (some p.val) { pk with hops := pk.hops - 1 }

/- Received writes (R391, R392). -/

/-- Row of the table of R391 that refuses a write of n bytes at va. -/
def rxFault (s : State) (h : Hh) (va n : Nat) : Option Nat :=
  let pages := if n = 0 then [] else (List.range ((va + n - 1) / 65536 - va / 65536 + 1)).map fun i =>
    if i = 0 then va else (va / 65536 + i) * 65536
  let errs := pages.filterMap fun a => match xlate s h false .write (a % 2 ^ 64) with
    | .error st => some st
    | .ok _ => none
  if errs.contains stTrans then some stTrans else errs.head?
/-- The acknowledgement of a packet (R381, R391). -/
def ackOf (s : State) (pk : Packet) (st aux : Nat) : Packet :=
  { type := 2, flags := 0, hops := 32, srcHh := pk.dstHh, dstHh := pk.srcHh, dst := pk.src, src := ownId s, tag := pk.tag,
    length := 0, status := st, rsv := 0, addr := 0, aux := aux, payload := [] }
/-- Household that a packet names. -/
def hhOf (n : Nat) : Hh := ⟨n % 16, by omega⟩
/-- TR_RX_h accepts packets of the source. -/
def rxAccepts (s : State) (h : Hh) (src : Nat) : Bool :=
  let x := (hhAt s h).terr
  x.rxEnable && (hhAt s h).lease.isSome && (x.rxPeer == 0xFFFF || x.rxPeer == src)
/-- A WRITE for this device. `fail`: offset of the first failing byte of a channel write (R328). -/
def rxWrite (s : State) (pk : Packet) (fail : Option Nat) : State :=
  let h := hhOf pk.dstHh
  let isSealed := pk.flags == 0x80
  let data := pk.payload.take 4096
  let refuse (s : State) (st aux : Nat) : State :=
    sendOwn (upTerr s h fun x => { x with rxLast := st, rxFaults := satInc 16 x.rxFaults }) (ackOf s pk st aux)
  if !rxAccepts s h pk.src then refuse s stPerm 0
  else match rxFault s h pk.addr data.length, (if isSealed then rxFault s h pk.aux 4 else none) with
    | some st, _ => refuse s (if (if isSealed then rxFault s h pk.aux 4 else none) = some stTrans then stTrans else st) 0
    | none, some st => refuse s st 0
    | none, none =>
      let bytes := splitWrite s.fresh data fail
      let put (s : State) (va : Nat) (bs : List Byte) : State := match hWrite s h false va bs with
        | .ok t => t
        | .error _ => s
      let t := put s pk.addr bytes
      let t := if isSealed then put t pk.aux (pk.payload.drop 4096) else t
      match fail with
      | none => sendOwn t (ackOf s pk stOk 0)
      | some o => refuse (tickFresh t) stPartial o
def execTrWrite (p : Fin 16) (pk : Packet) (fail : Option Nat) (s : State) : Out :=
  .next (arrive s p pk 1 fun s => rxWrite s pk fail)

/-- A NOTIFY for this device raises the household's terrace source (R392); TR_RX_h accepts it like a WRITE. -/
def rxNotify (s : State) (pk : Packet) : State :=
  let h := hhOf pk.dstHh
  if rxAccepts s h pk.src then raise s (hhSrc h 5) else s
def execTrNotify (p : Fin 16) (pk : Packet) (s : State) : Out := .next (arrive s p pk 3 fun s => rxNotify s pk)

/- Send queues (R389, R390). -/

def SendDesc.kind (d : SendDesc) : Nat := leAt d.raw 0 1
def SendDesc.report (d : SendDesc) : Bool := (leAt d.raw 1 1).testBit 7
def SendDesc.notify (d : SendDesc) : Bool := (leAt d.raw 1 1).testBit 6
def SendDesc.order (d : SendDesc) : Bool := (leAt d.raw 1 1).testBit 5
def SendDesc.length (d : SendDesc) : Nat := leAt d.raw 0x18 4
/-- Packets of a descriptor. -/
def SendDesc.packets (d : SendDesc) : Nat := cdiv d.length 4096
/-- Reserved fields and ranges of a descriptor (R389). -/
def SendDesc.ok (d : SendDesc) : Bool :=
  let zero (o n : Nat) : Bool := (slice d.raw o n).all fun b => b == 0
  let two := d.kind == 2
  (d.kind == 1 || two) && leAt d.raw 1 1 % 32 == 0 && decide (leAt d.raw 2 1 ≤ 15) && zero 3 1 &&
    decide (leAt d.raw 4 2 ≤ 0x0FFF) && zero 6 2 && leAt d.raw 8 8 % 64 == 0 && leAt d.raw 0x10 8 % 64 == 0 &&
    decide (64 ≤ d.length) && decide (d.length ≤ 2 ^ 30) && d.length % (if two then 4096 else 64) == 0 && zero 0x1C 4 &&
    (!two || (leAt d.raw 0x20 8 % 4 == 0 && leAt d.raw 0x28 8 % 4 == 0)) && zero 0x30 16

/-- Word of a descriptor (R390). -/
def sqWord (s : State) (h : Hh) (d : SendDesc) (st off : Nat) : State :=
  postWord s h (statusWord st 0xFD 0xFF (wordFlags h false 0) d.index off 0xFFFFFFFF) none
/-- A descriptor fails: its word, the error doorbell, and the queue halts. -/
def sqFail (s : State) (h : Hh) (d : SendDesc) (st off : Nat) : State :=
  let s := upTerr s h fun x => { x with sqHalted := true, out := x.out.filter fun y => y.index != d.index }
  errBell (sqWord s h d st off) h
/-- A header of an own packet (R381). -/
def ownPacket (s : State) (h : Hh) (d : SendDesc) (ty tag addr aux flags : Nat) (data : List Byte) : Packet :=
  { type := ty, flags := flags, hops := 32, srcHh := h.val, dstHh := leAt d.raw 2 1, dst := leAt d.raw 4 2, src := ownId s,
    tag := tag, length := data.length, status := 0, rsv := 0, addr := addr, aux := aux, payload := data }
/-- Every packet of a descriptor is acknowledged (R390 step 4). -/
def sqDone (s : State) (h : Hh) (d : SendDesc) : State :=
  let s := upTerr s h fun x => { x with out := x.out.filter fun y => y.index != d.index }
  let s := if d.notify then sendOwn s (ownPacket s h d 3 0 0 0 0 []) else s
  if d.report then sqWord s h d stOk 0 else s

/-- Packets that a household, or the device, has outstanding. -/
def outstanding (s : State) (h : Hh) : Nat := ((hhAt s h).terr.out.map fun d => d.out.length).sum
def outstandingAll (s : State) : Nat := (allHh.map (outstanding s)).sum

/-- The next packet of a descriptor: its data, with a block's seal, or why its source faults (R390 step 1). -/
def packetData (s : State) (h : Hh) (d : SendDesc) : Except MErr (List Byte) :=
  let o := 4096 * d.next
  match hRead s h false .read ((leAt d.raw 8 8 + o) % 2 ^ 64) (min 4096 (d.length - o)) with
  | .error e => .error e
  | .ok bs => if d.kind ≠ 2 then .ok bs
    else match hRead s h false .read ((leAt d.raw 0x20 8 + 4 * d.next) % 2 ^ 64) 4 with
      | .error e => .error e
      | .ok w => .ok (bs ++ w)
/-- Packets of the descriptors in progress leave while the limits allow (R390 steps 1 and 2); those for a port whose
half waits for its reset wait (R367). -/
def pump : Nat → State → Hh → State
  | 0, s, _ => s
  | n + 1, s, h =>
    let x := (hhAt s h).terr
    match x.out.find? fun d => decide (d.next < d.packets) with
    | none => s
    | some d =>
      if x.sqHalted || outstanding s h ≥ 256 || outstandingAll s ≥ 1024 ||
          (routeOut s (leAt d.raw 4 2)).any (fun r => portHeld s r.1) then s
      else match packetData s h d with
        | .error e =>
          let s := match e with
            | .ue a => noteUeVa s h false .read a
            | _ => s
          sqFail s h d e.status (4096 * d.next)
        | .ok bs =>
          let two := d.kind == 2
          let pk := ownPacket s h d 1 x.nextTag ((leAt d.raw 0x10 8 + 4096 * d.next) % 2 ^ 64)
            (if two then (leAt d.raw 0x28 8 + 4 * d.next) % 2 ^ 64 else 0) (if two then 0x80 else 0) bs
          let s := upTerr s h fun y => { y with
            nextTag := wrapInc 32 y.nextTag
            out := y.out.map fun z => if z.index = d.index then { z with next := z.next + 1, out := z.out ++ [⟨x.nextTag, 4096 * d.next⟩] } else z }
          pump n (sendOwn s pk) h

/-- The next descriptor of the queue, read from the ring. -/
def nextDesc (s : State) (h : Hh) : Option (Except MErr (List Byte)) :=
  let x := (hhAt s h).terr
  if !x.sqEnable || x.sqHalted || x.sqHead % 65536 == x.sqTail || s.pw.role == .deposed || (hhAt s h).lease.isNone then none
  else some (hRead s h false .read (x.sqBase + 64 * (x.sqHead % 2 ^ x.sqLog2)) 64)
/-- A descriptor starts (R390): SQ_WRITE takes every kind but WRITE_SEALED, the other row that kind. -/
def sqStart (s : State) (h : Hh) (twos : Bool) : State :=
  let x := (hhAt s h).terr
  let step (s : State) : State := upTerr s h fun x => { x with sqHead := wrapInc 32 x.sqHead }
  match nextDesc s h with
  | none => s
  | some (.error e) => sqFail (step s) h ⟨x.sqHead, [], 0, []⟩ e.status 0
  | some (.ok bs) =>
    let d : SendDesc := ⟨x.sqHead, bs, 0, []⟩
    if (d.kind == 2) != twos then s
    else if d.order && !x.out.isEmpty then s
    else if !d.ok then sqFail (step s) h d stRange 0
    else pump 256 (upTerr (step s) h fun x => { x with out := x.out ++ [d] }) h
def execSqWrite (h : Hh) (s : State) : Out := .next (sqStart s h false)
def execSqWriteSealed (h : Hh) (s : State) : Out := .next (sqStart s h true)

/-- The descriptor and packet of an outstanding tag. -/
def byTag (s : State) (h : Hh) (tag : Nat) : Option (SendDesc × OutPkt) :=
  (hhAt s h).terr.out.findSome? fun d => (d.out.find? fun p => p.tag == tag).map fun p => (d, p)
/-- An end-to-end ACK (R390 steps 4 and 5); one of no outstanding packet is ignored. -/
def rxAck (s : State) (pk : Packet) : State :=
  let h := hhOf pk.dstHh
  match byTag s h pk.tag with
  | none => s
  | some (d, p) =>
    if pk.status ≠ stOk then sqFail s h d pk.status ((p.offset + pk.aux) % 2 ^ 32)
    else
      let d := { d with out := d.out.filter fun q => q.tag != p.tag }
      let s := upTerr s h fun x => { x with out := x.out.map fun z => if z.index = d.index then d else z }
      let s := if d.out.isEmpty && decide (d.packets ≤ d.next) then sqDone s h d else s
      pump 256 s h
def execTrAck (p : Fin 16) (pk : Packet) (s : State) : Out := .next (arrive s p pk 2 fun s => rxAck s pk)

/-- An ACK is missing 10 ms after its packet was sent (R390). -/
def ackTimeoutOp (s : State) (h : Hh) (tag : Nat) : State := match byTag s h tag with
  | none => s
  | some (d, p) => sqFail s h d stPartial p.offset
def execAckTimeout (h : Hh) (tag : Nat) (s : State) : Out := .next (ackTimeoutOp s h tag)

/-- TAIL of TR_SQ_PTR_h (R399): a write past HEAD by more than the ring is ignored. -/
def sqTailOp (s : State) (h : Hh) (v : Nat) : State := upTerr s h fun x =>
  if (v % 65536 + 65536 - x.sqHead % 65536) % 65536 > 2 ^ x.sqLog2 then x else { x with sqTail := v % 65536 }
def execTrSqTailWrite (a : Agent) (h : Hh) (v : Nat) (s : State) : Out := .next (hhRow s a h fun s => sqTailOp s h v)
/-- RESUME of TR_SQ_PTR_h skips the failed descriptor (R390). -/
def sqResumeOp (s : State) (h : Hh) : State :=
  if (hhAt s h).terr.sqHalted then pump 256 (upTerr s h fun x => { x with sqHalted := false }) h else s
def execTrSqResume (a : Agent) (h : Hh) (s : State) : Out := .next (hhRow s a h fun s => sqResumeOp s h)

/- Floods (R387, R388). -/

/-- A message of one link to the neighbour of a port: FENCE 0x11, FENCE_ACK 0x12, ROUTE_CLAIM 0x13. -/
def linkPacket (s : State) (ty aux : Nat) : Packet :=
  { type := ty, flags := 0, hops := 32, srcHh := 0, dstHh := 0, dst := 0xFFFF, src := ownId s, tag := 0, length := 0,
    status := 0, rsv := 0, addr := 0, aux := aux, payload := [] }
/-- A flood leaves by every ACTIVE terrace port but one. -/
def flood (s : State) (ty x y : Nat) (but : Option Nat) : State :=
  if s.pw.role = .deposed then s
  else allPorts.foldl (fun t n => if n.val < 16 && portActive t n.val && decide (but ≠ some n.val) then
    sendOn t n (.packet n.val (linkPacket t ty (x % 65536 + 65536 * (y % 65536)))) else t) s
def knownFlood (s : State) (claim : Bool) (x y : Nat) : Bool :=
  s.terr.floods.any fun f => f.claim == claim && f.fenced == x && f.claimant == y
def noteFlood (s : State) (claim : Bool) (x y : Nat) : State :=
  { s with terr := { s.terr with floods := s.terr.floods ++ [⟨claim, x, y, s.us⟩] } }

/-- A port of the terrace among all ports. -/
def terrPort (p : Fin 16) : PortId := ⟨p.val, by omega⟩
/-- A FENCE of x by y arrives (R388). -/
def fenceOp (s : State) (p : Fin 16) (x y : Nat) : State :=
  let s := if s.pw.role = .deposed then s else sendOn s (terrPort p) (.packet p.val (linkPacket s 0x12 0))
  if knownFlood s false x y then s
  else
    let s := flood (noteFlood s false x y) 0x11 x y (some p.val)
    let s := evTerr s fun t => { t with evFenced := true }
    if s.deed.isSome && x == ownId s then depose (stopAll s) else s
def execFence (p : Fin 16) (x y : Nat) (s : State) (pk : Packet := .bare 0x11 0) : Out := .next <|
  arriveLink s (terrPort p) pk 0x11 fun s => fenceOp (linkHeard s (terrPort p)) p x y

/-- The entry for y is copied into the entry for x (R388). -/
def copyRoute (s : State) (x y : Nat) : State :=
  { s with terr := { s.terr with routes := spSet 0 s.terr.routes x (spGet 0 s.terr.routes y) } }
/-- A ROUTE_CLAIM of x by y arrives (R388). -/
def routeClaimOp (s : State) (p : Fin 16) (x y : Nat) : State :=
  if knownFlood s true x y then s
  else copyRoute (flood (noteFlood s true x y) 0x13 x y (some p.val)) x y
def execRouteClaim (p : Fin 16) (x y : Nat) (s : State) (pk : Packet := .bare 0x13 0) : Out := .next <|
  arriveLink s (terrPort p) pk 0x13 fun s => routeClaimOp (linkHeard s (terrPort p)) p x y

/-- A FENCE entry, or a ROUTE_CLAIM entry where `claim`, lapses 10 s after it was made (R388). -/
def execFenceLapse (x y : Nat) (s : State) (claim : Bool := false) : Out := .next
  { s with terr := { s.terr with floods := s.terr.floods.filter fun f => !(f.claim == claim && f.fenced == x && f.claimant == y) } }

/-- A write of TR_ROUTE_d (R387, R399). -/
def routeWriteOp (s : State) (d : Fin 4096) (v : Nat) (claimed : Bool) : State :=
  if claimed then evTerr s fun t => { t with evRouteLost := true }
  else { s with terr := { s.terr with routes := spSet 0 s.terr.routes d.val (v % 2 ^ 20 + (if v.testBit 31 then 2 ^ 31 else 0)) } }
def execTrRouteWrite (a : Agent) (d : Fin 4096) (v : Nat) (claimed : Bool) (s : State) : Out :=
  .next (pfRow s a fun s => routeWriteOp s d v claimed)

end Sys2Proof.Machine
end

