-- ==== Sys2Proof/Machine/PartyWall.lean ====
section
/-! DEFINITION. The pair and the party wall: heartbeats, mirrored sets, bulk copies and takeover (R346-R360,
R393). -/

namespace Sys2Proof.Machine

/-- Digest that a HEARTBEAT carries: the first 16 bytes of the pair digest (R348, R356). -/
def digest16 (dg : Nat) : Nat := dg / 2 ^ 256
/-- The package talks to a twin over the party wall. -/
def wallTalks (s : State) : Bool :=
  s.deed.isSome && s.pw.role != .solo && s.pw.role != .deposed && !s.pw.stopped && wallUp s && !quiescing s 0x54

/- Takeover (R354). -/

/-- What stands for the primary's package in step 4: the digest of its deed, held from the mirror (R356), and its serial
number: the TARGET of that deed where it names one, else open (R354, log 22). -/
def twinOf (s : State) : TwinOf := match s.pw.mirDeed with
  | some img =>
    let target := leAt img 0x10 8
    ⟨digest8 (beNat (sha384 (signedBytes img))), if target = 0 then Config.peerSerial (ownTwin s) else target⟩
  | none => ⟨0, Config.peerSerial (ownTwin s)⟩
/-- A mirrored lease is loaded by the survivor (R354 step 4, R356). -/
def takeLease (s : State) (d : Deed) (twin : TwinOf) (h : Hh) (img : List Byte) : State :=
  match checkLease s d h img img.length (some twin) with
  | .error e =>
    let s := { s with loader := { s.loader with status := e.status, reason := e.reason, sect := e.sect, offset := e.offset } }
    logFault s 0x0F 0xFF 0x3F e.status h.val
  | .ok l =>
    let s := (sitesOfMask s l.excl).foldl (fun t p => zeroDone (zeroBegin t p.2 false) p.2) s
    let ld := s.loader
    let s := { leaseCurrent s h l false with loader := ld }
    let s := upTx s h fun t => { HhTx.init with journal := t.journal, seq := (hhAt s h).mirrored }
    upCmd s h fun c => { c with cqEnable := false, cqWait := [], cqFault := false }
/-- The mirrored leases in ascending household order. -/
def takeLeases (s : State) : State := match s.deed with
  | none => s
  | some d => allHh.foldl (fun t h => match t.pw.mirLease.get h with
    | some img => takeLease t d (twinOf t) h img
    | none => t) s
/-- Step 5: the survivor announces itself. -/
def announce (s : State) : State :=
  let s := evPw s fun p => { p with role := .survivor, paired := false, evTakeover := true, take := .none }
  raise (logFault s 0x09 0xFF 0x3F 0 0) 0
/-- The fence is over once every neighbour has acknowledged; the claim is flooded, the survivor's own entry is rewritten
and it answers to both identifiers (R354 step 3, R388). -/
def takeProgress (s : State) : State := match s.pw.take with
  | .none => s
  | .fencing x ports =>
    let left := ports.filter fun n => portActive s n
    if !left.isEmpty then { s with pw := { s.pw with take := .fencing x left } }
    else
      let s := flood (noteFlood s true x (ownId s)) 0x13 x (ownId s) none
      announce (copyRoute { s with terr := { s.terr with claimed := some x } } x (ownId s))
/-- The takeover sequence (R354): frames of unmarked sets go, the fence leaves, the leases are loaded. -/
def takeover (s : State) : State :=
  if s.pw.role ≠ .standby ∨ s.pw.take ≠ .none then s
  else
    let x := ownTwin s
    let s := { s with pw := { s.pw with frames := [] } }
    let ports := (List.range 16).filter fun n => portActive s n
    let s := flood (noteFlood s false x (ownId s)) 0x11 x (ownId s) none
    let s := takeLeases { s with pw := { s.pw with take := .fencing x ports } }
    takeProgress s

/-- A FENCE_ACK arrives from a neighbour; its packet names neither identifier of the FENCE (R381, R388). -/
def fenceAckOp (s : State) (p : Fin 16) : State := match s.pw.take with
  | .fencing z ports => takeProgress { s with pw := { s.pw with take := .fencing z (ports.filter fun n => n != p.val) } }
  | .none => s
def execFenceAck (p : Fin 16) (_x _y : Nat) (s : State) (pk : Packet := .bare 0x12 0) : Out := .next <|
  arriveLink s (terrPort p) pk 0x12 fun s => fenceAckOp (linkHeard s (terrPort p)) p
def execPwTakeover (a : Agent) (s : State) : Out := .next (pfRow s a takeover)

/- Heartbeats (R348, R351, R352). -/

/-- Frames of a bulk copy leave for the standby; BUSY ends with their delivery (R347, R360). -/
def bulkSend (s : State) : State :=
  let p := s.pw
  let s := sendRun s ((List.range (p.bulkFrames + 1)).map fun n =>
    .bulk (p.bulkBase + 65536 * n) (cRead s (p.bulkBase + 65536 * n) 65536))
  { s with pw := { s.pw with bulkSent := true } }
def bulkProgress (s : State) : State :=
  wallProgress (if s.pw.bulkBusy && !s.pw.bulkSent && wallUp s && !quiescing s 0x54 then bulkSend s else s)

/-- One heartbeat period (R351): HEARTBEAT on every ACTIVE port of the party wall, a toggle of the output, and one period more without a
toggle of the input. -/
def heartbeatPeriodOp (s : State) : State :=
  let quiet := s.pw.quiet + 1
  let s := { s with pw := { s.pw with quiet := quiet, pinAlive := s.pw.pinAlive && decide (quiet < 3) } }
  let s := if !s.pw.stopped && s.pw.role != .deposed && pinHas s 0x07 then
      send { s with pw := { s.pw with aliveOut := !s.pw.aliveOut } } .alive
    else s
  let s := match wallTalks s, s.deed with
    | true, some d => [16, 17].foldl (fun t n => if portActive t n then send t (.heartbeat ⟨roleCode s.pw.role, s.pw.paired, s.hhs.map fun x => x.mirrored, digest16 d.pairDigest,
        s.selBase, d.twinId, d.terraceId⟩) else t) s
    | _, _ => s
  takeProgress (bulkProgress s)
def execHeartbeatPeriod (s : State) : Out := .next (heartbeatPeriodOp s)

/-- One missed heartbeat (R352, R360): the third sets LINK_DOWN; a paired standby then takes over, or flags a
partition while the input still toggles. -/
def heartbeatMissedOp (s : State) : State :=
  if s.pw.role = .solo ∨ s.pw.role = .deposed ∨ s.deed.isNone then s
  else if s.pw.missed ≥ 2 then
    let s := if s.pw.missed = 2 then
        let t := evPw s fun p => { p with missed := 3, linkUp := false, evLinkDown := true }
        if wallUp t then logFault t 0x0B 0xFF 0x3F 0 0 else t
      else s
    if s.pw.role = .standby && s.pw.paired then
      if pinHas s 0x08 && s.pw.pinAlive then
        if s.pw.evPartition then s
        else raise (logFault (evPw s fun p => { p with evPartition := true }) 0x0C 0xFF 0x3F 0 0) 0
      else takeover s
    else s
  else { s with pw := { s.pw with missed := s.pw.missed + 1 } }
def execHeartbeatMissed (s : State) : Out := .next (heartbeatMissedOp s)

/-- A toggle of the twin-alive input, when a pin carries it (R352, R453). -/
def execTwinAliveInput (s : State) : Out := .next <|
  if pinHas s 0x08 then { s with pw := { s.pw with quiet := 0, pinAlive := true } } else s

/-- Pairing with the sender of a HEARTBEAT fails (R346). -/
def pairBad (s : State) (d : Deed) (m : Heartbeat) : Bool :=
  m.selBase != s.selBase || m.twin != d.terraceId || m.id != d.twinId || m.digest != digest16 d.pairDigest
/-- Roles that pair: a standby with a package in service, a primary with a standby. -/
def rolesPair (r : Role) (m : Nat) : Bool := match r with
  | .standby => m == 1 || m == 4
  | .primary => m == 2
  | _ => false
/-- A set fully sent that the standby's HEARTBEAT does not show as applied is sent again, whole (R349, log 22). -/
def resendSets (s : State) (m : Heartbeat) : State :=
  if s.pw.role ≠ .primary ∨ !s.pw.paired ∨ m.role ≠ 2 then s
  else allHh.foldl (fun t h => match t.pw.ship.get h with
    | some x => if x.sent && m.seqs.get h != x.seq then shipFrames t h x.seq x.frames else t
    | none => t) s
/-- A received HEARTBEAT (R346, R348, R349, R357, R393). -/
def heartbeatOp (s : State) (p : Fin 2) (m : Heartbeat) : State := match s.deed with
  | none => s
  | some d =>
    if s.pw.role = .solo ∨ !portActive s (16 + p.val) then s
    else
      let s := linkHeard s ⟨16 + p.val, by omega⟩
      let s := { s with pw := { s.pw with missed := 0, linkUp := true, twinId := m.id } }
      let s := if s.pw.role = .survivor ∧ m.role = 2 then
          (if pairBad s d m then (if s.pw.evPairFail then s else evPw s fun q => { q with evPairFail := true })
           else { s with pw := { s.pw with candidate := true } })
        else s
      let s := if s.pw.paired || !rolesPair s.pw.role m.role then s
        else if pairBad s d m then (if s.pw.evPairFail then s else evPw s fun q => { q with evPairFail := true })
        else
          let s := logFault { s with pw := { s.pw with paired := true } } 0x0D 0xFF 0x3F 0 0
          mirror s (.deed d.image)
      bulkProgress (resendSets s m)
def execHeartbeat (p : Fin 2) (m : Heartbeat) (s : State) : Out := .next (heartbeatOp s p m)

/- Sets and bulk copies (R347, R349). -/

/-- A mirroring standby. -/
def mirrors (s : State) : Bool := s.pw.role == .standby && s.pw.paired && s.pw.take == .none && !quiescing s 0x54
/-- A FRAME is written into the shadow copy of the standby's own pair, and joins its set once (R349, R386). -/
def frameOp (s : State) (h : Hh) (seq pair : Nat) (new : Bool) (data : List Byte) : State :=
  if !mirrors s then s
  else
    let s := cWrite s (pair * 131072 + (if selector s pair then 0 else 65536)) (slice data 0 65536)
    if s.pw.frames.any fun f => f.hh == h.val && f.seq == seq && f.pair == pair then s
    else { s with pw := { s.pw with frames := s.pw.frames ++ [⟨h.val, seq, pair, new⟩] } }
def execFrame (h : Hh) (seq pair : Nat) (new : Bool) (data : List Byte) (s : State) : Out := .next (frameOp s h seq pair new data)

/-- COMMIT_MARK (R349): a matching set is committed with the standby's own journal and acknowledged; another is
discarded. -/
def commitMarkOp (s : State) (h : Hh) (seq count digest : Nat) : State :=
  if !mirrors s then s
  else
    let of (f : SetFrame) : Bool := f.hh == h.val && f.seq == seq
    let fs := (s.pw.frames.filter of).map fun f => (f.pair, f.new)
    let s := { s with pw := { s.pw with frames := s.pw.frames.filter fun f => !of f } }
    if fs.length = count ∧ setDigest fs = digest then
      let s := (fs.zip (List.range fs.length)).foldl (fun t e => if (hhAt t h).tx.journal = 0 then t
        else cWrite t ((hhAt t h).tx.journal + 4096 + 8 * e.2) (journalEntry e.1)) s
      let s := journalHeader s h 2 count seq
      let s := fs.foldl (fun t e => setSelector t e.1 e.2) s
      let s := upHh (journalHeader s h 3 count seq) h fun x => { x with mirrored := seq }
      sendWall s 0 (.ack h.val seq)
    else evPw s fun p => { p with evPairFail := true }
def execCommitMark (h : Hh) (seq count digest : Nat) (s : State) : Out := .next (commitMarkOp s h seq count digest)

/-- An ACK of a set (R349). -/
def execPwAck (h : Hh) (seq : Nat) (s : State) : Out := .next <|
  if s.pw.role ≠ .primary then s
  else
    let done := match s.pw.ship.get h with
      | some x => x.seq == seq
      | none => false
    let s := upHh s h fun x => { x with mirrored := seq }
    if done then { s with pw := { s.pw with ship := s.pw.ship.set h.val none h.isLt } } else s

/-- A BULK frame is written at the same cellar address (R347). -/
def execBulk (cpa : Nat) (data : List Byte) (s : State) : Out := .next <|
  if mirrors s && decide (cpa + 65536 ≤ cellarSize) then cWrite s cpa (slice data 0 65536) else s

/-- A YIELD of the twin (R352). -/
def execYield (_seqs : Vector Nat 16) (s : State) : Out := .next (if s.pw.role = .standby then takeover s else s)

/-- A write of PW_BULK (R360). -/
def pwBulkOp (s : State) (v : Nat) : State :=
  let p := s.pw
  let s := { s with pw := { p with bulkFrames := bits v 42 20, bulkBase := bits v 16 23 * 65536 } }
  if v.testBit 63 && !p.bulkBusy && p.role == .primary then
    bulkProgress { s with pw := { s.pw with bulkBusy := true, bulkSent := false } }
  else s
def execPwBulkGo (a : Agent) (v : Nat) (s : State) : Out := .next (pfRow s a fun s => pwBulkOp s (setBit v 63))

end Sys2Proof.Machine
end

