-- ==== Sys2Proof/Machine/Reset.lean ====
section
/-! DEFINITION. Resets: the package, the porch, single blocks and functions (R361-R368, R378). -/

namespace Sys2Proof.Machine

/- Package resets (R361-R364). -/

/-- Pair identity that a warm reset retains: that of the deed in force, else the one retained before (R363). -/
def pairIdentity (s : State) : Option PairId := match s.deed with
  | some d => some ⟨d.terraceId, d.twinId, d.pwEnable⟩
  | none => s.boot.pairId
/-- A household right after a package reset: a warm one keeps the fields of R363. -/
def keptHh (x : HhSt) : HhSt :=
  { HhSt.init with
    tr := { HhTrans.init with root := x.tr.root, valid := x.tr.valid }
    tx := { HhTx.init with journal := x.tx.journal }
    pool := { HhSt.init.pool with save := x.pool.save } }
/-- The cluster map at reset (R63). -/
def bootMap (a : Attic) : Vector Nat 34 := .ofFn fun k => if a.fused.testBit k.val then 0x3F else k.val

/-- A package reset (R361, R362): everything returns to its Reset value but what the cold or warm reset keeps. `f` sets
the causes; `measure`: the strap is measured again, as it is where an earlier reset owes it (R370). -/
def packageReset (s : State) (warm measure : Bool) (f : RstSt → RstSt) : State :=
  let z := State.reset
  let serving := s.pw.role == .primary || s.pw.role == .survivor
  { z with
    pending := s.pending, fresh := s.fresh + 1, bus := s.bus, sent := s.sent, attic := s.attic, deedFloor := s.deedFloor, map := bootMap s.attic
    hhs := if warm then s.hhs.map keptHh else z.hhs
    selBase := if warm then s.selBase else 0
    cellar := if warm then { s.cellar with
        stackSts := .replicate 8 StackSt.init
        retired := match s.cellar.retired with
          | some (c, true) => some (c, true)
          | _ => none }
      else z.cellar
    rst := f { RstSt.init with
      por := s.rst.por, porch := s.rst.porch, region := s.rst.region, cluster := s.rst.cluster, block := s.rst.block
      thermtrip := s.rst.thermtrip, houseCrit := s.rst.houseCrit, watchdog := s.rst.watchdog, perst := s.rst.perst
      resetPin := s.rst.resetPin, cellarKept := warm, wasServing := warm && serving }
    boot := { BootSt.init with
      strap := if warm then s.boot.strap else BootSt.init.strap
      warm := warm, measure := measure || s.boot.measure, pairId := if warm then pairIdentity s else none } }

/-- Causes that coincide, by their bits of RST_CAUSE (R364). -/
def addCauses (r : RstSt) (m : Nat) : RstSt :=
  { r with
    thermtrip := r.thermtrip || m.testBit 9, houseCrit := r.houseCrit || m.testBit 8, watchdog := r.watchdog || m.testBit 7
    perst := r.perst || m.testBit 6, resetPin := r.resetPin || m.testBit 5, por := r.por || m.testBit 4
    porch := r.porch || m.testBit 3, region := r.region || m.testBit 2, cluster := r.cluster || m.testBit 1
    block := r.block || m.testBit 0 }
/-- POWER_ON (R361): the causes are cleared before POR is set (R378). -/
def powerOnOp (s : State) (m : Nat) : State :=
  packageReset { s with rst := RstSt.init } false true fun r => addCauses { r with por := true } m
/-- A junction at 110 °C (R361, R449): held in reset, THERMTRIP_N asserted, until PWROK falls. -/
def thermalTripOp (s : State) (m : Nat) : State :=
  if !alive s then s
  else
    let s := packageReset s false true fun r => addCauses r m
    { s with boot := { s.boot with tripped := true } }
/-- Package reset sources of one SCLK cycle, as bits of RST_CAUSE: the one of widest scope takes effect, and every source
sets its bit (R364). A warm reset is none while the package is held in reset; RESET_N and PERST_N have the strap measured
again (R370). -/
def packageSources (s : State) (m : Nat) : State :=
  if m.testBit 4 then powerOnOp s m
  else if m.testBit 9 then thermalTripOp s m
  else if alive s then packageReset s true (m.testBit 5 || m.testBit 6) fun r => addCauses r m
  else s
def execPowerOn (s : State) (also : Nat := 0) : Out := .next (packageSources s (setBit also 4))

/-- POWER_LOSS (R446): the package is in reset until PWROK rises. -/
def powerLossOp (s : State) : State :=
  let s := packageReset s false true id
  { s with boot := { s.boot with powered := false } }
def execPowerLoss (s : State) : Out := .next (powerLossOp s)

/-- RESET_N (R361, R370); `also`, here and below: the RST_CAUSE bits of sources in the same cycle (R364). -/
def execResetPin (also : Nat) (s : State) : Out := .next (packageSources s (setBit also 5))

/-- The house timer with FUNC 0x01 expires (R361, R73). -/
def execWatchdogExpiry (s : State) (also : Nat := 0) : Out := .next <| match s.deed with
  | some d => if d.timers.any fun t => t.func == 1 then packageSources s (setBit also 7) else s
  | none => s
def execHouseCriticalError (s : State) (also : Nat := 0) : Out := .next (packageSources s (setBit also 8))
def execThermalTrip (s : State) (also : Nat := 0) : Out := .next (packageSources s (setBit also 9))

/-- TRST_N resets the test logic alone, which holds no state of the block (R361, R451). -/
def execJtagTrst (s : State) : Out := .next s

/- The porch (R361, R365). -/

/-- A porch reset: virtual functions and MSI-X vectors are disabled, the porch registers return to Reset; `down`: the
link is lost with it. -/
def porchResetOp (s : State) (down : Bool) : State :=
  let p := s.porch
  let z := PorchSt.init
  let q := if down then z else { z with up := p.up, flit := p.flit, speed := p.speed, width := p.width }
  let s := { s with porch := q }
  let s := { s with hhs := s.hhs.map fun (x : HhSt) => { x with vfOn := false, vfWin := 0 } }
  { s with rst := { s.rst with porch := true } }
/-- A porch-boot strap (R361, R371): codes 4 to 6 and 13. -/
def porchStrap (s : State) : Bool := [4, 5, 6, 13].contains s.boot.strap.code && s.boot.strap.valid
def execPorchReset (c : PorchCause) (s : State) (also : Nat := 0) : Out := .next <|
  if c = .perst ∧ porchStrap s then packageSources s (setBit also 6)
  else if also / 16 % 64 ≠ 0 then packageSources s (setBit also 3)
  else if alive s then porchResetOp { s with rst := addCauses s.rst also } (decide (c ≠ .pfFlr)) else s

/-- PORCH_LINK_UP (R375, R400). -/
def execPorchLinkUp (speed width : Nat) (flit : Bool) (s : State) : Out := .next <|
  if alive s then { s with porch := { s.porch with up := true, speed := speed % 16, width := width % 32, flit := flit } } else s

/-- MSI-X and SR-IOV configuration (R365, R423): VF Enable brings back the functions of live households. -/
def porchCfgOp (s : State) (c : PorchCfg) : State := match c with
  | .msixEnable f on => { s with porch := { s.porch with msixOn := s.porch.msixOn.set f.val on f.isLt } }
  | .funcMask f on => { s with porch := { s.porch with funcMask := s.porch.funcMask.set f.val on f.isLt } }
  | .vectorMask f n on =>
    let k := 64 * f.val + n.val
    { s with porch := { s.porch with
      vecMask := if on then insNat s.porch.vecMask k else s.porch.vecMask.filter fun x => x != k } }
  | .vfEnable on =>
    let s := { s with porch := { s.porch with vfEnable := on } }
    { s with hhs := s.hhs.map fun (x : HhSt) => { x with vfOn := on && x.lease.isSome && s.pw.role != .deposed } }
def execPorchConfigurationWrite (c : PorchCfg) (s : State) : Out := .next (if s.porch.up then porchCfgOp s c else s)

/- The Strongbox, the terrace and the party wall (R365). -/

/-- The operation in flight ends with PK_ABORTED, the operand memory wiped first (R365, R437, R439). The owner's
waiting request goes with it. -/
def sbAbortOp (s : State) : State := match s.sb.cur with
  | none => s
  | some o => match o.owner with
    | .hh h => sbDrop s h
    | _ =>
      let s := { s with sb := { s.sb with
        mem := [], evWiped := true, cur := none, status := stPkAbort, evDone := true
        house := if o.owner = .house then none else s.sb.house, pf := if o.owner = .pf then none else s.sb.pf } }
      raise s 2
/-- A Strongbox reset: its own registers return to Reset, loaded curves are lost (log 23). -/
def sbResetOp (s : State) : State :=
  let s := sbAbortOp s
  settle { s with sb := { s.sb with cmdAddr := 0, overrun := false, elapsed := 0, lost := 0, curves := .replicate 5 none } }
/-- Ports are reset and train again (R365). -/
def resetPorts (s : State) (ps : List PortId) : State :=
  let was := wallUp s
  let s := enablePorts (ps.foldl (fun t p => upPort t p fun _ => Port.init) s)
  if was && !wallUp s then logFault s 0x0B 0xFF 0x3F 0 0 else s
/-- A party-wall reset: its ports train again, and its lost-clear counter is zero (R13, R365). -/
def wallResetOp (s : State) : State :=
  let s := resetPorts s [16, 17]
  { s with pw := { s.pw with lost := 0 } }
def halfPorts (h : Nat) : List PortId := allPorts.filter fun p => decide (p.val < 16) && p.val / 8 == h

/- Block resets (R366-R368). -/

/-- Blocks that RST_REQ names (R366). -/
inductive Block where
  | cluster (i : Site)
  | region (r : Rg)
  | larder (r : Rg)
  | strongbox
  | porch
  | half (h : Nat)
  | wall
  | stack (k : StackId)
deriving DecidableEq, Repr

def blockOf (c : Nat) : Option Block :=
  match fin? 34 c, fin? 8 (c - 0x40), fin? 8 (c - 0x48), fin? 8 (c - 0x60) with
  | some i, _, _, _ => some (.cluster i)
  | none, some r, _, _ => if 0x40 ≤ c then some (.region r) else none
  | none, none, some r, _ => if 0x48 ≤ c then some (.larder r) else none
  | none, none, none, k =>
    if c = 0x50 then some .strongbox else if c = 0x51 then some .porch
    else if c = 0x52 ∨ c = 0x53 then some (.half (c - 0x52)) else if c = 0x54 then some .wall
    else match k with
      | some k => if 0x60 ≤ c then some (.stack k) else none
      | none => none

/-- A GO is refused (R366). -/
def blockRefused (s : State) (c : Nat) : Bool := match blockOf c with
  | none => true
  | some (.cluster i) => fusedSite s i
  | some (.stack _) => s.deed.isSome
  | some _ => false

/-- No command of the block is in execution and it has no outstanding request (R367): a region's hallway segment carries
the larder's streams (R368); what a port has sent is outstanding until its neighbour acknowledges it; each access of the
porch ends within its command. -/
def blockIdle (s : State) (b : Block) : Bool :=
  let active (es : List Entry) : Bool := es.any fun e => e.phase == .running || e.phase == .done || e.phase == .faulted
  match b with
  | .cluster i => match (siteAt s i).served with
    | some h => !((setAt s i h).queues.toList.any fun q => active q.ents) && (siteAt s i).st.streams.all fun x => x.out.isEmpty
    | none => true
  | .region r => !active (regAt s r).mve.ents && ((regAt s r).mve.streams.all fun x => x.out.isEmpty) &&
      !active ((regAt s r).larder.ents.filter fun e => e.cmd.opcode == 0xC1)
  | .larder r => !active (regAt s r).larder.ents && (regAt s r).larder.streams.all fun x => x.out.isEmpty
  | .strongbox => s.sb.cur.isNone
  | .porch => true
  | .half h => (halfPorts h).all fun p => (portAt s p).replay.isEmpty
  | .wall => (wallReplay s).isEmpty
  | .stack k => (s.cellar.stackSts.get k).state != 1 && (s.cellar.stackSts.get k).chans.toList.all fun c => !c.tgBusy

/-- A cluster reset by request (R368): a serving site runs steps 1, 2, 4 and 5 of the replacement and keeps its number;
pantry and accumulator file are zeroed. -/
def resetCluster (s : State) (i : Site) : State :=
  let zero (s : State) : State := zeroDone (zeroBegin s i false) i
  match globalOf s i with
  | some k =>
    if k.val ≥ 32 then zero (upSite s i resetSite)
    else
      let hs := affected s k
      let s := hs.foldl (fun t h => if (hhAt t h).tx.opened then txAbort t h AbortBy.house false else t) s
      let s := freeLandingOf s k
      let s := upSite s i fun c => { resetSite c with
        sets := Vector.ofFn fun h : Fin 16 => shareAfter s k hs h (c.sets.get h) }
      let s := zero s
      let s := hs.foldl (fun t h => upSet t i h fun x => { x with roots := true }) s
      raise (hs.foldl (fun t h => lossWord t h k.val) s) 0
  | none => zero (upSite s i resetSite)

/-- STREAM commands of a region's larder end, with the PREX commands where `prex` says so; the group of a household
whose command so ends aborts (R327, R368). -/
def endStreams (s : State) (r : Rg) (prex : Bool) : State :=
  let gone (e : Entry) : Bool := e.phase != .queued && (e.cmd.opcode == 0xC1 || (prex && e.cmd.opcode == 0xC2))
  let es := (regAt s r).larder.ents.filter gone
  let s := upReg s r fun g => { g with
    larder := { g.larder with ents := g.larder.ents.filter fun e => !gone e }
    ld := { g.ld with ann := if prex then [] else g.ld.ann } }
  let s := sweep s (.larder r)
  es.foldl (fun t e => engineAbort t e.hh ⟨stTxAbort, e.cmd.opcode, r.val, e.seq, e.recIdx⟩) s
/-- A region code: control core, hallway segment and MVE (R368). -/
def resetRegion (s : State) (r : Rg) : State :=
  let hs := regionHhs s r
  let s := hs.foldl (fun t h => if (hhAt t h).tx.opened then txAbort t h AbortBy.house false else t) s
  let s := closeWindows (endStreams s r false) r
  let s := upReg s r fun g => { g with
    core := Core.init, mve := RQueue.init, landing := .replicate 2 none, lbWait := [], mvStall := .replicate 10 0, mvLatched := .replicate 10 0
    ld := { g.ld with hwMcast := 0, hwBlocks := 0 } }
  hs.foldl (fun t h => lossWord t h (0x80 + r.val)) s
/-- A larder code (R368). -/
def resetLarder (s : State) (r : Rg) : State :=
  let s := closeWindows (endStreams s r true) r
  upReg s r fun g => { g with
    larder := RQueue.init, ld := { LdRegs.init with hwMcast := g.ld.hwMcast, hwBlocks := g.ld.hwBlocks }, ldLost := 0
    ldStall := .replicate 10 0, ldLatched := .replicate 10 0 }

/-- What a block reset does (R368): a cellar controller's is a die fault (R55, R299, R365). -/
def resetBlock (s : State) : Block → State
  | .cluster i => resetCluster s i
  | .region r => resetRegion s r
  | .larder r => resetLarder s r
  | .strongbox => sbResetOp s
  | .porch => porchResetOp s true
  | .half h => resetPorts s (halfPorts h)
  | .wall => wallResetOp s
  | .stack k => dieFaultOp (upStack s k fun x =>
      { StackSt.init with trained := x.trained, temp := x.temp, state := x.state, channel := x.channel, progress := x.progress })
      ⟨k.val / 4, by omega⟩

/-- The end of a block reset (R367, R378, R419). -/
def blockDone (s : State) (code us : Nat) (forced : Bool) : State := match blockOf code with
  | none => s
  | some b =>
    let s := resetBlock { s with rst := { s.rst with active := none } } b
    let s := { s with rst := { s.rst with
      block := true, forced := forced, lastBlock := code, lastUs := min us 65535
      forcedCount := if forced then satInc 16 s.rst.forcedCount else s.rst.forcedCount } }
    settle (raise s 6)
/-- A forced reset takes a time the spec does not give (log 23). -/
def forceReset (s : State) (code : Nat) : State := blockDone (tickFresh s) code (Config.freeNat s.fresh % 65536) true

/-- A write of RST_REQ (R366, R378). -/
def rstReqOp (s : State) (v : Nat) : State :=
  let code := v % 256
  let s := { s with rst := { s.rst with reqBlock := code } }
  if !v.testBit 31 then s
  else if s.rst.active.isSome then { s with rst := { s.rst with overrun := true } }
  else if blockRefused s code then { s with rst := { s.rst with refused := true } }
  else if v.testBit 30 then forceReset s code
  else { s with rst := { s.rst with active := some ⟨code, false⟩ } }
def execRstReqGo (a : Agent) (v : Nat) (s : State) : Out := .next (pfRow s a fun s => rstReqOp s (setBit v 31))

/-- BLOCK_RESET_IDLE (R367): `us`, the time since GO, lies within RST_TIMEOUT. -/
def blockIdleOp (s : State) (us : Nat) : State := match s.rst.active with
  | none => s
  | some b => match blockOf b.block with
    | none => s
    | some x => if blockIdle s x && decide (us ≤ s.rst.timeout) then blockDone s b.block us false else s
def execBlockResetIdle (us : Nat) (s : State) : Out := .next (blockIdleOp s us)
def execResetQuiesceTimeout (s : State) : Out := .next <| match s.rst.active with
  | none => s
  | some b => forceReset s b.block

/-- A critical-state error in a block that quiesces forces its reset in the same cycle (R364). -/
def critQuiesce (s : State) (code : Nat) : State := if quiescing s code then forceReset s code else s
def execClusterCriticalError (i : Site) (s : State) : Out := .next (clusterCriticalOp (critQuiesce s i.val) i)
def execRegionCriticalError (r : Rg) (s : State) : Out :=
  .next (regionCriticalOp (critQuiesce (critQuiesce s (0x40 + r.val)) (0x48 + r.val)) r)
def execCriticalStateError (b : CritBlock) (s : State) : Out := .next <| match b with
  | .strongbox => sbResetOp (critQuiesce s 0x50)
  | .porch => porchResetOp (critQuiesce s 0x51) true
  | .terraceHalf h => resetPorts (critQuiesce s (0x52 + h.val)) (halfPorts h.val)
  | .partyWall => wallResetOp (critQuiesce s 0x54)

/-- A function-level reset of virtual function h + 1 (R368): the household's work ends, its ring is disabled and its
descriptor table invalid. -/
def flrOp (s : State) (h : Hh) : State :=
  if (hhAt s h).lease.isNone then s
  else settle (upCmd (closeHousehold s h) h fun c => { c with
    cqEnable := false, cqWait := [], cqFault := false, dtValid := .replicate 64 0, dtSnap := [] })
def execVfFunctionLevelReset (h : Hh) (s : State) : Out := .next (flrOp s h)

end Sys2Proof.Machine
end

