-- ==== Sys2Proof/Machine/Boot.lean ====
section
/-! DEFINITION. Start-up: the strap, the firmware, the steps up to READY (R369-R377). -/

namespace Sys2Proof.Machine

/- The strap (R369-R371). -/

/-- Code of eight samples in mV; none when they disagree. -/
def strapCode (ms : List Nat) : Option Nat :=
  if ms.all fun v => decide (1470 ≤ v) then some 15
  else (List.range 15).find? fun n => ms.all fun v => decide (100 * n ≤ v + 30) && decide (v ≤ 100 * n + 30)
/-- The latch after a measurement. -/
def strapOf (ms : List Nat) : Strap :=
  let mv := ms.sum / 8 % 2048
  match strapCode ms with
  | none => ⟨false, true, 0, mv⟩
  | some c => ⟨1 ≤ c && c ≤ 13, false, c, mv⟩
/-- Boot source of a code: 0 flash, 1 porch, 2 flash then porch, 3 none. -/
def strapSource (p : Strap) : Nat :=
  if !p.valid then 3
  else if p.code ≤ 3 || (decide (10 ≤ p.code) && decide (p.code ≤ 12)) then 0
  else if p.code ≤ 6 || p.code == 13 then 1
  else 2
/-- Role of a code: 0 SOLO, 1 PRIMARY, 2 STANDBY, 3 none. -/
def strapRole (p : Strap) : Nat := if !p.valid then 3 else (p.code + 2) % 3
def roleOf (n : Nat) : Role := if n = 1 then .primary else if n = 2 then .standby else .solo

def upBoot (s : State) (f : BootSt → BootSt) : State := { s with boot := f s.boot }
def toStage (s : State) (n : Nat) : State := upBoot s fun b => { b with stage := n }
/-- Start-up stops in the step with an ERROR (R371, R373, R375). -/
def bootError (s : State) (e : Nat) : State := upBoot s fun b => { b with error := e }

/-- Step 2: the strap is measured where R370 says so; an invalid code, and code 13, stop start-up. -/
def bootAttic (s : State) (i : BootInput) : State :=
  let s := if s.boot.measure then upBoot s fun b => { b with strap := strapOf i.samples, measure := false } else s
  let p := s.boot.strap
  if !p.valid then bootError s 1
  else
    let s := { s with pw := { s.pw with role := roleOf (strapRole p) } }
    if p.code = 13 then s else toStage s 3

/- Firmware (R373, R374). -/

/-- Why a firmware image is not trusted: the status of the failing check. -/
def firmwareErr (s : State) (img : List Byte) : Option Nat :=
  let f (o n : Nat) := leAt img o n
  if f 0 4 ≠ 0x57464D48 ∨ f 4 1 ≠ 1 ∨ f 8 4 ≠ img.length ∨ img.length < 384 ∨ img.length > 2 ^ 22 then some stImgForm
  else if !(deedSigners s.attic).contains (beNat (slice img 0x20 48)) then some stImgSig
  else if f 0x0C 4 < s.attic.fwFloor then some stImgSig
  else if !signatureOk img 0x20 then some stImgSig
  else none
/-- An image is verified: it runs, or its failure is recorded. -/
def tryFirmware (s : State) (img : Option (List Byte)) : State := match img with
  | none => upBoot s fun b => { b with status := stImgForm }
  | some bs => match firmwareErr s bs with
    | some st => upBoot s fun b => { b with status := st }
    | none => upBoot (sbForHouse s) fun b => { b with fwOk := true, fwSeq := leAt bs 0x0C 4, error := 0 }
/-- The boot header of the flash (R373): MAGIC, VERSION, and zeros outside its fields. -/
def headerOk (b : List Byte) : Bool :=
  b.length == 64 && leAt b 0 4 == 0x4E524F42 && leAt b 4 1 == 1 && leAt b 5 3 == 0 && leAt b 0x20 32 == 0
/-- An image that the header names by the LEN field at an offset: none without a header, or of another length (log 24). -/
def flashCopy (i : BootInput) (o : Nat) (img : Option (List Byte)) : Option (List Byte) :=
  if headerOk i.header then img.filter fun bs => bs.length == leAt i.header o 4 else none
/-- Step 3 from flash, once no Strongbox operation is in flight (R83): the first copy, then the second. -/
def bootFirmware (s : State) (i : BootInput) : State :=
  if s.boot.fwOk then toStage s 4
  else if strapSource s.boot.strap = 1 ∨ s.boot.status ≠ 0 ∨ s.sb.cur.isSome then s
  else
    let s := tryFirmware s (flashCopy i 0x0C i.fw1)
    let s := if s.boot.fwOk then s else tryFirmware s (flashCopy i 0x14 i.fw2)
    if s.boot.fwOk then toStage s 4
    else if strapSource s.boot.strap = 0 then bootError s 2 else s

/-- The boot ROM waits for an image from the host: a porch boot, or the fallback of codes 7 to 9 (R374). -/
def fwAwaited (s : State) : Bool :=
  s.boot.stage == 3 && !s.boot.fwOk && (strapSource s.boot.strap == 1 || (strapSource s.boot.strap == 2 && s.boot.status != 0))
/-- The image from the host is verified: it runs, or ERROR is set and another GO awaited (R374). -/
def hostFirmware (s : State) (img : Option (List Byte)) : State :=
  let s := tryFirmware (upBoot s fun b => { b with fwBusy := false, fwWait := none }) img
  if s.boot.fwOk then upBoot s fun b => { b with fwHost := true } else bootError s 2
/-- GO of BOOT_FW_CTRL with the image as fetched (R374, R377); its verification waits for a Strongbox operation in flight
(R83). -/
def bootFwOp (s : State) (v : Nat) (img : Option (List Byte)) : State :=
  if s.boot.stage ≠ 3 then s
  else
    let s := upBoot s fun b => { b with fwLen := bits v 0 23 }
    if !v.testBit 31 || s.boot.fwBusy || !fwAwaited s then s
    else
      let good := s.boot.fwAddr % 64 == 0 && decide (512 ≤ s.boot.fwLen) && decide (s.boot.fwLen ≤ 2 ^ 22) && match img with
        | some bs => bs.length == s.boot.fwLen
        | none => false
      if good && s.sb.cur.isSome then upBoot s fun b => { b with fwBusy := true, fwWait := img }
      else hostFirmware s (if good then img else none)
def execBootFwGo (a : Agent) (v : Nat) (img : Option (List Byte)) (s : State) : Out :=
  .next (pkgRow s a fun s => bootFwOp s (setBit v 31) img)

/- Power, cellar, self-test (R372, R375). -/

/-- Step 4: every domain but those of fused-off sites. -/
def bootPower (s : State) : State :=
  let s := (List.range 64).foldl (fun t d => match fin? 34 d with
    | some i => if fusedSite t i then t else switchDomain t d true
    | none => switchDomain t d true) s
  toStage s 5

/-- A channel that fails its cold check is retired without a migration; a second one is a die fault (R296, R375). -/
def bootChannel (s : State) (ch : Nat) : State := match s.cellar.retired, fin? 256 ch with
  | none, some c =>
    let s := upStack { s with cellar := { s.cellar with retired := some (c, true) } } (chanStack ch) fun k =>
      { k with state := 2, channel := ch % 32, progress := 0, evRetired := true }
    raise (logFault (raise s (8 + ch / 32)) 0x04 ch 0x3F 0 0) 0
  | _, _ => s
/-- A stack or a second channel fails: start-up stops and the package is DEPOSED (R345, R375). -/
def bootDieFault (s : State) (d : Nat) : State :=
  bootError (depose (logFault s 0x07 (0xC0 + d) 0x3F 0 0)) 3
/-- Step 6, which runs beside step 5: shelves are on and zero; failing reserves are retired in place, other failing sites
replaced (R339, R343). -/
def bootSelfTest (s : State) (i : BootInput) : State :=
  let s := allSites.foldl (fun t k => (List.finRange 4).foldl (fun t j => wakeDone t k j) t) s
  let bad := allSites.filter fun k => i.testFail.contains k.val && !fusedSite s k
  (bad.filter (fun k => decide (k.val ≥ 32)) ++ bad.filter (fun k => decide (k.val < 32))).foldl
    (fun t k => replaceOp (quarantine t k 0) k false) s
/-- Step 5: training; cold, the check and the zero writes. The self-tests of step 6 end before it (R372). -/
def bootCellar (s : State) (i : BootInput) : State :=
  let s := bootSelfTest s i
  match i.trainFail with
  | k :: _ => bootDieFault s (k / 4 % 2)
  | [] =>
    let s := { s with cellar := { s.cellar with stackSts := s.cellar.stackSts.map fun (k : StackSt) => { k with trained := true } } }
    let s := if s.boot.warm then s else { s with cellar := { s.cellar with mem := [], poison := [] } }
    let cs := if s.boot.warm then [] else i.chanFail.filter fun c => decide (c < 256)
    match cs with
    | _ :: c :: _ => bootDieFault s (c / 128)
    | _ => toStage (cs.foldl bootChannel s) 6

/- Recovery (R320, R363, R372, R376). -/

/-- The journal of a household at CPA j is finished; answers the sequence of its last commit. -/
def recoverJournal (s : State) (j : Nat) : State × Nat :=
  let st := leNat (cRead s j 4)
  let n := leNat (cRead s (j + 4) 4)
  let seq := leNat (cRead s (j + 8) 4)
  if st = 2 then
    let s := (List.range (min n (2 ^ 20))).foldl (fun t k =>
      let e := leNat (cRead t (j + 4096 + 8 * k) 8)
      setSelector t (bits e 17 22) (e.testBit 0)) s
    (cWrite s j (leBytes 4 3), seq)
  else if st = 3 then (s, seq)
  else if st = 1 then (cWrite s j (leBytes 4 4), (seq + 2 ^ 32 - 1) % 2 ^ 32)
  else if st = 4 then (s, (seq + 2 ^ 32 - 1) % 2 ^ 32)
  else (s, 0)
/-- Step 8 of a warm start-up: the journals in ascending household order, the YIELD of a package that served, and the
retained fields of R363 back at Reset; what else software has written meanwhile stays. -/
def bootRecover (s : State) : State :=
  let (s, seqs) := allHh.foldl (fun (t, v) h =>
    let j := (hhAt t h).tx.journal
    if j = 0 then (t, v) else
      let r := recoverJournal t j
      (r.1, v.set h.val r.2 h.isLt)) (s, (Vector.replicate 16 0 : Vector Nat 16))
  let s := if !s.rst.wasServing then s
    else if wallUp s then sendWall s 0 (.yield seqs) else { s with pw := { s.pw with oweYield := some seqs } }
  toStage { s with
    hhs := s.hhs.map fun (x : HhSt) => { x with
      tr := { x.tr with root := 0, valid := false }, tx := { x.tx with journal := 0 }, pool := { x.pool with save := 0 } }
    selBase := 0 } 9

/- Deed, terrace, pairing (R372, R374, R376). -/

/-- Step 9: the deed from flash at the place that the boot header gives (R373), or awaited through IMG_CTRL with SRC = 0:
in a porch boot, where the firmware came from the host, and after a deed that failed from flash under codes 7 to 9
(R374). -/
def bootDeed (s : State) (i : BootInput) : State :=
  if s.deed.isSome then toStage (upBoot s fun b => { b with error := 0 }) 10
  else if s.loader.busy ∨ strapSource s.boot.strap = 1 ∨ s.boot.fwHost then s
  else if s.loader.done ∧ s.loader.src then (if strapSource s.boot.strap = 0 then bootError s 4 else s)
  else
    let s := { s with loader := { s.loader with
      op := 0, src := true, addr := leAt i.header 0x18 4, len := leAt i.header 0x1C 4, busy := true } }
    let s := loadDeedOp (flashCopy i 0x1C i.deed) s
    if s.deed.isSome then toStage s 10
    else if strapSource s.boot.strap = 0 && !s.loader.busy then bootError s 4 else s
/-- READY (R372): the fault doorbell is raised, TIME_US stands. -/
def bootReady (s : State) : State := raise (upBoot s fun b => { b with stage := 15, timeUs := s.us }) 0
/-- Step 11: the roles of R376. -/
def bootPairing (s : State) (i : BootInput) : State := match i.twin with
  | none =>
    if s.pw.role = .primary then bootReady (evPw s fun p => { p with evLinkDown := true }) else s
  | some r =>
    let s := { s with pw := { s.pw with twinId := i.twinId } }
    let role (x : Role) (s : State) : State := { s with pw := { s.pw with role := x } }
    if !i.twinStarting ∧ (r = 1 ∨ r = 4) then bootReady (role .standby s)
    else if i.twinStarting ∧ r = roleCode s.pw.role then
      bootReady (role (if ownId s < i.twinId then .primary else .standby) s)
    else bootReady s

/-- The terrace has joined (step 10). Pairing (step 11) runs beside it: it has ended too where the twin has answered. -/
def bootTerrace (s : State) (i : BootInput) : State :=
  if s.pw.role = .solo then bootReady s
  else if i.twin.isSome then bootPairing s i
  else toStage s 11
/-- BOOT_STAGE_ADVANCE: the work of the step in progress ends, and the next step begins (R372). -/
def bootAdvance (s : State) (i : BootInput) : State :=
  if !alive s || s.pw.role == .deposed then s
  else match s.boot.stage with
    | 1 => toStage s 2
    | 2 => if s.boot.error ≠ 0 then s else bootAttic s i
    | 3 => match s.boot.fwWait with
      | some img => if s.sb.cur.isSome then s else (fun t => if t.boot.fwOk then toStage t 4 else t) (hostFirmware s (some img))
      | none => if s.boot.error ≠ 0 && !s.boot.fwOk then s else bootFirmware s i
    | 4 => bootPower s
    | 5 => bootCellar s i
    | 6 => toStage s 7
    | 7 => if s.boot.warm then toStage s 8 else toStage s 9
    | 8 => bootRecover s
    | 9 => bootDeed s i
    | 10 => bootTerrace s i
    | 11 => bootPairing s i
    | _ => s
def execBootStageAdvance (i : BootInput) (s : State) : Out := .next (bootAdvance s i)

end Sys2Proof.Machine
end

