-- ==== Sys2Proof/Machine/Hearth.lean ====
section
/-! DEFINITION. The Hearth: the tick, ballast, coolant, power domains, audits and epochs (R404-R418). -/

namespace Sys2Proof.Machine

def upHe (s : State) (f : HearthSt → HearthSt) : State := { s with hearth := f s.hearth }
/-- Event flags of the Hearth and their doorbell (R418, R419). -/
def evHe (s : State) (f : HearthSt → HearthSt) : State := raise (upHe s f) 3
def maxInt (a b : Int) : Int := if a ≤ b then b else a
def minInt (a b : Int) : Int := if a ≤ b then a else b

/- Measurement and limits (R406-R409). -/

/-- Both coolant-sensor bus functions are assigned (R73, R408). -/
def sensorBus (s : State) : Bool := pinHas s 4 && pinHas s 5
/-- T_in in 0.1 °C (R408). A bus that has given no reading yet leaves INLET_SET. -/
def inletTemp (s : State) : Int :=
  let h := s.hearth
  let set := sext 16 h.inletSet
  if !sensorBus s || h.inlet == 0 then set
  else if h.missed ≥ 3 then maxInt (sext 16 h.inlet) set
  else sext 16 h.inlet
/-- Rated power in mW at an inlet temperature in 0.1 °C (R408). -/
def ratedPower (t : Int) : Int := if t ≤ 500 then 1800000 else maxInt 600000 (1800000 - 4375 * (t - 500))
/-- The junction cap after a tick (R409). -/
def junctionCap (j : Int) (rated : Int) (tj : Nat) : Int :=
  minInt rated (if 103 ≤ tj then maxInt 0 (j - 10000) else if tj < 100 then j + 1000 else j)

/- Ballast (R412). -/

/-- Power of a unit of a kind, and the step, in mW. -/
def ballastUnit : Nat → Nat × Nat
  | 1 => (6000, 6000)
  | 2 => (8000, 8000)
  | 3 => (1000, 1000)
  | 4 => (20000, 20000)
  | _ => (26000, 3250)
/-- A household in timed mode has an STU or larder command in progress. -/
def timedStream (s : State) : Bool :=
  (allSites.any fun i => allHh.any fun h => modeOf s h == 2 && ((setAt s i h).queues.get 4).ents.any fun e => e.phase == .running) ||
  (allRegions.any fun r => (regAt s r).larder.ents.any fun e => e.phase == .running && modeOf s e.hh == 2)
/-- The site works: powered, not held in reset, not fused off, retired or failed. -/
def siteWorks (s : State) (i : Site) : Bool :=
  domainIsOn s i.val && !(siteAt s i).inReset && !fusedSite s i && !(siteAt s i).retired && !(siteAt s i).dead
/-- Units of a kind that may run at this tick, in ascending order (R412). -/
def eligibleUnits (s : State) (kind : Nat) : List Nat := match kind with
  | 1 => if timedStream s then [] else List.range 8
  | 2 => (allRegions.filter fun r => larderUp s r && !(regAt s r).ld.ann.isEmpty &&
      ((List.finRange 2).any fun b => landingOwner s r b == 1)).map Fin.val
  | 3 => (allSites.filter fun i => siteWorks s i && match (siteAt s i).served with
      | some h => modeOf s h != 2
      | none => false).map Fin.val
  | 4 => (allSites.filter fun i => siteWorks s i && (siteAt s i).served.isNone && !(siteAt s i).pn.zeroBusy).map Fin.val
  | _ => (allSites.filter fun i => siteWorks s i && !(siteAt s i).testing && match (siteAt s i).served with
      | some h => modeOf s h != 2 && ((setAt s i h).queues.get 0).ents.isEmpty
      | none => match globalOf s i with
        | some k => decide (k.val < 32)
        | none => false).map Fin.val
/-- Kinds enabled and their units. -/
def ballastKinds (s : State) : List (Nat × List Nat) :=
  ([1, 2, 3, 4, 5].filter fun k => s.hearth.enable.testBit (k - 1)).map fun k => (k, eligibleUnits s k)
/-- ballast_capacity(), in mW. -/
def ballastCapacity (s : State) : Nat := ((ballastKinds s).map fun k => (ballastUnit k.1).1 * k.2.length).sum
/-- Units of one kind for `left` mW, rounded up to the step. -/
def placeUnits (kind : Nat) : List Nat → Nat → List BallastUnit
  | [], _ => []
  | u :: us, left =>
    let (w, st) := ballastUnit kind
    if left = 0 then [] else ⟨kind, u, cdiv (min left w) st⟩ :: placeUnits kind us (left - w)
/-- apply_ballast: kind after kind. -/
def placeKinds : List (Nat × List Nat) → Nat → List BallastUnit
  | [], _ => []
  | k :: ks, left =>
    let give := min left ((ballastUnit k.1).1 * k.2.length)
    placeUnits k.1 k.2 give ++ placeKinds ks (left - give)
/-- Self-tests start on their sites, and end with the pantry zeroed where they are withdrawn. -/
def applyTests (s : State) (on : List BallastUnit) : State :=
  allSites.foldl (fun t i =>
    let want := on.any fun b => b.kind == 4 && b.unit == i.val
    if want then upSite t i fun c => { c with testing := true }
    else if (siteAt t i).testing then zeroBegin (upSite t i fun c => { c with testing := false }) i false
    else t) s

/- The tick (R410). -/

/-- r, u and theta after a tick, from the power P and the cap in mW. -/
def controlLaw (h : HearthSt) (p cap : Int) (capacity : Int) (first : Bool) : HearthSt :=
  let r0 := if first then p else h.r
  let st : Int := 10 * h.slew
  let hi := minInt ((h.setpoint : Int) * (1000 + h.band)) cap
  let lo := minInt ((h.setpoint : Int) * (1000 - (h.band : Int))) hi
  let r := if p > cap then cap else clampInt (r0 - st) (r0 + st) (clampInt lo hi p)
  let e := r - p
  if e > 0 then
    if h.theta > 0 then { h with r := r, theta := h.theta - 1 } else { h with r := r, u := minInt (h.u + e) capacity }
  else if e < 0 then
    if h.u > 0 then { h with r := r, u := maxInt 0 (h.u + e) }
    else { h with r := r, theta := min 56 (h.theta + 1) }
  else { h with r := r }
/-- Before a deed is in force the reference is P, up to the cap (log 25). -/
def undeededLaw (h : HearthSt) (p cap : Int) : HearthSt :=
  if p > cap then { h with r := cap, theta := min 56 (h.theta + 1) } else { h with r := p, theta := h.theta - 1 }

/-- Causes for which a unit may have waited in a tick (R416): inside its commands, if it holds one or has completed one, and
the waits its household's state shows. Waits of the power ramp and of retries are counted where they occur. -/
def tickCauses (s : State) (inUse held : Bool) (h : Option Hh) (windows : Bool) : List (Fin 10) :=
  (if held then [scFault] else []) ++
  if inUse then [scSeal, scPantry, scOperand, scQueue, scBusy] ++ (if 0 < s.hearth.theta then [scThrottle] else []) ++
    (if h.any fun h => (hhAt s h).tx.opened || (hhAt s h).tx.committing then [scTx] else []) ++ (if windows then [scKey] else [])
  else []
/-- A word of the unit is held by a ring fault, or work waits at the entry of its queue (R139, R340, R367). -/
def tickHeld (s : State) (q : QueueId) (es : List Entry) : Bool :=
  es.any fun e => (e.worded && (hhAt s e.hh).cmd.cqFault) || (e.phase == .queued && (entryHeld s q || transferHeld s q e))
/-- Counts of a unit: each of the causes moves on by a free amount of at most the 16,000 ACLK of the tick. -/
def tickCounts (n o : Nat) (cs : List (Fin 10)) (v : Vector Nat 10) : Vector Nat 10 :=
  cs.foldl (fun v c => addStall v c ((Config.freeWordAt n (10 * o + c.val)).toNat % 16001)) v
/-- Causes of each unit of a cluster: the five queues, the XSQ and the PSQ; the total counts what any of them counts (R417). -/
def siteCauses (s : State) (k : Gl) (i : Site) (e : Fin 8) : List (Fin 10) := match (siteAt s i).served with
  | none => []
  | some h =>
    let t := setAt s i h
    let c := siteAt s i
    let unit (e : Fin 8) : List (Fin 10) := match fin? 5 e.val with
      | some en =>
        let es := (t.queues.get en).ents
        tickCauses s (!es.isEmpty || c.worked.get e) (tickHeld s (.cluster k en) es) (some h)
          (decide (en.val < 4) && t.wins.toList.any winOpen)
      | none =>
        if e.val = 5 then tickCauses s (t.xsq.run || c.worked.get e) (t.xsq.suspended || (c.dead && t.xsq.run)) (some h) false
        else tickCauses s (t.psq.busy || c.worked.get e) (c.dead && t.psq.busy) (some h) false
    if e.val = 7 then ((List.finRange 8).filter fun x => x.val < 7).flatMap unit |>.eraseDups else unit e
/-- Waits of a tick (R416, log 7). -/
def stallTick (s : State) : State :=
  let n := s.fresh
  let s1 := (List.finRange 34).foldl (fun t k => match siteOf s k with
    | none => t
    | some i => upSite t i fun c => { c with
        stallLive := Vector.ofFn fun e => tickCounts n (8 * i.val + e.val) (siteCauses s k i e) (c.stallLive.get e)
        worked := .replicate 8 false }) s
  let region (r : Rg) (q : QueueId) (x : RQueue) : List (Fin 10) :=
    tickCauses s (!x.ents.isEmpty || x.worked) (tickHeld s q x.ents) (x.ents.head?.map fun e => e.hh) false
  tickFresh (allRegions.foldl (fun t r => upReg t r fun g => { g with
    ldStall := tickCounts n (300 + r.val) (region r (.larder r) g.larder) g.ldStall
    mvStall := tickCounts n (310 + r.val) (region r (.mve r) g.mve) g.mvStall
    larder := { g.larder with worked := false }, mve := { g.mve with worked := false } }) s1)
/-- A quantum runs for 10 µs; they count as idle when its household has no pending work (R329). -/
def poolTick (s : State) (i : Fin 8) (p : PoolSt) : PoolSt := match p.stage, p.running with
  | .none, some h => { p with left := p.left - 1, idle := if pendingWork s i h then 0 else p.idle + 1 }
  | _, _ => p
/-- A trained stack reports its temperature, which nothing the block receives fixes (R304, log 15). -/
def stackTick (s : State) (k : StackId) (t : StackSt) : StackSt :=
  if t.trained then { t with temp := (Config.freeWordAt s.fresh (320 + k.val)).toNat % 256 } else t
/-- 10 µs pass: the time, the quanta of the pools, the stall counts. -/
def timeTick (s : State) : State :=
  stallTick { s with
    us := s.us + 10
    cellar := { s.cellar with stackSts := .ofFn fun k => stackTick s k (s.cellar.stackSts.get k) }
    pools := .ofFn fun i => poolTick s i (s.pools.get i) }

/-- HEARTH_TICK; a die fault that is due is taken by then (R338). -/
def hearthTickOp (s : State) (m : HearthReading) : State :=
  let s := timeTick s
  let rated := ratedPower (inletTemp s)
  let j := junctionCap s.hearth.jcap rated m.tj
  let cap : Int := if s.deed.isSome then minInt rated j else 900000
  let p : Int := m.p
  let h := s.hearth
  let h := if s.deed.isSome then controlLaw h p cap (ballastCapacity s) (!h.started) else undeededLaw h p cap
  let above := decide (p > cap)
  let was := s.hearth
  let on := placeKinds (ballastKinds s) h.u.toNat
  let s := { s with hearth := { h with
    jcap := j, started := s.deed.isSome, capped := above, running := on, marking := false, energy := h.energy + m.p
    pW := m.p / 1000 % 65536, refW := (h.r / 1000).toNat % 65536, capW := (cap / 1000).toNat % 65536, tj := min m.tj 255 } }
  let s := applyTests s on
  let s := if above && !was.capped then evHe s fun h => { h with evCap := true } else s
  if j < rated && !was.evJguard then evHe s fun h => { h with evJguard := true } else s
def execHearthTick (m : HearthReading) (s : State) : Out := .next (if alive s then escalate (hearthTickOp s m) else s)

/- Coolant (R408, R414, R453). -/

/-- A raw sensor value, in units of 1/128 °C, in 0.1 °C as 16 bits. -/
def tenths (raw : Nat) : Nat := wrapTo 16 (sext 16 raw * 10 / 128)
/-- SETPOINT after a sample in outlet mode. -/
def outletSetpoint (h : HearthSt) (period : Nat) : Nat :=
  let move : Int := 2 * (sext 16 h.outletDc - sext 16 h.outlet)
  let lim : Int := h.slew * period / 1000
  (maxInt 600 (minInt h.capW ((h.setpoint : Int) + clampInt (-lim) lim move))).toNat
/-- COOLANT_SAMPLE: under the deed's timer with FUNC 0x02; a missing acknowledge is a failed sample. -/
def coolantOp (s : State) (inlet outlet : Option Nat) : State :=
  match s.deed.bind fun d => d.timers.find? fun t => t.func == 2 with
  | none => s
  | some t =>
    if !sensorBus s then s
    else match inlet, outlet with
      | some a, some b =>
        let s := upHe s fun h => { h with missed := 0, inlet := tenths a, outlet := tenths b }
        if s.hearth.mode then upHe s fun h => { h with setpoint := outletSetpoint h t.period } else s
      | _, _ =>
        if s.hearth.missed = 2 then evHe s fun h => { h with missed := 3, evSensor := true }
        else upHe s fun h => { h with missed := min 3 (h.missed + 1) }
def execCoolantSample (inlet outlet : Option Nat) (s : State) : Out := .next (coolantOp s inlet outlet)

/- Power domains (R404, R405). -/

/-- A cluster domain of a physical site may be off (R86): a fused-off or retired site, or one whose global number is
granted to no household. -/
def siteMayBeOff (s : State) (i : Site) : Bool :=
  fusedSite s i || (siteAt s i).retired || match globalOf s i with
    | some k => decide (k.val < 32) && !(match s.deed with
      | some d => (grantedMask d).testBit k.val
      | none => false)
    | none => false
/-- Region of a site's global number, when it serves one. -/
def siteRegion (s : State) (i : Site) : Option Rg := match globalOf s i with
  | some k => if k.val < 32 then some (regionOf k) else none
  | none => none
/-- A request is refused (R405). -/
def pdRefused (s : State) (d : Nat) (on : Bool) : Bool :=
  let granted := match s.deed with
    | some x => grantedMask x
    | none => 0
  let ports := match s.deed with
    | some x => x.portEnable
    | none => 0
  match fin? 34 d, fin? 8 (d - 34), fin? 8 (d - 42) with
  | some i, _, _ => fusedSite s i || (if on then match siteRegion s i with
      | some r => !domainIsOn s (34 + r.val)
      | none => false
    else !siteMayBeOff s i)
  | none, some r, _ =>
    !on && (!mayBeOff s granted ports d || domainIsOn s (42 + r.val) || (List.finRange 4).any fun c =>
      match siteOf s (clusterOf r c) with
      | some i => domainIsOn s i.val
      | none => false)
  | none, none, some r => if on then !domainIsOn s (34 + r.val) else !mayBeOff s granted ports d
  | none, none, none => !on && !mayBeOff s granted ports d
/-- A write of HE_PDREQ; one made while a request is outstanding is ignored. -/
def pdReqOp (s : State) (v : Nat) : State :=
  if s.hearth.pdBusy then s
  else
    let d := v % 64
    let on := v.testBit 8
    let s := upHe s fun h => { h with pdDomain := d, pdOn := on }
    if !v.testBit 31 then s
    else if pdRefused s d on then evHe s fun h => { h with evPdRefused := true }
    else upHe s fun h => { h with pdBusy := true }
def execHePdreqGo (a : Agent) (v : Nat) (s : State) : Out := .next (pfRow s a fun s => pdReqOp s (setBit v 31))
/-- POWER_DOMAIN_SWITCH: the accepted request completes. -/
def pdSwitchOp (s : State) : State :=
  if !s.hearth.pdBusy then s
  else settle (switchDomain (upHe s fun h => { h with pdBusy := false }) s.hearth.pdDomain s.hearth.pdOn)
def execPowerDomainSwitch (s : State) : Out := .next (pdSwitchOp s)

/- The audit (R413). -/

/-- AUDIT_READ: one listed block of a cluster on which the audit runs is read again, which of them is open; `ok`: the
bits read are those stored. -/
def auditOp (s : State) (i : Site) (ok : Bool) : State :=
  let c := siteAt s i
  if !(s.hearth.running.any fun u => u.kind == 3 && u.unit == i.val) then s
  else match c.recent[Config.freeNat s.fresh % c.recent.length]? with
    | none => s
    | some (a, n) =>
      let s := tickFresh s
      if ok && sealOk (viewOf c) a (spRead 0 c.pantry a n) then s
      else raise (evHe s fun h => { h with
        evAudit := true, mismatches := satInc 16 h.mismatches, auSite := i.val, auSlot := a / 128 }) 0
def execAuditRead (i : Site) (ok : Bool) (s : State) : Out := .next (auditOp s i ok)

/- Epochs (R245, R415-R417). -/

/-- Every counter copies its value and restarts; announcements lapse at their second marker. -/
def latchAll (s : State) : State :=
  let z : Vector Nat 10 := .replicate 10 0
  { s with
    sites := s.sites.map fun (c : SiteSt) => { c with stallLatched := c.stallLive, stallLive := .replicate 8 z }
    regions := s.regions.map fun (g : RegionSt) => { g with
      ldLatched := g.ldStall, ldStall := z, mvLatched := g.mvStall, mvStall := z
      ld := { g.ld with ann := (g.ld.ann.filter fun a => decide (a.marks = 0)).map fun a => { a with marks := 1 } } } }
/-- A marker. One made within 2 µs of another is ignored and sets EPOCH_OVERRUN; whether a second marker between two
ticks falls within them is open (log 25). -/
def marker (s : State) : State :=
  if s.hearth.marking && Config.freeBool s.fresh 0 then evHe (tickFresh s) fun h => { h with evOverrun := true }
  else
    let s := latchAll (tickFresh s)
    raise (upHe s fun h => { h with epoch := wrapInc 32 h.epoch, marking := true }) 7
def execEpochMark (a : Agent) (s : State) : Out := .next (pfRow s a marker)
def execEpochPeriod (s : State) : Out := .next (if s.hearth.periodMs = 0 then s else marker s)

end Sys2Proof.Machine
end

