-- ==== Sys2Proof/Machine/Doorbells.lean ====
section
/-! DEFINITION. Doorbells: household timers, raises, delivery and completion (R77, R420-R428). -/

namespace Sys2Proof.Machine

/-- HOUSEHOLD_TICK: a lease timer with FUNC 0x10 expires (R77, R420). -/
def householdTickOp (s : State) (t : Nat) : State :=
  match allHh.find? fun h => match (hhAt s h).lease with
    | some l => l.timers.any fun x => x.timer == t && x.func == 0x10
    | none => false with
  | some h => raise s (hhSrc h 4)
  | none => s
def execHouseholdTick (t : Fin 16) (s : State) : Out := .next (householdTickOp s t.val)

/-- A write of DB_RAISE (R421, R428). -/
def dbRaiseOp (s : State) (a : Agent) (src : Nat) : State := access s a fun s => match a with
  | .vf h => if hhSrc h 0 ≤ src % 1024 ∧ src % 1024 ≤ hhSrc h 47 then raise s (src % 1024) else discard s a
  | .cc _ => discard s a
  | _ => raise s (src % 1024)
def execDbRaise (a : Agent) (src : Nat) (s : State) : Out := .next (dbRaiseOp s a src)

/- Delivery (R422-R425). -/

/-- The function that owns a porch vector and its entry there (R398): 0 the physical function, h + 1 household h. -/
def vectorOwner (s : State) (v : Nat) : Option (Fin 17 × Nat) := match s.deed with
  | none => none
  | some d =>
    if inVec d.pfVecBase d.pfVecCount v then some (0, v - d.pfVecBase)
    else (allHh.find? fun h => (d.grants.get h).enabled && inVec (d.grants.get h).vecBase (d.grants.get h).vecCount v).map
      fun h => (⟨h.val + 1, by omega⟩, v - (d.grants.get h).vecBase)
/-- The vector's message may leave: its function has MSI-X enabled and nothing masks it (R423). -/
def vectorOpen (s : State) (v : Nat) : Bool := match vectorOwner s v with
  | none => false
  | some (f, n) => s.porch.up && s.porch.msixOn.get f && !(s.porch.funcMask.get f) && !(s.porch.vecMask.contains (64 * f.val + n)) &&
      (f == 0 || match fin? 16 (f.val - 1) with
        | some h => vfLive s h
        | none => false)
/-- A target is deliverable for a source with this mask (R423). -/
def deliverable (s : State) (mask : Nat) (t : Fin 74) : Bool :=
  let g := s.db.tgts.get t
  mask.testBit t.val && g.enable && !g.busy && (decide (t.val < 10) || vectorOpen s (t.val - 10))
/-- The next target after LAST, in ascending order and wrapping (R424). -/
def nextTarget (s : State) (src : Nat) : Option (Fin 74) :=
  let mask := spGet 0 s.db.mask src
  let last := spGet 73 s.db.last src
  let ts := List.finRange 74
  if mask = 0 then none
  else ((ts.filter fun t => decide (last < t.val)) ++ ts.filter fun t => decide (t.val ≤ last)).find? (deliverable s mask)
/-- The source delivered in this SCLK cycle (R424). -/
def nextSource (s : State) : Option (Nat × Fin 74) :=
  (List.range 1024).findSome? fun src => if dbPending s src then (nextTarget s src).map fun t => (src, t) else none
/-- DOORBELL_DELIVERY: the source becomes active at its target (R424, R425). -/
def deliveryOp (s : State) : State := match nextSource s with
  | none => s
  | some (src, t) =>
    let d := dbSetPend s.db src false
    let s := { s with db := { d with
      last := spSet 73 d.last src t.val
      tgts := vmod d.tgts t fun g => { g with busy := true, active := src }
      delivered := wrapInc 32 d.delivered } }
    match fin? 8 t.val with
    | some r => upCore s r fun c => { c with irq := true }
    | none => if t.val < 10 then s else send s (.msix (t.val - 10))
def execDoorbellDelivery (s : State) : Out := .next (deliveryOp s)

/- Completion (R426, R428). -/

/-- A target that the agent reaches. -/
def ownsTarget (s : State) (a : Agent) (t : Nat) : Bool := match a with
  | .vf h => decide (10 ≤ t) && match vectorOwner s (t - 10) with
    | some (f, _) => f.val == h.val + 1
    | none => false
  | .cc r => t == r.val
  | _ => true
/-- DB_EOI: the activity ends, or the completion is counted as spurious. -/
def eoiOp (s : State) (t src : Nat) : State := match fin? 74 t with
  | some t =>
    let g := s.db.tgts.get t
    if g.busy && g.active == src then { s with db := { s.db with tgts := vmod s.db.tgts t fun g => { g with busy := false } } }
    else { s with db := { s.db with spurious := satInc 16 s.db.spurious } }
  | none => { s with db := { s.db with spurious := satInc 16 s.db.spurious } }
def dbEoiOp (s : State) (a : Agent) (t src : Nat) : State := access s a fun s =>
  if ownsTarget s a (t % 128) then eoiOp s (t % 128) (src % 1024) else discard s a
def execDbEoi (a : Agent) (t src : Nat) (s : State) : Out := .next (dbEoiOp s a t src)

end Sys2Proof.Machine
end

