-- ==== Sys2Proof/Machine/Strongbox.lean ====
section
/-! DEFINITION. The Strongbox: requests, operations, completion, faults, aborts and pre-emption (R429-R441). -/

namespace Sys2Proof.Machine

def upSbx (s : State) (f : SbSt → SbSt) : State := { s with sb := f s.sb }
/-- Code of SB_STAT.OWNER. -/
def ownerCode : SbOwner → Nat
  | .hh h => h.val
  | .pf => 0x10
  | .house => 0x11

/- The command block (R430-R432). -/

def blkOp (b : List Byte) : Nat := leAt b 0 1
def blkReport (b : List Byte) : Bool := (leAt b 1 1).testBit 7
def blkNotify (b : List Byte) : Bool := (leAt b 1 1).testBit 6
def blkCurve (b : List Byte) : Nat := leAt b 2 1
def blkBits (b : List Byte) : Nat := leAt b 4 2
def blkIn (b : List Byte) : Nat := leAt b 8 8
def blkInLen (b : List Byte) : Nat := leAt b 0x10 4
def blkOutLen (b : List Byte) : Nat := leAt b 0x14 4
def blkOut (b : List Byte) : Nat := leAt b 0x18 8

/-- Curve of a slot (R434). -/
def slotCurve (s : State) (n : Nat) : Option Curve := match n with
  | 0 => some p256
  | 1 => some p384
  | 2 => some p521
  | _ => match fin? 5 (n - 3) with
    | some i => s.sb.curves.get i
    | none => none
/-- SB_CURVE.VALID. -/
def slotMask (s : State) : Nat := maskOf 8 fun n => (slotCurve s n).isSome
/-- Operations on the curve of the slot named: SMUL, ECDH, SIGN, VERIFY. -/
def curveOp (op : Nat) : Bool := decide (1 ≤ op) && decide (op ≤ 4)

/-- IN_LEN and OUT_LEN of an operation; LOADCURVE takes its from the first bytes of its input (log 26). -/
def blkLens (s : State) (b : List Byte) : Option (Nat × Nat) :=
  let n := blkInLen b
  match blkOp b, slotCurve s (blkCurve b) with
  | 1, some c => some (c.ln + 2 * c.lp, 2 * c.lp)
  | 2, some c => some (c.ln + 2 * c.lp, c.lp)
  | 3, some c => some (3 * c.ln, 2 * c.ln)
  | 4, some c => some (3 * c.ln + 2 * c.lp, 8)
  | 5, _ => some (3 * (blkBits b / 8), blkBits b / 8)
  | 6, _ => if n ≤ 2 ^ 30 then some (n, 48) else none
  | 7, _ => some (n, 0)
  | 8, _ => some (48, 288)
  | _, _ => none
/-- The checks before the input (R431, R434): a status, none when the block passes. -/
def blkCheck (s : State) (o : SbOwner) (b : List Byte) : Option Nat :=
  let op := blkOp b
  let zero (a n : Nat) : Bool := leAt b a n == 0
  let hh := match o with
    | .hh _ => true
    | _ => false
  let fields := decide (1 ≤ op) && decide (op ≤ 8) && leAt b 1 1 % 64 == 0 && zero 3 1 && zero 6 2 && zero 0x20 32 &&
    (if curveOp op || op == 7 then decide (blkCurve b ≤ 7) else zero 2 1) &&
    (if op == 5 then blkBits b % 64 == 0 && decide (64 ≤ blkBits b) && decide (blkBits b ≤ 4096) else zero 4 2) &&
    blkIn b % 64 == 0 && blkOut b % 64 == 0 && !(op == 7 && (hh || decide (blkCurve b ≤ 2))) &&
    (hh || (decide (blkIn b + blkInLen b ≤ cellarSize) && decide (blkOut b + blkOutLen b ≤ cellarSize)))
  if !fields then some stRange
  else if curveOp op && (slotCurve s (blkCurve b)).isNone then some stPkParam
  else match blkLens s b with
    | some (i, n) => if i = blkInLen b ∧ n = blkOutLen b then none else some stRange
    | none => some stRange

/- Run times (R432), in SCLK. -/

def timeM (w : Nat) : Nat := 4 * cdiv w 64 * cdiv w 64 + 64
def timeI (w : Nat) : Nat := 2 * w * timeM w
def signTime (w nb : Nat) : Nat := 8 * nb * timeM w + timeI w + timeI nb + 4 * timeM nb
/-- `w` and `nb` of the slot, or of the curve being loaded. -/
def opTime (op w nb bits len : Nat) : Nat := match op with
  | 1 => 8 * nb * timeM w + timeI w
  | 2 => 8 * nb * timeM w + timeI w + 4 * timeM w
  | 3 => signTime w nb
  | 4 => 16 * nb * timeM w + timeI nb + timeI w + 8 * timeM w
  | 5 => 2 * bits * timeM bits + 2 * timeM bits
  | 6 => 256 * cdiv (len + 17) 128 + 320
  | 7 => (12 * w + 8 * nb) * timeM w
  | _ => signTime 384 384 + 2048
def runTime (s : State) (x : SbOp) : Nat :=
  let op := blkOp x.block
  let (w, nb) := if op = 7 then (beNat (slice x.input 0 2), beNat (slice x.input 2 2)) else match slotCurve s (blkCurve x.block) with
    | some c => (c.w, c.nb)
    | none => (0, 0)
  opTime op w nb (blkBits x.block) (blkInLen x.block)

/- Completion (R439). -/

/-- A status word of a household's operation. -/
def sbWord (s : State) (h : Hh) (st off : Nat) (susp : Bool) : State :=
  postWord s h (statusWord st 0xFC 0xFF (wordFlags h susp 0) (s.sb.counts.get h) off 0xFFFFFFFF) none
/-- The operation completes: flag and source 2, or the household's word and doorbells; a status of R321 aborts its
group. -/
def sbEnd (s : State) (x : SbOp) (st off : Nat) : State :=
  let s := upSbx s fun b => { b with cur := none, status := st }
  match x.owner with
  | .hh h =>
    let s := upSb s h fun q => { q with pending := false, status := st }
    let s := if st != stOk || blkReport x.block then sbWord s h st off false else s
    let s := if blkNotify x.block then raise s (hhSrc h 1) else s
    let s := if st != stOk then errBell s h else s
    settle (if abortsGroup st then txAbort s h ⟨st, 0xFC, 0xFF, s.sb.counts.get h, 0xFFFFFFFF⟩ true else s)
  | _ => settle (raise (upSbx s fun b => { b with evDone := true }) 2)
/-- The operation is suspended on a fault (R436). -/
def sbSuspend (s : State) (x : SbOp) (h : Hh) (stage : SbStage) (st va off : Nat) : State :=
  let s := recordFault (upSbx s fun b => { b with cur := some { x with stage := stage } }) h 7 st va
  errBell (sbWord s h st off true) h

/- Requests (R429, R440, R441). -/

/-- The requester already has a request. -/
def sbHas (s : State) (o : SbOwner) : Bool := (match s.sb.cur with
    | some x => x.owner == o
    | none => false) || match o with
  | .house => s.sb.house.isSome
  | .pf => s.sb.pf.isSome
  | .hh h => (hhAt s h).sb.pending
/-- Requester of SB_CTRL. -/
def sbOwnerOf : Agent → SbOwner
  | .pf => .pf
  | _ => .house
/-- GO of SB_CTRL. -/
def sbGoOp (s : State) (o : SbOwner) : State :=
  if sbHas s o then upSbx s fun b => { b with overrun := true }
  else upSbx s fun b => if o = .pf then { b with pf := some b.cmdAddr } else { b with house := some b.cmdAddr }
def execSbGo (a : Agent) (s : State) : Out := .next (pfRow s a fun s => sbGoOp s (sbOwnerOf a))
/-- GO of SB_HREQ_h with VA. -/
def sbHreqOp (s : State) (h : Hh) (va : Nat) : State :=
  let va := va / 64 * 64 % 2 ^ 48
  let s := upSb s h fun q => { q with va := va }
  if sbHas s (.hh h) then upSb s h fun q => { q with overrun := true }
  else
    let s := upSb s h fun q => { q with pending := true, block := va, late := (hhAt s h).tx.committing }
    upSbx s fun b => { b with counts := vmod b.counts h (wrapInc 32) }
def execSbHreqGo (a : Agent) (h : Hh) (va : Nat) (s : State) : Out :=
  .next (hhRow s a h fun s => mirror (sbHreqOp s h va) (.reg (0xC000 + 0x40 * h.val) 8 (va / 64 * 64 % 2 ^ 48)))

/- Fetching (R430, R431, R436). -/

/-- Units of the input that follow those fetched. -/
def fetchUnits : Nat → State → Hh → Nat → Nat → List Byte → List Byte × Option MErr
  | 0, _, _, _, _, got => (got, none)
  | f + 1, s, h, va, len, got =>
    if len ≤ got.length then (got, none)
    else match hRead s h true .read ((va + got.length) % 2 ^ 64) (min 64 (len - got.length)) with
      | .ok bs => fetchUnits f s h va len (got ++ bs)
      | .error e => (got, some e)
/-- A request ends at a failing read that cannot be resumed (R294). -/
def sbReadUe (s : State) (x : SbOp) (off : Nat) : State := sbEnd s x stCellar off
/-- The length of a curve's parameters agrees with the w and nb that it gives (R432). -/
def curveLenOk (b input : List Byte) : Bool :=
  blkOp b != 7 || (decide (8 ≤ input.length) &&
    input.length == 8 + 5 * cdiv (beNat (slice input 0 2)) 8 + cdiv (beNat (slice input 2 2)) 8)
/-- The input is fetched from where it stands; a slot under load becomes invalid at the start of the run (R434). -/
def sbFetch (s : State) (x : SbOp) : State :=
  let len := blkInLen x.block
  let run (s : State) (got : List Byte) : State :=
    let x := { x with input := got, stage := .fetched }
    if !curveLenOk x.block got then sbEnd s x stRange 0
    else
      let s := upSbx s fun b => { b with cur := some x, mem := spWrite 0 [] 0 (got.take 16384) }
      if blkOp x.block = 7 then match fin? 5 (blkCurve x.block - 3) with
        | some i => upSbx s fun b => { b with curves := b.curves.set i.val none i.isLt }
        | none => s
      else s
  match x.owner with
  | .hh h => match fetchUnits (len / 64 + 1) s h (blkIn x.block) len x.input with
    | (got, none) => run (cachePages s h (tlbUnit 7 0) (pagesOf (blkIn x.block) len)) got
    | (got, some (.ue a)) => sbReadUe (noteUeVa s h true .read a) x (got.length + (a - blkIn x.block - got.length))
    | (got, some (.txCap _)) => sbReadUe s x got.length
    | (got, some (.fault st va)) =>
      let s := upSbx s fun b => { b with mem := spWrite 0 [] 0 (got.take 16384) }
      sbSuspend s { x with input := got } h .inFault st va got.length
  | _ => match firstPoison s (blkIn x.block) len with
    | some o => sbReadUe (noteUe s (blkIn x.block + o)) x o
    | none => run s (cRead s (blkIn x.block) len)
/-- The block is fetched and checked, then the input follows. -/
def sbBlock (s : State) (o : SbOwner) (a : Nat) : State :=
  let x (b : List Byte) : SbOp := { owner := o, block := b, stage := .fetched, input := [], result := [], status := 0 }
  let go (s : State) (b : List Byte) : State :=
    let s := upSbx s fun q => { q with op := blkOp b, elapsed := 0 }
    match blkCheck s o b with
    | some st => sbEnd s (x b) st 0
    | none => sbFetch s (x b)
  match o with
  | .hh h => match hRead s h true .read a 64 with
    | .ok b => go (cachePages s h (tlbUnit 7 0) [a]) b
    | .error (.fault st va) => sbSuspend s (x []) h .inFault st va 0
    | .error (.ue va) => sbReadUe (noteUeVa s h true .read va) (x []) 0
    | .error (.txCap _) => sbReadUe s (x []) 0
  | _ => match firstPoison s a 64 with
    | some n => sbReadUe (noteUe s (a + n)) (x []) 0
    | none => go s (cRead s a 64)

/-- The next waiting request (R430); one made after a COMMIT waits for it (R318). -/
def sbNext (s : State) : Option (SbOwner × Nat) := match s.sb.house, s.sb.pf with
  | some a, _ => some (.house, a)
  | none, some a => some (.pf, a)
  | none, none =>
    let after := (List.range 16).map fun i => hhOf (s.sb.lastHh + 1 + i)
    match after.find? fun h => (hhAt s h).sb.pending && !(hhAt s h).sb.late && s.pw.role != .deposed with
    | some h => some (.hh h, (hhAt s h).sb.block)
    | none => none
/-- STRONGBOX_DISPATCH: none starts while the house waits for the Strongbox, which it takes first (R83, R430), or while
the Strongbox waits for its reset (R367). -/
def sbDispatchOp (s : State) : State :=
  if s.sb.cur.isSome || houseWaits s || quiescing s 0x50 then s
  else match sbNext s with
    | none => s
    | some (o, a) =>
      let s := if s.sb.owner = ownerCode o then s else upSbx s fun b => { b with mem := [], evWiped := true }
      let s := upSbx s fun b => { b with
        owner := ownerCode o
        house := if o = .house then none else b.house
        pf := if o = .pf then none else b.pf
        lastHh := match o with
          | .hh h => h.val
          | _ => b.lastHh }
      sbBlock s o a
def execStrongboxDispatch (s : State) : Out := .next (sbDispatchOp s)

/- Operations (R432-R435). -/

/-- Outcome of an operation: its output, or the status of the first check that failed (R433). -/
abbrev SbOut := Except Nat (List Byte)

def scalarBad (c : Curve) (v : Nat) : Bool := v == 0 || decide (c.n ≤ v)
/-- A point as x and y, or zeros refused (R433 order 3). -/
def pointOut (c : Curve) : Pt → SbOut
  | none => .error stPkRange
  | some (x, y) => .ok (beBytes c.lp x ++ beBytes c.lp y)
/-- Scalar d and point P of SMUL and ECDH, checked. -/
def scalarPoint (c : Curve) (b : List Byte) : Except Nat (Nat × Nat × Nat) :=
  let d := beNat (slice b 0 c.ln)
  let x := beNat (slice b c.ln c.lp)
  let y := beNat (slice b (c.ln + c.lp) c.lp)
  if scalarBad c d ∨ c.p ≤ x ∨ c.p ≤ y then .error stPkRange
  else if !onCurve c x y then .error stPkCurve
  else .ok (d, x, y)
def smulOf (c : Curve) (b : List Byte) : SbOut := match scalarPoint c b with
  | .error e => .error e
  | .ok (d, x, y) => pointOut c (ptMul c d (some (x, y)))
def ecdhOf (c : Curve) (b : List Byte) : SbOut := match scalarPoint c b with
  | .error e => .error e
  | .ok (d, x, y) => match ptMul c (d * c.h) (some (x, y)) with
    | none => .error stPkRange
    | some (x, _) => .ok (beBytes c.lp x)
def signOf (c : Curve) (b : List Byte) : SbOut :=
  let e := beNat (slice b 0 c.ln)
  let d := beNat (slice b c.ln c.ln)
  let k := beNat (slice b (2 * c.ln) c.ln)
  if scalarBad c d ∨ scalarBad c k then .error stPkRange
  else match ecdsaSign c e d k with
    | none => .error stPkRange
    | some (r, t) => .ok (beBytes c.ln r ++ beBytes c.ln t)
def verifyOf (c : Curve) (b : List Byte) : SbOut :=
  let e := beNat (slice b 0 c.ln)
  let x := beNat (slice b c.ln c.lp)
  let y := beNat (slice b (c.ln + c.lp) c.lp)
  let r := beNat (slice b (c.ln + 2 * c.lp) c.ln)
  let t := beNat (slice b (2 * c.ln + 2 * c.lp) c.ln)
  if scalarBad c r ∨ scalarBad c t ∨ c.p ≤ x ∨ c.p ≤ y then .error stPkRange
  else if !onCurve c x y then .error stPkCurve
  else .ok (beBytes 8 (b2n (ecdsaVerify c e (x, y) r t)))
def modexpOf (w : Nat) (b : List Byte) : SbOut :=
  let l := w / 8
  let m := beNat (slice b 0 l)
  let x := beNat (slice b l l)
  if m % 2 = 0 ∨ m < 3 ∨ m ≤ x then .error stPkRange else .ok (beBytes l (powMod x (beNat (slice b (2 * l) l)) m))
/-- Parameters of LOADCURVE. -/
def curveOf (b : List Byte) : Curve :=
  let w := beNat (slice b 0 2)
  let nb := beNat (slice b 2 2)
  let lp := cdiv w 8
  let f (i : Nat) : Nat := beNat (slice b (8 + i * lp) lp)
  { w := w, nb := nb, h := beNat (slice b 4 1), p := f 0, a := f 1, b := f 2, gx := f 3, gy := f 4
    n := beNat (slice b (8 + 5 * lp) (cdiv nb 8)) }
/-- The checks of LOADCURVE (R434). -/
def curveAccepted (c : Curve) : Bool :=
  let d : Int := (c.h * c.n : Nat) - ((c.p : Int) + 1)
  decide (160 ≤ c.w) && decide (c.w ≤ 521) && c.p.testBit (c.w - 1) && decide (c.nb ≤ c.w + 1) && decide (1 ≤ c.h) && decide (c.h ≤ 8) &&
    decide (c.a < c.p) && decide (c.b < c.p) && decide (c.gx < c.p) && decide (c.gy < c.p) && bailliePsw c.p &&
    (4 * c.a * c.a * c.a + 27 * c.b * c.b) % c.p != 0 && onCurve c c.gx c.gy && bailliePsw c.n &&
    (ptMul c c.n c.base).isNone && decide (d * d ≤ 4 * (c.p : Int))

/-- DEV_ID as the register reads (R63). -/
def devId (s : State) : Nat := s.attic.part % 65536 * 65536 + s.attic.stepping % 256 * 256 + s.attic.package % 256
/-- DEED_DIGEST as the register reads (R95). -/
def deedDigest (s : State) : Nat := match s.deed with
  | some d => digest8 d.digest
  | none => 0
/-- The report of ATTEST without its signature (R435). -/
def attestReport (s : State) (o : SbOwner) (challenge : List Byte) : List Byte :=
  let lease := match o with
    | .hh h => match (hhAt s h).lease with
      | some l => (beBytes 48 l.digest).take 8
      | none => leBytes 8 0
    | _ => leBytes 8 0
  let key := match ptMul p384 s.attic.attestKey p384.base with
    | some (x, y) => beBytes 48 x ++ beBytes 48 y
    | none => List.replicate 96 0
  slice challenge 0 48 ++ leBytes 4 (devId s) ++ leBytes 8 s.attic.serial ++ leBytes 8 (deedDigest s) ++ lease ++
    leBytes 4 s.boot.fwSeq ++ List.replicate 16 0 ++ key
def attestOf (s : State) (o : SbOwner) (challenge : List Byte) : SbOut :=
  let rep := attestReport s o challenge
  let dg := sha384 (rep.take 96)
  match ecdsaSign p384 (beNat dg) s.attic.attestKey (nonce6979 s.attic.attestKey dg) with
  | none => .error stPkRange
  | some (r, t) => .ok (rep ++ beBytes 48 r ++ beBytes 48 t)

/-- The arithmetic of the operation in flight with this code; a failed check leaves zeros for its output (R433). -/
def sbRun (s : State) (op : Nat) (f : State → SbOp → SbOut) : State := match s.sb.cur with
  | none => s
  | some x =>
    if x.stage ≠ .fetched ∨ blkOp x.block ≠ op then s
    else
      let y : SbOp := match f s x with
        | .ok r => { x with result := r, status := stOk, stage := .computed }
        | .error st => { x with result := List.replicate (blkOutLen x.block) 0, status := st, stage := .computed }
      upSbx s fun b => { b with cur := some y, elapsed := runTime s x % 2 ^ 32 }
/-- An operation on the slot that the block names. -/
def onSlot (f : Curve → List Byte → SbOut) (s : State) (x : SbOp) : SbOut := match slotCurve s (blkCurve x.block) with
  | some c => f c x.input
  | none => .error stPkParam
def execSmul (s : State) : Out := .next (sbRun s 1 (onSlot smulOf))
def execEcdh (s : State) : Out := .next (sbRun s 2 (onSlot ecdhOf))
def execSign (s : State) : Out := .next (sbRun s 3 (onSlot signOf))
def execVerify (s : State) : Out := .next (sbRun s 4 (onSlot verifyOf))
def execModexp (s : State) : Out := .next (sbRun s 5 fun _ x => modexpOf (blkBits x.block) x.input)
def execSha384 (s : State) : Out := .next (sbRun s 6 fun _ x => .ok (sha384 x.input))
def execAttest (s : State) : Out := .next (sbRun s 8 fun t x => attestOf t x.owner x.input)
/-- LOADCURVE: the slot becomes valid when every check passes (R434). -/
def loadCurveOp (s : State) : State :=
  let t := sbRun s 7 fun _ x => if curveAccepted (curveOf x.input) then .ok [] else .error stPkParam
  match s.sb.cur, t.sb.cur with
  | some x, some y =>
    if x.stage = .fetched ∧ y.stage = .computed ∧ y.status = stOk then match fin? 5 (blkCurve y.block - 3) with
      | some i => upSbx t fun b => { b with curves := b.curves.set i.val (some (curveOf y.input)) i.isLt }
      | none => t
    else t
  | _, _ => t
def execLoadcurve (s : State) : Out := .next (loadCurveOp s)

/- The result (R328, R436, R439). -/

/-- Zeros over the output with the bytes of the failed ranges, from the first failing one on, left open. -/
def partialResult (occasion n off : Nat) : List Byte :=
  (List.range n).map fun i => if i < off then 0 else Config.freeByte occasion i
/-- STRONGBOX_COMPLETE: `fail` is the first byte of an output write that failed in part (R328). -/
def sbCompleteOp (s : State) (fail : Option Nat) : State := match s.sb.cur with
  | none => s
  | some x =>
    if x.stage ≠ .computed then s
    else
      let out := blkOut x.block
      let n := x.result.length
      let part := match fail with
        | some o => if o < n then some o else none
        | none => none
      let bs := match part with
        | some o => partialResult s.fresh n o
        | none => x.result
      let st := if part.isSome then stPartial else x.status
      let off := part.getD 0
      match x.owner with
      | .hh h => match hWrite s h true out bs with
        | .ok t => sbEnd (tickFresh t) x st off
        | .error (.fault e va) => sbSuspend s x h .outFault e va 0
        | .error e => sbEnd (noteMErr s h 7 e) x e.status 0
      | _ => sbEnd (tickFresh (if n = 0 then s else cWrite s out bs)) x st off
def execStrongboxComplete (fail : Option Nat) (s : State) : Out := .next (sbCompleteOp s fail)

/- Resume, abort, pre-emption (R436-R438). -/

/-- RESUME of the owner's suspended operation. -/
def sbResumeOp (s : State) (o : SbOwner) : State := match s.sb.cur with
  | none => s
  | some x =>
    if x.owner ≠ o then s
    else match x.stage with
      | .inFault => if x.block.isEmpty then (match o with
          | .hh h => sbBlock s o (hhAt s h).sb.block
          | _ => s)
        else sbFetch s x
      | .outFault => upSbx s fun b => { b with cur := some { x with stage := .computed } }
      | _ => s
def execSbResume (a : Agent) (s : State) : Out := .next (pfRow s a fun s => sbResumeOp s (sbOwnerOf a))
def execSbHreqResume (a : Agent) (h : Hh) (s : State) : Out := .next (hhRow s a h fun s => sbResumeOp s (.hh h))

/-- ABORT by an owner: its operation, or its waiting request. -/
def sbAbortBy (s : State) (o : SbOwner) : State := match o with
  | .hh h => sbDrop s h
  | _ =>
    let mine := match s.sb.cur with
      | some x => x.owner == o
      | none => false
    if mine then sbAbortOp s
    else if !sbHas s o then s
    else
      let s := upSbx s fun b => { b with
        house := if o = .house then none else b.house, pf := if o = .pf then none else b.pf, status := stPkAbort, evDone := true }
      raise s 2
def execSbAbort (a : Agent) (s : State) : Out := .next (pfRow s a fun s => settle (sbAbortBy s (sbOwnerOf a)))
def execSbHreqAbort (a : Agent) (h : Hh) (s : State) : Out := .next (hhRow s a h fun s => settle (sbAbortBy s (.hh h)))

def sbSuspended (x : SbOp) : Bool := x.stage == .inFault || x.stage == .outFault
/-- STRONGBOX_SUSPEND_TIMEOUT: 100 ms of suspension. -/
def execStrongboxSuspendTimeout (s : State) : Out := .next <| match s.sb.cur with
  | some x => if sbSuspended x then settle (sbAbortOp s) else s
  | none => s
/-- STRONGBOX_PREEMPT: another owner's operation ends at a boundary of 800,000 SCLK, or at once while suspended. -/
def sbPreemptOp (s : State) : State := match s.sb.cur with
  | some x =>
    if x.owner ≠ .house ∧ (s.sb.house.isSome ∨ houseWaits s) ∧ (sbSuspended x ∨ (x.stage = .fetched ∧ runTime s x > 800000)) then
      settle (sbAbortOp (upSbx s fun b => { b with evPreempt := true }))
    else s
  | none => s
def execStrongboxPreempt (s : State) : Out := .next (sbPreemptOp s)

end Sys2Proof.Machine
end

