-- ==== Sys2Proof/Machine/Control.lean ====
section
/-! DEFINITION. Control cores: instruction boundaries, traps, caches, memory, CSRs, and the registers of the
region window that act on a core (R96-R102, R117-R119). -/

namespace Sys2Proof.Machine

/- Instruction boundaries. -/

/-- A household context, none for the monitor's context 16 (R100). -/
def coreHh (s : State) (r : Rg) : Option Hh := fin? 16 (coreAt s r).ctx
/-- The core makes its next instruction: powered, out of reset, taking work (R367), not halted for debug unless one
step is due, not in a household's context on a deposed package (R353), and with no interrupt to take first (R425). -/
def coreRuns (s : State) (r : Rg) : Bool :=
  let c := coreAt s r
  domainIsOn s (34 + r.val) && !(regAt s r).inReset && !quiescing s (0x40 + r.val) && (!c.halted || c.stepArmed) &&
    (c.ctx == 16 || c.level == 2 || s.pw.role != .deposed)
/-- A delivered interrupt is taken at the next boundary, before another instruction. -/
def irqDue (s : State) (r : Rg) : Bool := (coreAt s r).irq && !(coreAt s r).halted

/-- Integer registers: X0 reads as zero and ignores writes (R96). -/
def xGet (s : State) (r : Rg) (i : XReg) : Word := if i = 0 then 0 else (coreAt s r).x.get i
def xPut (s : State) (r : Rg) (i : XReg) (v : Word) : State :=
  if i = 0 then s else upCore s r fun c => { c with x := c.x.set i.val v i.isLt }
def xNat (s : State) (r : Rg) (i : XReg) : Nat := (xGet s r i).toNat
def fGet (s : State) (r : Rg) (i : XReg) : Nat := ((coreAt s r).f.get i).toNat
def fPut (s : State) (r : Rg) (i : XReg) (v : Word) : State := upCore s r fun c => { c with f := c.f.set i.val v i.isLt }

/- Traps (R102). -/

/-- Classes of traps for TRAP_ROUTE. -/
inductive TrapClass where
  | svc | brk | illegal | status | memory | irq
deriving DecidableEq, Repr

/-- A trap as its cause, and the tile that CC_TRAP names for a row fault. -/
structure Trap where
  cls : TrapClass
  kind : Nat
  code : Nat
  sub : Nat
  row : Nat
  addr : Nat
  tile : Nat
deriving DecidableEq, Repr

/-- Illegal instruction and misaligned access. -/
def trapIllegal : Trap := ⟨.illegal, 1, 1, 0, 0, 0, 0⟩
def trapMisaligned : Trap := ⟨.illegal, 1, 2, 0, 0, 0, 0⟩
def trapBreak : Trap := ⟨.brk, 1, 3, 0, 0, 0, 0⟩
def trapSvc : Trap := ⟨.svc, 1, 4, 0, 0, 0, 0⟩
def trapFetch (a : Nat) : Trap := ⟨.memory, 1, 5, 0, 0, a, 0⟩
def trapIrq : Trap := ⟨.irq, 2, 0, 0, 0, 0, 0⟩
/-- A device status (KIND 0x00) that is no memory fault. -/
def trapStatus (st : Nat) : Trap := ⟨.status, 0, st, 0, 0, 0, 0⟩
/-- TRANSLATION_FAULT or PERMISSION_FAULT of a load or store. -/
def trapMemory (st a : Nat) : Trap := ⟨.memory, 0, st, 0, 0, a, 0⟩
/-- TILE_ROW_FAULT (R112). -/
def trapRow (st a row tile : Nat) : Trap := ⟨.memory, 0, 0x13, st, row, a, tile⟩

/-- Class bit of TRAP_ROUTE. -/
def routed (o : TrapRoute) : TrapClass → Bool
  | .svc => o.svc
  | .brk => o.brk
  | .illegal => o.illegal
  | .status => o.status
  | .memory => o.memory
  | .irq => false
/-- Level that a trap enters: 1 SUP or 2 MON. -/
def trapLevel (c : Core) (t : Trap) : Nat :=
  if c.level = 2 then 2
  else if t.cls = .svc ∧ c.level = 1 then 2
  else if routed c.route t.cls then 1 else 2
/-- CC_TRAP after a trap (R117). -/
def noteTrap (c : Core) (t : Trap) : CcTrap :=
  { tile := if t.code = 0x13 ∧ t.kind = 0 then t.tile else c.trap.tile
    ctx := c.ctx, sub := t.sub, row := t.row
    count := if t.kind = 0 then satInc 12 c.trap.count else c.trap.count
    kind := t.kind, code := t.code }
/-- Entry of a trap raised at this level and pc: the trap CSRs of the level entered, and its handler's address. -/
def enterTrap (c : Core) (t : Trap) : Core :=
  let set (old : TrapSet) : TrapSet :=
    { sub := t.sub, prev := c.level, row := t.row, kind := t.kind, code := t.code, addr := BitVec.ofNat 64 t.addr
      pc := c.pc, vec := old.vec }
  if trapLevel c t = 1 then { c with sup := set c.sup, level := 1, pc := c.sup.vec, trap := noteTrap c t }
  else { c with mon := set c.mon, level := 2, pc := c.mon.vec, trap := noteTrap c t }

/-- How an instruction ends: complete, complete with another next address, with a trap, or stalled. -/
inductive CoreEnd where
  | done (s : State)
  | jump (s : State) (pc : Word)
  | trap (s : State) (t : Trap)
  | stall (s : State)

/-- The boundary after an instruction: a single step ends (R117), and what stalled before it has retired (R111). -/
def stepOver (c : Core) : Core := { c with stepArmed := false, tileStall := false, tdefWait := false }

/-- Why the fetch at the pc fails (R96, R99, R100, R101, R308), with the status that HH_FAULT records. -/
def fetchTrap (s : State) (r : Rg) : Option (Trap × Option (Hh × Nat × Nat)) :=
  let pc := (coreAt s r).pc.toNat
  if pc % 4 ≠ 0 then some (trapMisaligned, none)
  else match coreHh s r with
    | none =>
      if pc < cellarSize then none
      else if 0x8000000000 ≤ pc ∧ pc ≤ 0x80003FFFFFF then some (trapFetch pc, none)
      else some (trapMemory stTrans pc, none)
    | some h => match xlate s h true .fetch pc with
      | .ok _ => none
      | .error st =>
        if pc ≥ 2 ^ 48 then some (trapMemory st pc, some (h, st, pc)) else some (trapFetch pc, some (h, st, pc))

/-- A fault of the core is recorded in HH_FAULT with AGENT 0 (R336). -/
def coreFaultNote (s : State) : Option (Hh × Nat × Nat) → State
  | some (h, st, a) => recordFault s h 0 st a
  | none => s

/-- The core's translation cache of its context's household takes the pages of a range (R309). -/
def coreCache (s : State) (r : Rg) (va n : Nat) : State := match coreHh s r with
  | some h => cachePages s h (tlbUnit 0 r.val) (pagesOf va n)
  | none => s
/-- The instruction at the pc has been fetched. -/
def fetched (s : State) (r : Rg) : State := coreCache s r (coreAt s r).pc.toNat 4

/-- One instruction at the pc: the fetch, the effect, the next address or the trap. `mid`: a due interrupt is taken
inside the instruction, not before it (R112). -/
def runInstrWith (mid : Bool) (s : State) (r : Rg) (f : State → CoreEnd) : State :=
  if !coreRuns s r || (irqDue s r && !mid) then s
  else match fetchTrap s r with
    | some (t, n) => upCore (coreFaultNote s n) r fun c => stepOver (enterTrap c t)
    | none => match f (fetched s r) with
      | .done u => upCore u r fun c => stepOver { c with pc := c.pc + 4 }
      | .jump u pc => upCore u r fun c => stepOver { c with pc := pc }
      | .trap u t => upCore u r fun c => stepOver (enterTrap c t)
      | .stall u => u
/-- An instruction that takes no interrupt inside it. -/
def runInstr (s : State) (r : Rg) (f : State → CoreEnd) : State := runInstrWith false s r f

/-- INTERRUPT_ENTRY (R102, R425): at the boundary before the instruction at the pc. -/
def interruptOp (s : State) (r : Rg) : State :=
  if coreRuns s r && irqDue s r then upCore s r fun c => stepOver { enterTrap { c with irq := false } trapIrq with stepArmed := c.stepArmed } else s
def execInterruptEntry (r : Rg) (s : State) : Out := .next (interruptOp s r)

/- Caches (R96, R97, log 27). -/

def cacheLine (s : State) (r : Rg) (line : Nat) : Option CLine := (coreAt s r).cache.find? fun l => l.line == line
def upCache (s : State) (r : Rg) (f : List CLine → List CLine) : State := upCore s r fun c => { c with cache := f c.cache }
/-- A dirty line goes back to the cellar: its dirty bytes, or by a free choice the whole line. -/
def writeBack (s : State) (l : CLine) : State :=
  if !l.dirty.any id then s
  else if l.dirty.all id || Config.freeBool s.fresh (2 * l.line) then cWrite s (64 * l.line) l.bytes
  else (l.bytes.zip (l.dirty.zip (List.range 64))).foldl (fun t e => if e.2.1 then cPut t (64 * l.line + e.2.2) e.1 else t) s
/-- Lines leave the caches when the core chooses, after any access (log 27). -/
def spill (s : State) (r : Rg) : State :=
  let out := (coreAt s r).cache.filter fun l => Config.freeBool s.fresh (2 * l.line + 1)
  let s1 := out.foldl writeBack s
  tickFresh (upCache s1 r fun ls => ls.filter fun l => !Config.freeBool s.fresh (2 * l.line + 1))
/-- FENCE.W: every store has reached the cellar. -/
def drainStores (s : State) (r : Rg) : State :=
  tickFresh (upCache ((coreAt s r).cache.foldl writeBack s) r fun ls => ls.map fun l => { l with dirty := List.replicate 64 false })
/-- A line that is not cached is filled from the cellar. -/
def fillLine (s : State) (r : Rg) (line : Nat) : State :=
  if (cacheLine s r line).isSome then s
  else upCache s r fun ls => ls ++ [⟨line, cRead s (64 * line) 64, List.replicate 64 false⟩]
/-- Byte of a CPA as the core reads it. -/
def cachedByte (s : State) (r : Rg) (a : Nat) : Byte := match cacheLine s r (a / 64) with
  | some l => l.bytes.getD (a % 64) 0
  | none => cGet s a
/-- A byte stored: into its line, or past the caches into a poisoned unit. -/
def storeByte (s : State) (r : Rg) (a : Nat) (b : Byte) : State :=
  if (cacheLine s r (a / 64)).isNone && poisoned s a then cPut s a b
  else upCache (fillLine s r (a / 64)) r fun ls => ls.map fun l =>
    if l.line = a / 64 then { l with bytes := l.bytes.set (a % 64) b, dirty := l.dirty.set (a % 64) true } else l

/- Memory of a core (R100, R101, R112, R309, R313). -/

/-- First address of a range that the core cannot reach, with the status. -/
def coreFault (s : State) (r : Rg) (acc : Acc) (va n : Nat) : Option (Nat × Nat) := match coreHh s r with
  | some h => xlateRange s h true acc va n
  | none => ((List.range n).map fun i => (va + i) % 2 ^ 64).findSome? fun a => if a < cellarSize then none else some (stTrans, a)
/-- CPA of a byte of the core's address space. -/
def coreCpa (s : State) (r : Rg) (acc : Acc) (va : Nat) : Nat := match coreHh s r with
  | some h => match xlate s h true acc (va % 2 ^ 64) with
    | .ok p => if acc = .write then writeCpa s p (va % 2 ^ 64) else readCpa s h true p (va % 2 ^ 64)
    | .error _ => 0
  | none => va % 2 ^ 64
def coreCpas (s : State) (r : Rg) (acc : Acc) (va n : Nat) : List Nat := (List.range n).map fun i => coreCpa s r acc (va + i)

/-- A status of the core aborts an open group of its household (R321). -/
def coreAbort (s : State) (r : Rg) (st : Nat) : State := match coreHh s r with
  | some h => settle (txAbort s h ⟨st, 0, 0xFF, 0, 0xFFFFFFFF⟩ true)
  | none => s
/-- A fault of the core's access: HH_FAULT in a household's context. -/
def noteCore (s : State) (r : Rg) (st a : Nat) : State := coreFaultNote s ((coreHh s r).map fun h => (h, st, a))

/-- How a memory access of the core ends. -/
inductive CoreMem where
  | ok (s : State) (bs : List Byte)
  /-- a translation or permission fault at an address -/
  | fault (s : State) (st a : Nat)
  /-- another status: an uncorrectable unit, a full write set -/
  | status (s : State) (st : Nat)
  /-- a first write during a commit waits (R318) -/
  | wait
  /-- the range meets the register map with a size or alignment that R101 does not allow -/
  | bar (s : State)

/-- BAR0 in the address space of context 16 at MON (R101). -/
def barBase : Nat := 0x8000000000
def inBar (s : State) (r : Rg) (a : Nat) : Bool :=
  (coreAt s r).ctx == 16 && (coreAt s r).level == 2 && decide (barBase ≤ a) && decide (a < barBase + 0x4000000)
/-- Bytes of a range through the caches. -/
def coreRead (s : State) (r : Rg) (va n : Nat) : CoreMem :=
  match coreFault s r .read va n with
  | some (st, a) => if inBar s r a then .bar s else .fault (noteCore s r st a) st a
  | none =>
    let cpas := coreCpas s r .read va n
    match cpas.find? fun a => (cacheLine s r (a / 64)).isNone && poisoned s a with
    | some a => .status (coreAbort (noteUe s a) r stCellar) stCellar
    | none =>
      let t := cpas.foldl (fun t a => fillLine t r (a / 64)) s
      .ok (coreCache (spill t r) r va n) (cpas.map (cachedByte t r))

/-- A write of the range would be a first write while the household's group commits. -/
def commitHolds (s : State) (h : Hh) (va n : Nat) : Bool :=
  (hhAt s h).tx.committing && (List.range n).any fun i => match xlate s h true .write ((va + i) % 2 ^ 64) with
    | .ok p => p.tx && !inWriteSet s h (pairOf p)
    | .error _ => false
/-- Lines of frames that enter the write set leave the core's caches (log 27). -/
def dropShadows (s t : State) (r : Rg) (h : Hh) : State :=
  let news := (hhAt t h).tx.writeSet.drop (hhAt s h).tx.writeSet.length
  upCache t r fun ls => ls.filter fun l => !news.any fun e => e.1 == l.line / 2048 && (l.line / 1024 % 2 == b2n e.2)

/-- Bytes stored to a range through the caches. -/
def coreWrite (s : State) (r : Rg) (va : Nat) (bs : List Byte) : CoreMem :=
  match coreFault s r .write va bs.length with
  | some (st, a) => if inBar s r a then .bar s else .fault (noteCore s r st a) st a
  | none =>
    let put (s : State) : CoreMem :=
      .ok (coreCache (spill (((coreCpas s r .write va bs.length).zip bs).foldl (fun t e => storeByte t r e.1 e.2) s) r) r va bs.length) []
    match coreHh s r with
    | none => put s
    | some h =>
      if commitHolds s h va bs.length then .wait
      else match openFrames s h va bs.length with
        | .error _ => .status (coreAbort s r stTxCap) stTxCap
        | .ok t => put (dropShadows s t r h)

/-- FENCE.W (R97). -/
def execFenceW (r : Rg) (s : State) : Out := .next (runInstr s r fun s => .done (drainStores s r))

/-- Ranges of CPAs of n bytes from a virtual address: what the tables map (log 27). -/
def mapRanges (s : State) (r : Rg) (va n : Nat) : List (Nat × Nat) := match coreHh s r with
  | none => [(va, n)]
  | some h =>
    let hi := min (va + n) (2 ^ 48)
    (List.range (hi / 65536 + 1 - va / 65536)).filterMap fun i =>
      let a := max va ((va / 65536 + i) * 65536)
      let b := min hi ((va / 65536 + i + 1) * 65536)
      if b ≤ a then none else (pageOf s h a).map fun p => (readCpa s h true p a, b - a)
/-- CINV (R97): lines that overlap the range are written back and leave. -/
def cinvOp (s : State) (r : Rg) (va n : Nat) : State :=
  let rs := mapRanges s r va n
  let hit (l : CLine) : Bool := rs.any fun x => decide (64 * l.line < x.1 + x.2) && decide (x.1 < 64 * l.line + 64) && decide (0 < x.2)
  tickFresh (upCache (((coreAt s r).cache.filter hit).foldl writeBack s) r fun ls => ls.filter fun l => !hit l)
def execCinv (r : Rg) (xa xn : XReg) (s : State) : Out :=
  .next (runInstr s r fun s => .done (cinvOp s r (xNat s r xa) (xNat s r xn)))

/- Summary registers (R115, R119). -/

/-- CC_SUMQ_h as it reads. -/
def sumqRead (q : SumQ) : Nat := b2n q.full * 65536 + q.thresh * 256 + q.ents.length
/-- A write of CC_SUMQ_h or SUMCTL: FULL clears unless a stall sets it in the same cycle, THRESH takes 1 to 32. -/
def sumqWrite (s : State) (r : Rg) (h : Hh) (v : Nat) (hw : Bool) : State :=
  let old := (coreAt s r).sumqs.get h
  let lost := clearLost (v.testBit 16 && old.full) hw
  upCore s r fun c => { c with
    sumqs := vmod c.sumqs h fun q => { q with
      full := w1c q.full (v.testBit 16) hw
      thresh := if 1 ≤ bits v 8 6 ∧ bits v 8 6 ≤ 32 then bits v 8 6 else q.thresh }
    lost := lostInc c.lost lost }

/- CSRs (R99-R102, R108, R119). -/

def trapCause (t : TrapSet) : Nat := t.sub * 2 ^ 32 + t.prev * 2 ^ 30 + t.row * 2 ^ 16 + t.kind * 2 ^ 8 + t.code
def setCause (t : TrapSet) (v : Nat) : TrapSet :=
  { t with sub := bits v 32 8, prev := bits v 30 2, row := bits v 16 12, kind := bits v 8 8, code := bits v 0 8 }
def trapCsr (t : TrapSet) (i : Nat) : Nat :=
  if i = 0 then trapCause t else if i = 1 then t.addr.toNat else if i = 2 then t.pc.toNat else t.vec.toNat
def setTrapCsr (t : TrapSet) (i v : Nat) : TrapSet :=
  if i = 0 then setCause t v else if i = 1 then { t with addr := BitVec.ofNat 64 v }
  else if i = 2 then { t with pc := BitVec.ofNat 64 v } else { t with vec := BitVec.ofNat 64 v }
def routeBits (o : TrapRoute) : Nat := b2n o.svc * 16 + b2n o.brk * 8 + b2n o.illegal * 4 + b2n o.status * 2 + b2n o.memory
def shapeBits (t : Tile) : Nat := b2n t.conf * 2 ^ 15 + t.rowsM1 * 256 + t.bprwM1
def liveBits (c : Core) : Nat := maskOf 8 fun i => match c.tiles[i]? with
  | some t => t.live
  | none => false

/-- A CSR that exists. -/
def isCsr (n : Nat) : Bool :=
  n == 0x010 || n == 0x011 || decide (0x020 ≤ n ∧ n ≤ 0x023) || decide (0x030 ≤ n ∧ n ≤ 0x033) ||
    decide (0x100 ≤ n ∧ n ≤ 0x108) || n == 0x110
/-- Levels that may read a CSR (R99, R102, R119). -/
def csrReadOk (level n : Nat) : Bool :=
  isCsr n && (if 0x020 ≤ n ∧ n ≤ 0x023 then decide (1 ≤ level) else if 0x030 ≤ n ∧ n ≤ 0x033 then level == 2
    else if n = 0x110 then decide (1 ≤ level) else true)
/-- Levels that may write one: PRG writes none, only MON writes CTX, TRAP_ROUTE and its own set. -/
def csrWriteOk (level n : Nat) : Bool :=
  isCsr n && decide (1 ≤ level) && (if n = 0x010 ∨ n = 0x011 ∨ (0x030 ≤ n ∧ n ≤ 0x033) then level == 2 else true)
def csrGet (c : Core) (n : Nat) : Nat :=
  if n = 0x010 then c.ctx
  else if n = 0x011 then routeBits c.route
  else if 0x020 ≤ n ∧ n ≤ 0x023 then trapCsr c.sup (n - 0x020)
  else if 0x030 ≤ n ∧ n ≤ 0x033 then trapCsr c.mon (n - 0x030)
  else if n = 0x108 then liveBits c
  else if n = 0x110 then (match fin? 16 c.ctx with
    | some h => sumqRead (c.sumqs.get h)
    | none => 0)
  else match c.tiles[n - 0x100]? with
    | some t => shapeBits t
    | none => 0
/-- A permitted write, with a stall that sets SUMCTL.FULL in the same cycle (R12, R119); none for the value that CTX
refuses (R100). -/
def csrPut (s : State) (r : Rg) (n v : Nat) (hw : Bool) : Option State :=
  if n = 0x010 then (if v > 16 then none else some (upCore s r fun c => { c with ctx := v }))
  else if n = 0x011 then some (upCore s r fun c => { c with
    route := ⟨v.testBit 4, v.testBit 3, v.testBit 2, v.testBit 1, v.testBit 0⟩ })
  else if 0x020 ≤ n ∧ n ≤ 0x023 then some (upCore s r fun c => { c with sup := setTrapCsr c.sup (n - 0x020) v })
  else if 0x030 ≤ n ∧ n ≤ 0x033 then some (upCore s r fun c => { c with mon := setTrapCsr c.mon (n - 0x030) v })
  else if n = 0x110 then some (match coreHh s r with
    | some h => sumqWrite s r h v hw
    | none => s)
  else some s

/-- CSR read, write, set and clear (R96). -/
def csrInstr (s : State) (r : Rg) (n : Nat) (op : CsrOp) (hw : Bool) : CoreEnd :=
  let c := coreAt s r
  let old := csrGet c n
  let write (v : Nat) (reads : Bool) : CoreEnd :=
    if !csrWriteOk c.level n || (reads && !csrReadOk c.level n) then .trap s trapIllegal
    else match csrPut s r n v hw with
      | some t => .done t
      | none => .trap s trapIllegal
  match op with
  | .read xd => if csrReadOk c.level n then .done (xPut s r xd (BitVec.ofNat 64 old)) else .trap s trapIllegal
  | .write xs => write (xNat s r xs) false
  | .set xs => write (old ||| xNat s r xs) true
  | .clear xs => write (old - (old &&& xNat s r xs)) true
def execCsrWrite (r : Rg) (n : Nat) (op : CsrOp) (s : State) (hw : Bool := false) : Out := .next (runInstr s r fun s => csrInstr s r n op hw)

/-- SVC, the debug breakpoint and RFT (R102). -/
def execSvc (r : Rg) (s : State) : Out := .next (runInstr s r fun s => .trap s trapSvc)
def execDebugBreakpoint (r : Rg) (s : State) : Out := .next (runInstr s r fun s => .trap s trapBreak)
def rftInstr (s : State) (r : Rg) : CoreEnd :=
  let c := coreAt s r
  let t := if c.level = 2 then c.mon else c.sup
  if c.level = 0 ∨ t.prev > c.level then .trap s trapIllegal
  else .jump (upCore s r fun c => { c with level := t.prev }) t.pc
def execRft (r : Rg) (s : State) : Out := .next (runInstr s r fun s => rftInstr s r)

/- Debug halt and step (R117). -/

/-- HALT of CC_CTRL: no instruction is in progress between two commands, so the halt takes effect at once. -/
def ccHaltOp (s : State) (r : Rg) (on : Bool) : State := upCore s r fun c =>
  { c with haltReq := on, halted := on, stepArmed := c.stepArmed && on }
/-- STEP of CC_CTRL. -/
def ccStepOp (s : State) (r : Rg) : State := upCore s r fun c => { c with stepArmed := c.halted }
def execCcHaltRequest (a : Agent) (r : Rg) (on : Bool) (s : State) : Out := .next (coreRow s a r fun s => ccHaltOp s r on)
def execCcStep (a : Agent) (r : Rg) (s : State) : Out := .next (coreRow s a r fun s => ccStepOp s r)

/- Integer, floating-point and control-flow instructions (R96). -/

/-- MULMOD. -/
def mulmodInstr (s : State) (r : Rg) (xd xa xb xq : XReg) : CoreEnd :=
  let q := xNat s r xq
  if q = 0 ∨ q ≥ 2 ^ 32 then .trap s trapIllegal
  else .done (xPut s r xd (BitVec.ofNat 64 (xNat s r xa * xNat s r xb % q)))
def execMulmod (r : Rg) (xd xa xb xq : XReg) (s : State) : Out := .next (runInstr s r fun s => mulmodInstr s r xd xa xb xq)

/-- Quotient of two signed numbers: exact, or rounded towards zero or downwards as the core chooses (log 28). -/
def divChoice (down : Bool) (a b : Int) : Int := if down then a.fdiv b else a.tdiv b
/-- Result of an integer operation on operands of w bits, none where the spec states none (log 28). -/
def intResult (w : Nat) (down : Bool) (op : IntOp) (a b : Nat) : Option Nat :=
  let sa := sext w a
  let sb := sext w b
  match op with
  | .add => some ((a + b) % 2 ^ w)
  | .sub => some ((a + 2 ^ w - b) % 2 ^ w)
  | .and => some (a &&& b)
  | .or => some (a ||| b)
  | .xor => some (a ^^^ b)
  | .shl => if b < w then some (a * 2 ^ b % 2 ^ w) else none
  | .shrl => if b < w then some (a / 2 ^ b) else none
  | .shra => if b < w then some (wrapTo w (sa / 2 ^ b)) else none
  | .eq => some (b2n (a == b))
  | .lt => some (b2n (decide (sa < sb)))
  | .ltu => some (b2n (decide (a < b)))
  | .mul => some (a * b % 2 ^ w)
  | .divu => if b = 0 then none else some (a / b)
  | .remu => if b = 0 then none else some (a % b)
  | .div => if b = 0 ∨ divChoice down sa sb ≥ 2 ^ (w - 1) then none else some (wrapTo w (divChoice down sa sb))
  | .rem => if b = 0 then none else some (wrapTo w (sa - divChoice down sa sb * sb))
/-- Compares write 1 or 0 to the whole register. -/
def isCompare : IntOp → Bool
  | .eq | .lt | .ltu => true
  | _ => false
def intInstr (s : State) (r : Rg) (op : IntOp) (w32 : Bool) (xd xa : XReg) (b : IntSrc) : CoreEnd :=
  let w := if w32 then 32 else 64
  let bv := match b with
    | .reg x => xNat s r x
    | .imm v => v.toNat
  let free := (Config.freeWord s.fresh).toNat
  let res := (intResult w (Config.freeBool s.fresh 0) op (xNat s r xa % 2 ^ w) (bv % 2 ^ w)).getD (free % 2 ^ w)
  let v := if w32 && !isCompare op then free / 2 ^ 32 * 2 ^ 32 + res else res
  .done (tickFresh (xPut s r xd (BitVec.ofNat 64 v)))
def execIntegerInstruction (r : Rg) (op : IntOp) (w32 : Bool) (xd xa : XReg) (b : IntSrc) (s : State) : Out :=
  .next (runInstr s r fun s => intInstr s r op w32 xd xa b)

def fpFmt (d : Bool) : FFmt := if d then fp64 else fp32
/-- A floating-point operand: the low bits of its register. -/
def fpArg (s : State) (r : Rg) (d : Bool) (i : XReg) : FVal := fDecode (fpFmt d) (fGet s r i % 2 ^ (fpFmt d).width)
/-- A quiet NaN with free sign and payload. -/
def freeNanOf (f : FFmt) (free : Nat) : Nat := b2n (free.testBit 0) * 2 ^ (f.eb + f.mb) + fNan f + free / 2 % 2 ^ (f.mb - 1)
/-- The register that takes a result: a binary32 result leaves the high half open (log 28). -/
def fpWord (d : Bool) (free v : Nat) : Word := BitVec.ofNat 64 (if d then v else free / 2 ^ 32 * 2 ^ 32 + v)
def fpInstr (s : State) (r : Rg) (op : FpOp) : CoreEnd :=
  let free := (Config.freeWord s.fresh).toNat
  let put (d : Bool) (fd : XReg) (v : Option Nat) : CoreEnd :=
    .done (tickFresh (fPut s r fd (fpWord d free (v.getD (freeNanOf (fpFmt d) (Config.freeWordAt s.fresh 0).toNat)))))
  let cmp (xd : XReg) (d : Bool) (fa fb : XReg) (p : Int → Bool) : CoreEnd :=
    let a := fpArg s r d fa
    let b := fpArg s r d fb
    .done (tickFresh (xPut s r xd (if a = .nan ∨ b = .nan then 0 else if p (fCmp a b) then 1 else 0)))
  match op with
  | .add d fd fa fb => put d fd (fAdd (fpFmt d) (fpArg s r d fa) (fpArg s r d fb))
  | .sub d fd fa fb => put d fd (fAdd (fpFmt d) (fpArg s r d fa) (fpNeg (fpArg s r d fb)))
  | .mul d fd fa fb => put d fd (fMul (fpFmt d) (fpArg s r d fa) (fpArg s r d fb))
  | .div d fd fa fb => put d fd (fDiv (fpFmt d) (fpArg s r d fa) (fpArg s r d fb))
  | .fma d fd fa fb fc => put d fd (fFma (fpFmt d) (fpArg s r d fa) (fpArg s r d fb) (fpArg s r d fc))
  | .cvtF toD fd fa => put toD fd (match fpArg s r (!toD) fa with
    | .nan => none
    | .inf neg => some (fInf (fpFmt toD) neg)
    | .fin neg m e => some (fRound (fpFmt toD) neg m e))
  | .cvtFromInt d signed fd xa =>
    put d fd (some (fRoundInt (fpFmt d) false (if signed then sext 64 (xNat s r xa) else (xNat s r xa : Int)) 0))
  | .cvtToInt d signed xd fa =>
    let v := fpArg s r d fa
    let i := fToInt v
    let fits := v ≠ .nan ∧ (if signed then -(2 ^ 63) ≤ i ∧ i < 2 ^ 63 else 0 ≤ i ∧ i < 2 ^ 64)
    .done (tickFresh (xPut s r xd (if fits then BitVec.ofNat 64 (wrapTo 64 i) else Config.freeWord s.fresh)))
  | .eq d xd fa fb => cmp xd d fa fb fun c => c == 0
  | .lt d xd fa fb => cmp xd d fa fb fun c => decide (c < 0)
  | .le d xd fa fb => cmp xd d fa fb fun c => decide (c ≤ 0)
where
  /-- The negated value. -/
  fpNeg : FVal → FVal
    | .nan => .nan
    | .inf n => .inf !n
    | .fin n m e => .fin (!n) m e
def execFloatingPointInstruction (r : Rg) (op : FpOp) (s : State) : Out := .next (runInstr s r fun s => fpInstr s r op)

/-- Condition of a branch. -/
def condHolds (c : Cond) (a b : Word) : Bool := match c with
  | .eq => a == b
  | .ne => a != b
  | .lt => a.slt b
  | .ge => !a.slt b
  | .ltu => a.ult b
  | .geu => !a.ult b
def cfInstr (s : State) (r : Rg) (op : CfOp) : CoreEnd :=
  let pc := (coreAt s r).pc
  match op with
  | .branch c xa xb d => if condHolds c (xGet s r xa) (xGet s r xb) then .jump s (pc + d) else .done s
  | .jump d => .jump s (pc + d)
  | .jumpReg xa => .jump s (xGet s r xa)
  | .jal xd d => .jump (xPut s r xd (pc + 4)) (pc + d)
def execControlFlowInstruction (r : Rg) (op : CfOp) (s : State) : Out := .next (runInstr s r fun s => cfInstr s r op)

end Sys2Proof.Machine
end

