-- ==== Sys2Proof/Machine/Tiles.lean ====
section
/-! DEFINITION. The engine instruction, tile registers and summaries of the control core (R103-R115). -/

namespace Sys2Proof.Machine

/- Tiles (R108). -/

def tileAt (s : State) (r : Rg) (t : TReg) : Tile := (coreAt s r).tiles.get t
def upTile (s : State) (r : Rg) (t : TReg) (f : Tile → Tile) : State := upCore s r fun c => { c with tiles := vmod c.tiles t f }
def tRows (t : Tile) : Nat := t.rowsM1 + 1
def tBpr (t : Tile) : Nat := 4 * (t.bprwM1 + 1)
/-- n bytes of row i from offset o. -/
def rowBytesAt (t : Tile) (i o n : Nat) : List Byte := match t.rows[i]? with
  | some v => slice v.toList o n
  | none => []
/-- Row i with bytes written from offset o. -/
def putRow (t : Tile) (i o : Nat) (bs : List Byte) : Tile := match fin? 16 i with
  | some n => { t with rows := vmod t.rows n fun v => Vector.ofFn fun j =>
      if o ≤ j.val ∧ j.val < o + bs.length then bs.getD (j.val - o) 0 else v.get j }
  | none => t
def zeroTile (t : Tile) : Tile := { t with rows := .replicate 16 (.replicate 256 0) }

/-- The first failing check of R109, as a trap. -/
def tileCheck (t : Tile) (shape align zero : Bool) : Option Trap :=
  if !t.conf then some (trapStatus stTileUnconf)
  else if shape then some (trapStatus stTileShape)
  else if align then some (trapStatus stRange)
  else if zero then some (trapStatus stZeroStride)
  else none
/-- An instruction on a tile after its checks. -/
def tileInstr (s : State) (o : Option Trap) (f : State → CoreEnd) : CoreEnd := match o with
  | some t => .trap s t
  | none => f s

/-- A shape from its 16 bits, contents zero (R108, R109). -/
def shapeTile (v : Nat) (live : Bool) : Tile :=
  { conf := v.testBit 15, rowsM1 := bits v 8 4, bprwM1 := bits v 0 6, live := live, rows := .replicate 16 (.replicate 256 0) }
/-- Bits 14 to 12 and 7 to 6 of a shape. -/
def shapeRsv (v : Nat) : Bool := bits v 12 3 != 0 || bits v 6 2 != 0

/-- A tile instruction stalls: it has not retired (R111). -/
def tileStalled (s : State) (r : Rg) : CoreEnd := .stall (upCore s r fun c => { c with tileStall := true })
/-- TDEF: it waits until every earlier tile instruction has retired (R111). -/
def tdefInstr (s : State) (r : Rg) (t : TReg) (xs : XReg) : CoreEnd :=
  let v := xNat s r xs
  if (coreAt s r).tileStall then .stall (upCore s r fun c => { c with tdefWait := true })
  else if v ≥ 2 ^ 16 || shapeRsv v then .trap s (trapStatus stTileShape)
  else .done (upTile s r t fun _ => shapeTile v false)
def execTdef (r : Rg) (t : TReg) (xs : XReg) (s : State) : Out := .next (runInstr s r fun s => tdefInstr s r t xs)

/-- TCLR. -/
def tclrInstr (s : State) (r : Rg) (t : TReg) : CoreEnd :=
  tileInstr s (tileCheck (tileAt s r t) false false false) fun s =>
    .done (upTile s r t fun x => { zeroTile x with live := true })
def execTclr (r : Rg) (t : TReg) (s : State) : Out := .next (runInstr s r fun s => tclrInstr s r t)

/-- TDEAD: no check of the shape (R109). -/
def tdeadInstr (s : State) (r : Rg) (t : TReg) : CoreEnd := .done (upTile s r t fun x => { x with live := false })
def execTdead (r : Rg) (t : TReg) (s : State) : Out := .next (runInstr s r fun s => tdeadInstr s r t)

/-- The immediate of TRD and TWR: a multiple of 8 up to 248. -/
def tileImmOk (imm : Nat) : Bool := imm % 8 == 0 && decide (imm ≤ 248)
/-- TRD. -/
def trdInstr (s : State) (r : Rg) (xd : XReg) (t : TReg) (xi : XReg) (imm : Nat) : CoreEnd :=
  let x := tileAt s r t
  let i := xNat s r xi
  if !tileImmOk imm then .trap s trapIllegal
  else tileInstr s (tileCheck x (decide (i ≥ tRows x) || decide (imm + 8 > tBpr x)) false false) fun s =>
    .done (xPut s r xd (BitVec.ofNat 64 (leNat (rowBytesAt x i imm 8))))
def execTrd (r : Rg) (xd : XReg) (t : TReg) (xi : XReg) (imm : Nat) (s : State) : Out :=
  .next (runInstr s r fun s => trdInstr s r xd t xi imm)
/-- TWR. -/
def twrInstr (s : State) (r : Rg) (t : TReg) (xi : XReg) (imm : Nat) (xs : XReg) : CoreEnd :=
  let x := tileAt s r t
  let i := xNat s r xi
  if !tileImmOk imm then .trap s trapIllegal
  else tileInstr s (tileCheck x (decide (i ≥ tRows x) || decide (imm + 8 > tBpr x)) false false) fun s =>
    .done (upTile s r t fun y => { putRow y i imm (leBytes 8 (xNat s r xs)) with live := true })
def execTwr (r : Rg) (t : TReg) (xi : XReg) (imm : Nat) (xs : XReg) (s : State) : Out :=
  .next (runInstr s r fun s => twrInstr s r t xi imm xs)

/- Moves by rows (R110, R112). -/

/-- How a sequence of rows or units ends: all moved, a fault, another status, a wait, or a row in the register map. -/
inductive MoveEnd where
  | all (s : State)
  | fault (s : State) (row st a : Nat)
  | status (s : State) (st : Nat)
  | wait (s : State)
  | bar (s : State)

/-- Rows i to i + n - 1 in ascending order: `row` moves one. -/
def moveRows (row : State → Nat → CoreMem) (keep : State → Nat → List Byte → State) : State → Nat → Nat → MoveEnd
  | s, _, 0 => .all s
  | s, i, n + 1 => match row s i with
    | .ok t bs => moveRows row keep (keep t i bs) (i + 1) n
    | .fault t st a => .fault t i st a
    | .status t st => .status t st
    | .wait => .wait s
    | .bar t => .bar t

/-- A tile instruction that moves rows or units: with `stop`, an interrupt that has been delivered is taken after that
many of them, and the instruction starts again on return; without, none is due (R112). `tile` names the tile of a
row fault. -/
def runMove (s : State) (r : Rg) (stop : Option Nat) (tile total : Nat) (f : State → Nat → MoveEnd) (fin : State → CoreEnd)
    (cut : State → State) : CoreEnd :=
  let close (e : MoveEnd) (fin : State → CoreEnd) : CoreEnd := match e with
    | .all t => fin t
    | .fault t i st a => .trap (cut t) (trapRow st a i tile)
    | .status t st => .trap (cut t) (trapStatus st)
    | .wait t => tileStalled t r
    | .bar t => .trap (cut t) trapMisaligned
  match stop with
  | some n =>
    if n < total then close (f s n) fun t => .trap (upCore (cut t) r fun c => { c with irq := false }) trapIrq
    else close (f s total) fin
  | none => close (f s total) fin

/-- Runs a tile instruction: a stop inside it needs an interrupt that has been delivered. -/
def runTile (s : State) (r : Rg) (stop : Option Nat) (f : State → CoreEnd) : State :=
  if stop.isSome && !irqDue s r then s else runInstrWith stop.isSome s r f

def rowAddrOf (b st i : Nat) : Nat := (b + i * st) % 2 ^ 64
/-- TGET. -/
def tgetInstr (s : State) (r : Rg) (t : TReg) (xb xs : XReg) (stop : Option Nat) : CoreEnd :=
  let x := tileAt s r t
  let b := xNat s r xb
  let d := xNat s r xs
  tileInstr s (tileCheck x false (b % 4 != 0 || d % 4 != 0) false) fun s =>
    runMove s r stop t.val (tRows x)
      (fun s n => moveRows (fun s i => coreRead s r (rowAddrOf b d i) (tBpr x))
        (fun s i bs => upTile s r t fun y => { putRow y i 0 bs with live := true }) s 0 n)
      .done id
def execTget (r : Rg) (t : TReg) (xb xs : XReg) (stop : Option Nat) (s : State) : Out :=
  .next (runTile s r stop fun s => tgetInstr s r t xb xs stop)
/-- TPUT. -/
def tputInstr (s : State) (r : Rg) (t : TReg) (xb xs : XReg) (stop : Option Nat) : CoreEnd :=
  let x := tileAt s r t
  let b := xNat s r xb
  let d := xNat s r xs
  tileInstr s (tileCheck x false (b % 4 != 0 || d % 4 != 0) (d == 0 && decide (tRows x > 1))) fun s =>
    runMove s r stop t.val (tRows x)
      (fun s n => moveRows (fun s i => coreWrite s r (rowAddrOf b d i) (rowBytesAt x i 0 (tBpr x))) (fun s _ _ => s) s 0 n)
      .done id
def execTput (r : Rg) (t : TReg) (xb xs : XReg) (stop : Option Nat) (s : State) : Out :=
  .next (runTile s r stop fun s => tputInstr s r t xb xs stop)

/- Context save (R113, R114). -/

/-- Zeros up to the next 64-byte boundary of the save area (log 28). -/
def padTo64 (bs : List Byte) : List Byte := bs ++ List.replicate ((64 - bs.length % 64) % 64) 0
/-- Contents of a tile, row-major. -/
def tileImage (t : Tile) : List Byte := (List.range (tRows t)).flatMap fun i => rowBytesAt t i 0 (tBpr t)
/-- The save area of a core. -/
def saveImage (c : Core) : List Byte :=
  (c.tiles.toList.flatMap fun t => leBytes 2 (shapeBits t)) ++ leBytes 1 (liveBits c) ++ List.replicate 47 0 ++
    (c.tiles.toList.flatMap fun t => if t.live then padTo64 (tileImage t) else [])
/-- TSAVE. A row fault of a unit belongs to no tile: CC_TRAP.TILE is free (log 28). -/
def tsaveInstr (s : State) (r : Rg) (xb : XReg) (stop : Option Nat) : CoreEnd :=
  let b := xNat s r xb
  if b % 64 ≠ 0 then .trap s (trapStatus stRange)
  else
    let img := saveImage (coreAt s r)
    runMove (tickFresh s) r stop (Config.freeNat s.fresh % 8) (img.length / 64)
      (fun s n => moveRows (fun s i => coreWrite s r (rowAddrOf b 64 i) (slice img (64 * i) 64)) (fun s _ _ => s) s 0 n)
      .done id
def execTsave (r : Rg) (xb : XReg) (stop : Option Nat) (s : State) : Out :=
  .next (runTile s r stop fun s => tsaveInstr s r xb stop)

/-- Shapes and live mask of a header. -/
def headShape (hd : List Byte) (t : Nat) : Nat := leAt hd (2 * t) 2
def headLive (hd : List Byte) : Nat := leAt hd 16 1
/-- Checks of the header. -/
def headOk (hd : List Byte) : Bool :=
  (List.range 8).all (fun t => !shapeRsv (headShape hd t) && (!(headLive hd).testBit t || (headShape hd t).testBit 15)) &&
    ((hd.drop 17).take 47).all fun b => b == 0
/-- Offset of a live tile in the area, and the length of the area. -/
def areaOff (hd : List Byte) (t : Nat) : Nat := (List.range t).foldl (fun o j =>
  if (headLive hd).testBit j then
    let x := shapeTile (headShape hd j) true
    o + cdiv (tRows x * tBpr x) 64 * 64
  else o) 64
/-- The tile file that a save area holds; bytes that no step of R114 names are zero (log 28). -/
def restored (img : List Byte) : Vector Tile 8 := Vector.ofFn fun t =>
  let live := (headLive img).testBit t.val
  let x := shapeTile (headShape img t.val) live
  if live then (List.range (tRows x)).foldl (fun y i => putRow y i 0 (slice img (areaOff img t.val + i * tBpr x) (tBpr x))) x else x
/-- A tile file of free contents, shapes and live bits (R114). -/
def freeTiles (n : Nat) : Vector Tile 8 := Vector.ofFn fun t =>
  { shapeTile (Config.freeWordAt n t.val).toNat ((Config.freeWordAt n t.val).toNat.testBit 16) with
    rows := Vector.ofFn fun i => Vector.ofFn fun b => Config.freeByte n (4096 * t.val + 256 * i.val + b.val) }
/-- TRESTORE: the header is checked before anything changes; a fault or an interrupt after it leaves the tile file
undefined. -/
def trestoreInstr (s : State) (r : Rg) (xb : XReg) (stop : Option Nat) : CoreEnd :=
  let b := xNat s r xb
  if b % 64 ≠ 0 then .trap s (trapStatus stRange)
  else
    let free := s.fresh
    let s := tickFresh s
    match coreRead s r b 64 with
    | .fault t st a => .trap t (trapRow st a 0 (Config.freeNat free % 8))
    | .status t st => .trap t (trapStatus st)
    | .wait => tileStalled s r
    | .bar t => .trap t trapMisaligned
    | .ok t hd =>
      if !headOk hd then .trap t (trapStatus stTileShape)
      else
        let cut (u : State) : State := tickFresh (upCore u r fun c => { c with tiles := freeTiles u.fresh })
        let units := areaOff hd 8 / 64
        match stop with
        | some 0 => .trap (upCore s r fun c => { c with irq := false }) trapIrq
        | _ =>
          let n := match stop with
            | some n => min n units
            | none => units
          let get := fun (acc : State × List Byte × Option (Nat × CoreMem)) (i : Nat) => match acc with
            | (u, img, none) => match coreRead u r (rowAddrOf b 64 (i + 1)) 64 with
              | .ok v bs => (v, img ++ bs, none)
              | e => (u, img, some (i + 1, e))
            | x => x
          match (List.range (n - 1)).foldl get (t, hd, none) with
          | (_, _, some (i, .fault u st a)) => .trap (cut u) (trapRow st a i (Config.freeNat free % 8))
          | (_, _, some (_, .status u st)) => .trap (cut u) (trapStatus st)
          | (_, _, some (_, .bar u)) => .trap (cut u) trapMisaligned
          | (u, _, some _) => tileStalled u r
          | (u, img, none) =>
            if n < units then .trap (upCore (cut u) r fun c => { c with irq := false }) trapIrq
            else .done (upCore u r fun c => { c with tiles := restored img })
def execTrestore (r : Rg) (xb : XReg) (stop : Option Nat) (s : State) : Out :=
  .next (runTile s r stop fun s => trestoreInstr s r xb stop)

/- Summaries (R115). -/

/-- The 16 bytes of a summary. -/
def summaryBytes (x : Summary) : List Byte :=
  leBytes 8 x.value ++ leBytes 4 x.seq ++ leBytes 1 x.cluster ++ leBytes 1 x.tag ++ leBytes 1 x.status ++ leBytes 1 0x80
/-- The oldest summaries of the household in CTX, at most n, leave its queue. -/
def popSummaries (s : State) (r : Rg) (n : Nat) : State × List Summary := match coreHh s r with
  | none => (s, [])
  | some h =>
    (upCore s r fun c => { c with sumqs := vmod c.sumqs h fun q => { q with ents := q.ents.drop n } },
      ((coreAt s r).sumqs.get h).ents.take n)
/-- SUMPOP: Xd, then Xm. -/
def sumpopInstr (s : State) (r : Rg) (xd xm : XReg) : CoreEnd :=
  let (t, xs) := popSummaries s r 1
  let bs := match xs with
    | x :: _ => summaryBytes x
    | [] => List.replicate 16 0
  .done (xPut (xPut t r xd (BitVec.ofNat 64 (leAt bs 0 8))) r xm (BitVec.ofNat 64 (leAt bs 8 8)))
def execSumpop (r : Rg) (xd xm : XReg) (s : State) : Out := .next (runInstr s r fun s => sumpopInstr s r xd xm)
/-- TSUMPOP. -/
def tsumpopInstr (s : State) (r : Rg) (xd : XReg) (t : TReg) : CoreEnd :=
  let x := tileAt s r t
  tileInstr s (tileCheck x (decide (tBpr x < 16)) false false) fun s =>
    let (u, xs) := popSummaries s r (tRows x)
    let u := if xs.isEmpty then u else upTile u r t fun y =>
      { (xs.zip (List.range xs.length)).foldl (fun y e => putRow y e.2 0 (summaryBytes e.1 ++ List.replicate (tBpr x - 16) 0)) y with
        live := true }
    .done (xPut u r xd (BitVec.ofNat 64 xs.length))
def execTsumpop (r : Rg) (xd : XReg) (t : TReg) (s : State) : Out := .next (runInstr s r fun s => tsumpopInstr s r xd t)

/- The engine instruction (R103-R107). -/

/-- Fields of the queue selector (R104). -/
def selEngine (v : Nat) : Nat := bits v 8 3
def selTarget (v : Nat) : Nat := bits v 0 6
/-- Queue that a selector names, none by row 1 of the push checks. -/
def selQueue (v : Nat) : Option QueueId :=
  if v / 2 ^ 16 ≠ 0 ∨ bits v 11 5 ≠ 0 ∨ bits v 6 2 ≠ 0 then none
  else if selTarget v > 31 then none
  else match fin? 5 (selEngine v), fin? 34 (selTarget v) with
    | some e, some k => some (.cluster k e)
    | _, _ => match fin? 8 (selTarget v) with
      | some r => if selEngine v = 5 then some (.mve r) else if selEngine v = 6 then some (.larder r) else none
      | none => none
/-- The household in CTX may push to the queue (row 3). -/
def mayPush (s : State) (h : Hh) : QueueId → Bool
  | .cluster k _ => holds s h k
  | .mve r => inRegion s h r
  | .larder r => inRegion s h r
def isAbsent (s : State) : QueueId → Bool
  | .cluster k _ => !isActive s k
  | _ => false
/-- A queue takes no push: it is full, or a job of the PSQ issues its records (R263). -/
def queueFull (s : State) (q : QueueId) (h : Hh) : Bool :=
  decide (qCount s q h ≥ 64) || match q with
    | .cluster k e => e.val == 0 && match siteOf s k with
      | some i => (setAt s i h).psq.busy && !(setAt s i h).psq.allIssued
      | none => false
    | _ => false
/-- Why a push waits at queue entry, as its stall cause: a cluster it names is being replaced or quiesces (R340, R367),
the household's lease is being replaced (R88), or the queue is full (R103). -/
def entryWait (s : State) (q : QueueId) (h : Hh) : Option (Fin 10) :=
  if entryHeld s q then some scFault
  else if s.loader.waits = some h ∨ queueFull s q h then some scQueue
  else none
/-- Push result (R106). -/
def pushWord (seq free st : Nat) : Word := BitVec.ofNat 64 (seq * 2 ^ 32 + free * 2 ^ 8 + st)
def bellCtx (s : State) (r : Rg) : State := match coreHh s r with
  | some h => errBell s h
  | none => s
/-- FREE of a push that row 1, 2 or 3 rejects: that of the queue named, where the queue is an MVE's or a larder's, which
every household shares; the queue of a household that holds no such cluster does not exist, so its FREE is open
(R106, log 28). -/
def rejectFree (s : State) : Option QueueId → Nat
  | some (.mve r) => 64 - (regAt s r).mve.ents.length
  | some (.larder r) => 64 - (regAt s r).larder.ents.length
  | _ => Config.freeNat s.fresh % 65
/-- How a push ends: with the state and the result in Xd, or waiting at the entry of a queue for a cause. -/
inductive PushEnd where
  | done (s : State) (v : Word)
  | wait (q : QueueId) (h : Hh) (c : Fin 10)
/-- The push checks and the push. A non-blocking form that would wait at entry returns QUEUE_OVERFLOW (log 28). -/
def pushOp (s : State) (r : Rg) (payload : List Byte) (sel : Nat) (blocking : Bool) : PushEnd :=
  let reject (st : Nat) (bell : Bool) : PushEnd :=
    let t := tickFresh (noteReject s r st (coreAt s r).ctx)
    .done (if bell then bellCtx t r else t) (pushWord 0 (rejectFree s (selQueue sel)) st)
  match selQueue sel with
  | none => reject stRange false
  | some q =>
    if isAbsent s q then reject stEngAbsent true
    else match coreHh s r with
      | none => reject stPerm false
      | some h =>
        if !mayPush s h q then reject stPerm true
        else
          match entryWait s q h with
          | some c => if blocking then .wait q h c else .done s (pushWord 0 (64 - qCount s q h) stOverflow)
          | none =>
            let (t, seq) := accept s q (newEntry s h (recordOf payload) (some r) 0xFFFFFFFF false)
            .done t (pushWord seq (64 - qCount t q h) stOk)
/-- An engine instruction with its payload; the suffix .S performs FENCE.W first. A stalled form has made its fence, and
its wait is counted (R103). -/
def enqInstr (s : State) (r : Rg) (sync blocking : Bool) (payload : List Byte) (xd xq : XReg) : CoreEnd :=
  let t := if sync then drainStores s r else s
  match pushOp t r payload (xNat s r xq) blocking with
  | .done u v => .done (xPut u r xd v)
  | .wait q h c => .stall (stallNote t q h c)
/-- Payload of the register forms. -/
def regPayload (s : State) (r : Rg) (xa : XReg) : List Byte :=
  (List.range 4).flatMap fun i => leBytes 8 (match fin? 32 (xa.val + i) with
    | some x => xNat s r x
    | none => 0)
/-- ENQ.X and ENQ.XN: Xa is one of X4, X8 ... X28. -/
def enqX (s : State) (r : Rg) (sync blocking : Bool) (xd xa xq : XReg) : CoreEnd :=
  if xa.val % 4 ≠ 0 ∨ xa.val = 0 then .trap s trapIllegal
  else enqInstr s r sync blocking (regPayload s r xa) xd xq
/-- ENQ.T and ENQ.TN: the checks of R109, then the push. -/
def enqT (s : State) (r : Rg) (sync blocking : Bool) (xd : XReg) (t : TReg) (xi xq : XReg) : CoreEnd :=
  let x := tileAt s r t
  let i := xNat s r xi
  tileInstr s (tileCheck x (decide (i ≥ tRows x) || decide (tBpr x < 32)) false false) fun s =>
    match enqInstr s r sync blocking (rowBytesAt x i 0 32) xd xq with
    | .stall u => tileStalled u r
    | e => e
def execEnqX (r : Rg) (sync : Bool) (xd xa xq : XReg) (s : State) : Out := .next (runInstr s r fun s => enqX s r sync true xd xa xq)
def execEnqXN (r : Rg) (sync : Bool) (xd xa xq : XReg) (s : State) : Out := .next (runInstr s r fun s => enqX s r sync false xd xa xq)
def execEnqT (r : Rg) (sync : Bool) (xd : XReg) (t : TReg) (xi xq : XReg) (s : State) : Out :=
  .next (runInstr s r fun s => enqT s r sync true xd t xi xq)
def execEnqTN (r : Rg) (sync : Bool) (xd : XReg) (t : TReg) (xi xq : XReg) (s : State) : Out :=
  .next (runInstr s r fun s => enqT s r sync false xd t xi xq)

end Sys2Proof.Machine
end

