-- ==== Sys2Proof/Machine/RegMap.lean ====
section
/-! DEFINITION. The register map: every register of BAR0 by its block, and the bytes it covers (R56, R57, R63,
R95, R117, R151-R153, R182, R200, R201, R221, R254-R256, R275, R302-R304, R335-R337, R359, R360, R377, R378,
R399, R400, R417, R418, R428, R440, R441). -/

namespace Sys2Proof.Machine

/-- Registers of the package. -/
inductive PkgReg where
  | devId | featBuilt | featActive | featReserve | featMxa | featMem | featRing | featQueue
  | clusterMap (k : Gl) | discardCount
  | imgCtrl | imgAddr | imgLen | imgStatus | imgDetail | leaseLive | deedState | deedDigest
  | selBase | poolStat (i : Fin 8)
  | foCtrl | foStat | foLog (n : Fin 64)
  | strap | bootStat | fwAddr | fwCtrl
  | dbRaise | dbEoi | dbStat | dbLost | dbTgt (t : Fin 74) | dbPend (w : Fin 16) | dbRouteLo (s : Fin 1024) | dbRouteHi (s : Fin 1024)
  | rstCause | rstTimeout | rstReq | rstStat | rstLost
  | heCtrl | heSetpoint | heMeas | heCoolant | heState | heEpoch | hePdreq | hePdstat | heAudit | heEvent | heLost
  | sbCtrl | sbCmdAddr | sbStat | sbCurve | sbEvent | sbLost
  | poLink | poPfwin | poErr
  | trId | trPort (p : Fin 16) | trEvent | trLost | trRoute (d : Fin 4096)
  | pwCtrl | pwStat | pwEvent | pwLost | pwBulk
deriving DecidableEq, Repr

/-- Registers of one household. -/
inductive HhReg where
  | cmd | cqBase | cqPtr | dtBase | dtValid (w : Fin 64)
  | ttRoot | tlbinv | fault | txCtrl | txStat | journal | poolSave | poolPro
  | sbHreq | hpend | vfWin | sqBase | sqPtr | rx | pwSeq
deriving DecidableEq, Repr

/-- Registers of one cluster window. -/
inductive ClReg where
  | id | state | qstat (e : Fin 5) | qctl | sem (n : Fin 16) | lost
  | stall (e : Fin 8) (c : Fin 10) | stallSnap (e : Fin 8) (c : Fin 10)
  | mxCtrl | mxStat | mxAbft | mxLast | mxEvent | mxLost
  | ntCfg | ntStat | ntCheck | ntEvent | ntLost
  | pmStat | pmIdxerr | pmEvent | pmLost
  | vxStat | vxSlots | vxKLo | vxKHi | vxSum | vxEvent | vxLost
  | stStat | stDefdl | stKwin (w : Fin 4) | stDlmiss | stEvent | stLost
  | xsqCtrl | xsqBase | xsqStat | xsqHq | xsqGen (w : Fin 8)
  | psCtrl | psBase | psNext | psStat | psEvent | psLost
  | pnShelf | pnZero | pnApbase | pnEvent | pnLost
  | sealSlot (n : Fin 98304)
deriving DecidableEq, Repr

/-- Registers of one region window; the tile data window by its words of 4 bytes. -/
inductive RgReg where
  | ccCtrl | ccPc | ccShape (hi : Bool) | ccTstate | ccTrap | ccPushrej | ccLost | ccSumq (h : Hh) | tileWord (n : Fin 8192)
  | ldQstat | ldQctl | ldSlot (s : Fin 4) | ldRate | ldMismatch | ldEvent | ldLost
  | ldStall (c : Fin 10) | ldStallSnap (c : Fin 10)
  | mvQstat | mvQctl | mvStat | mvStall (c : Fin 10) | mvStallSnap (c : Fin 10)
  | hwStat
deriving DecidableEq, Repr

/-- Registers of one stack's controller. -/
inductive CeReg where
  | stat | retire | thresh | event | lost | cnt (c : Fin 32) | last (c : Fin 32) | tg (c : Fin 32)
deriving DecidableEq, Repr

/-- A register of BAR0. -/
inductive Reg where
  | pkg (x : PkgReg)
  | hh (h : Hh) (x : HhReg)
  | cl (k : Gl) (x : ClReg)
  | rg (r : Rg) (x : RgReg)
  | ce (s : StackId) (x : CeReg)
deriving DecidableEq, Repr

/-- A row of a block's table: offset of the first register, distance to the next, number, bytes of each. -/
structure RegRow (α : Type) where
  lo : Nat
  step : Nat
  n : Nat
  bytes : Nat
  reg : Nat → Option α

/-- A single register of 4 or 8 bytes. -/
def reg4 {α : Type} (lo : Nat) (x : α) : RegRow α := ⟨lo, 4, 1, 4, fun _ => some x⟩
def reg8 {α : Type} (lo : Nat) (x : α) : RegRow α := ⟨lo, 8, 1, 8, fun _ => some x⟩
/-- An array of m registers. -/
def regN {α : Type} (m lo step bytes : Nat) (f : Fin m → α) : RegRow α := ⟨lo, step, m, bytes, fun i => (fin? m i).map f⟩
/-- An array of rows of m registers. -/
def regNM {α : Type} (n m lo step step2 bytes : Nat) (f : Fin n → Fin m → α) : List (RegRow α) :=
  (List.finRange n).map fun i => regN m (lo + step * i.val) step2 bytes (f i)

/-- The register that holds the byte at an offset of a block, and the byte's index in it. -/
def findReg {α : Type} (tab : List (RegRow α)) (o : Nat) : Option (α × Nat) := tab.findSome? fun r =>
  if r.lo ≤ o ∧ (o - r.lo) / r.step < r.n ∧ (o - r.lo) % r.step < r.bytes then
    (r.reg ((o - r.lo) / r.step)).map fun x => (x, (o - r.lo) % r.step)
  else none

/-- A household register of an array over households. -/
def hhRegs (lo step bytes : Nat) (x : HhReg) : RegRow Reg := regN 16 lo step bytes fun h => .hh h x

/-- House block. -/
def houseTab : List (RegRow Reg) :=
  [reg4 0x0000 (.pkg .devId), reg8 0x1000 (.pkg .featBuilt), reg8 0x1008 (.pkg .featActive), reg8 0x1010 (.pkg .featReserve),
   reg8 0x1018 (.pkg .featMxa), reg8 0x1020 (.pkg .featMem), reg8 0x1028 (.pkg .featRing), reg8 0x1030 (.pkg .featQueue),
   regN 34 0x1100 1 1 (fun k => .pkg (.clusterMap k)), reg4 0x1200 (.pkg .discardCount),
   reg4 0x2000 (.pkg .strap), reg8 0x2008 (.pkg .bootStat), reg8 0x2010 (.pkg .fwAddr), reg4 0x2018 (.pkg .fwCtrl),
   reg4 0x3000 (.pkg .imgCtrl), reg8 0x3008 (.pkg .imgAddr), reg4 0x3010 (.pkg .imgLen), reg4 0x3018 (.pkg .imgStatus),
   reg8 0x3020 (.pkg .imgDetail), reg4 0x3028 (.pkg .leaseLive), reg8 0x3030 (.pkg .deedState), reg8 0x3038 (.pkg .deedDigest),
   hhRegs 0x4000 0x40 4 .cmd, hhRegs 0x4008 0x40 8 .cqBase, hhRegs 0x4010 0x40 8 .cqPtr, hhRegs 0x4018 0x40 8 .dtBase,
   reg8 0x5000 (.pkg .selBase),
   hhRegs 0x6000 0x80 8 .ttRoot, hhRegs 0x6008 0x80 8 .tlbinv, hhRegs 0x6010 0x80 8 .fault, hhRegs 0x6018 0x80 4 .txCtrl,
   hhRegs 0x6020 0x80 8 .txStat, hhRegs 0x6028 0x80 8 .journal, hhRegs 0x6030 0x80 8 .poolSave, hhRegs 0x6038 0x80 8 .poolPro,
   regN 8 0x7000 0x40 8 (fun i => .pkg (.poolStat i))] ++
  regNM 16 64 0x8000 0x200 8 8 (fun h w => .hh h (.dtValid w)) ++
  [reg4 0xB000 (.pkg .foCtrl), reg8 0xB008 (.pkg .foStat), regN 64 0xB100 8 8 (fun n => .pkg (.foLog n)),
   hhRegs 0xC000 0x40 8 .sbHreq]

/-- Doorbell controller. -/
def doorTab : List (RegRow Reg) :=
  [reg4 0x0000 (.pkg .dbRaise), reg4 0x0008 (.pkg .dbEoi), reg8 0x0010 (.pkg .dbStat), reg4 0x0018 (.pkg .dbLost),
   regN 74 0x1000 8 4 (fun t => .pkg (.dbTgt t)), regN 16 0x2000 8 8 (fun w => .pkg (.dbPend w)), hhRegs 0x3000 8 8 .hpend,
   regN 1024 0x4000 16 8 (fun s => .pkg (.dbRouteLo s)), regN 1024 0x4008 16 8 (fun s => .pkg (.dbRouteHi s))]

/-- Reset controller. -/
def resetTab : List (RegRow Reg) :=
  [reg4 0x00 (.pkg .rstCause), reg4 0x08 (.pkg .rstTimeout), reg4 0x10 (.pkg .rstReq), reg8 0x18 (.pkg .rstStat), reg4 0x20 (.pkg .rstLost)]

/-- Hearth. -/
def hearthTab : List (RegRow Reg) :=
  [reg4 0x00 (.pkg .heCtrl), reg8 0x08 (.pkg .heSetpoint), reg8 0x10 (.pkg .heMeas), reg8 0x18 (.pkg .heCoolant), reg8 0x20 (.pkg .heState),
   reg8 0x28 (.pkg .heEpoch), reg4 0x30 (.pkg .hePdreq), reg8 0x38 (.pkg .hePdstat), reg8 0x40 (.pkg .heAudit), reg4 0x48 (.pkg .heEvent),
   reg4 0x50 (.pkg .heLost)]

/-- Strongbox. -/
def strongTab : List (RegRow Reg) :=
  [reg4 0x00 (.pkg .sbCtrl), reg8 0x08 (.pkg .sbCmdAddr), reg8 0x10 (.pkg .sbStat), reg4 0x18 (.pkg .sbCurve), reg4 0x20 (.pkg .sbEvent),
   reg4 0x28 (.pkg .sbLost)]

/-- Porch control. -/
def porchTab : List (RegRow Reg) :=
  [reg4 0x00 (.pkg .poLink), reg4 0x08 (.pkg .poPfwin), reg8 0x10 (.pkg .poErr), hhRegs 0x100 8 8 .vfWin]

/-- Terrace ports and party wall. -/
def terraceTab : List (RegRow Reg) :=
  [reg4 0x0000 (.pkg .trId), regN 16 0x0100 8 8 (fun p => .pkg (.trPort p)), reg4 0x0200 (.pkg .trEvent), reg4 0x0208 (.pkg .trLost),
   hhRegs 0x1000 0x40 8 .sqBase, hhRegs 0x1008 0x40 8 .sqPtr, hhRegs 0x1010 0x40 8 .rx,
   regN 4096 0x4000 4 4 (fun d => .pkg (.trRoute d)),
   reg4 0x8000 (.pkg .pwCtrl), reg8 0x8008 (.pkg .pwStat), reg4 0x8010 (.pkg .pwEvent), reg4 0x8018 (.pkg .pwLost), reg8 0x8020 (.pkg .pwBulk),
   hhRegs 0x8100 8 8 .pwSeq]

/-- A cluster window. -/
def clusterTab : List (RegRow ClReg) :=
  [reg4 0x0000 .id, reg4 0x0008 .state, regN 5 0x0010 8 8 .qstat, reg4 0x0040 .qctl, regN 16 0x0100 8 4 .sem, reg4 0x0200 .lost] ++
  regNM 8 10 0x1000 0x80 8 8 .stall ++ regNM 8 10 0x1800 0x80 8 8 .stallSnap ++
  [reg4 0x10000 .mxCtrl, reg4 0x10008 .mxStat, reg8 0x10010 .mxAbft, reg8 0x10018 .mxLast, reg4 0x10020 .mxEvent, reg4 0x10028 .mxLost,
   reg4 0x20000 .ntCfg, reg8 0x20008 .ntStat, reg8 0x20010 .ntCheck, reg4 0x20018 .ntEvent, reg4 0x20020 .ntLost,
   reg4 0x30000 .pmStat, reg8 0x30008 .pmIdxerr, reg4 0x30010 .pmEvent, reg4 0x30018 .pmLost,
   reg4 0x40000 .vxStat, reg4 0x40008 .vxSlots, reg8 0x40010 .vxKLo, reg8 0x40018 .vxKHi, reg8 0x40020 .vxSum, reg4 0x40028 .vxEvent,
   reg4 0x40030 .vxLost,
   reg4 0x50000 .stStat, reg4 0x50008 .stDefdl, regN 4 0x50010 8 8 .stKwin, reg8 0x50030 .stDlmiss, reg4 0x50038 .stEvent, reg4 0x50040 .stLost,
   reg4 0x60000 .xsqCtrl, reg8 0x60008 .xsqBase, reg8 0x60010 .xsqStat, reg8 0x60018 .xsqHq, regN 8 0x60100 8 8 .xsqGen,
   reg4 0x68000 .psCtrl, reg8 0x68008 .psBase, reg4 0x68010 .psNext, reg8 0x68018 .psStat, reg4 0x68020 .psEvent, reg4 0x68028 .psLost,
   reg4 0x70000 .pnShelf, reg4 0x70008 .pnZero, reg4 0x70010 .pnApbase, reg4 0x70018 .pnEvent, reg4 0x70020 .pnLost,
   regN 98304 0xA0000 4 4 .sealSlot]

/-- A region window. -/
def regionTab : List (RegRow RgReg) :=
  [reg4 0x0000 .ccCtrl, reg8 0x0008 .ccPc, reg8 0x0010 (.ccShape false), reg8 0x0018 (.ccShape true), reg4 0x0020 .ccTstate, reg8 0x0028 .ccTrap,
   reg4 0x0030 .ccPushrej, reg4 0x0038 .ccLost, regN 16 0x0100 8 4 .ccSumq, regN 8192 0x10000 4 4 .tileWord,
   reg8 0x40000 .ldQstat, reg4 0x40008 .ldQctl, regN 4 0x40010 8 8 .ldSlot, reg8 0x40030 .ldRate, reg8 0x40038 .ldMismatch, reg4 0x40040 .ldEvent,
   reg4 0x40048 .ldLost, regN 10 0x41000 8 8 .ldStall, regN 10 0x41800 8 8 .ldStallSnap,
   reg8 0x80000 .mvQstat, reg4 0x80008 .mvQctl, reg8 0x80010 .mvStat, regN 10 0x81000 8 8 .mvStall, regN 10 0x81800 8 8 .mvStallSnap,
   reg8 0xC0000 .hwStat]

/-- The window of a stack's controller. -/
def cellarTab : List (RegRow CeReg) :=
  [reg4 0x0000 .stat, reg8 0x0008 .retire, reg4 0x0010 .thresh, reg4 0x0018 .event, reg4 0x0020 .lost,
   regN 32 0x1000 0x10 8 .cnt, regN 32 0x1008 0x10 8 .last, regN 32 0x2000 0x10 8 .tg]

/-- The register that holds the byte at a BAR0 offset (R56). -/
def regOf (off : Nat) : Option (Reg × Nat) :=
  let m := off % 0x100000
  if off < 0x0100000 then findReg houseTab m
  else if off < 0x0200000 then findReg doorTab m
  else if off < 0x0300000 then findReg resetTab m
  else if off < 0x0400000 then findReg hearthTab m
  else if off < 0x0500000 then findReg strongTab m
  else if off < 0x0600000 then findReg porchTab m
  else if off < 0x0700000 then findReg terraceTab m
  else if off < 0x1000000 then none
  else if off < 0x3200000 then (match fin? 34 ((off - 0x1000000) / 0x100000) with
    | some k => (findReg clusterTab m).map fun x => (.cl k x.1, x.2)
    | none => none)
  else if off < 0x3400000 then none
  else if off < 0x3C00000 then (match fin? 8 ((off - 0x3400000) / 0x100000) with
    | some r => (findReg regionTab m).map fun x => (.rg r x.1, x.2)
    | none => none)
  else if off < 0x3E00000 then (match fin? 8 ((off - 0x3C00000) / 0x40000) with
    | some s => (findReg cellarTab (off % 0x40000)).map fun x => (.ce s x.1, x.2)
    | none => none)
  else none

/-- Bytes of an access that lie in registers: index in the access, register, index in the register (R58). -/
def covered (off size : Nat) : List (Nat × Reg × Nat) :=
  (List.range size).filterMap fun j => (regOf (off + j)).map fun x => (j, x.1, x.2)
/-- The registers of an access, each once, in rising order. -/
def coveredRegs (off size : Nat) : List Reg :=
  (covered off size).foldl (fun rs e => if rs.contains e.2.1 then rs else rs ++ [e.2.1]) []
/-- Size and alignment that R58 allows. -/
def accessOk (off size : Nat) : Bool := (size == 4 || size == 8) && off % size == 0

end Sys2Proof.Machine
end

