-- ==== Sys2Proof/Machine/RegRead.lean ====
section
/-! DEFINITION. What each register reads as. -/

namespace Sys2Proof.Machine

/-- A word from its fields, each as (lowest bit, width, value); reserved bits read as zero (R9). -/
def fld (fs : List (Nat × Nat × Nat)) : Nat := fs.foldl (fun a f => a + f.2.2 % 2 ^ f.2.1 * 2 ^ f.1) 0
/-- A one-bit field. -/
def flag (n : Nat) (b : Bool) : Nat × Nat × Nat := (n, 1, b2n b)
/-- A value that the spec leaves open while a condition holds, zero otherwise (log 29). -/
def liveFree (on : Bool) (s : State) (j : Nat) : Nat := if on then (Config.freeWordAt s.fresh j).toNat else 0

/- Package registers. -/

/-- ACTIVE and RESERVE masks. -/
def featRead (s : State) : PkgReg → Nat
  | .featActive => maskOf 32 fun k => match fin? 34 k with
      | some k => isActive s k
      | none => false
  | .featReserve => fld [flag 33 (reserveAvail s 1), flag 32 (reserveAvail s 0), (0, 32, maskOf 32 fun k => match fin? 34 k with
      | some i => (siteAt s i).retired
      | none => false)]
  | _ => 0

def imgRead (s : State) : PkgReg → Nat
  | .imgCtrl => fld [(24, 2, s.loader.op), flag 20 s.loader.src, (0, 4, s.loader.hh)]
  | .imgAddr => s.loader.addr % 2 ^ 64
  | .imgLen => s.loader.len % 2 ^ 21
  | .imgStatus => fld [flag 31 s.loader.busy, flag 30 s.loader.done, flag 29 s.loader.overrun, (8, 8, s.loader.status), (0, 8, s.loader.reason)]
  | .imgDetail => fld [(56, 8, s.loader.sect), (0, 32, s.loader.offset)]
  | .leaseLive => maskOf 16 fun h => match fin? 16 h with
      | some h => (hhAt s h).lease.isSome
      | none => false
  | .deedState => match s.deed with
      | some d => fld [flag 63 true, (0, 32, d.sequence)]
      | none => 0
  | .deedDigest => deedDigest s
  | _ => 0

def poolRead (s : State) (i : Fin 8) : Nat :=
  let p := s.pools.get i
  fld [(32, 32, p.switches), (20, 12, p.lastUs), flag 16 (p.stage != .none), flag 15 p.last.isSome,
    (8, 4, (p.running <|> p.last).elim 0 Fin.val), (0, 8, cdiv p.left 10)]

def logRead (e : LogEnt) : Nat :=
  fld [(32, 32, e.ms), (28, 4, e.event), (20, 6, e.phys), (12, 8, e.status), (8, 4, e.hh), (0, 8, e.unit)]

def foRead (s : State) : PkgReg → Nat
  | .foCtrl => fld [flag 8 s.fo.degrade, (0, 6, s.fo.cluster)]
  | .foStat => fld [(48, 16, s.fo.replaced), (32, 16, s.fo.lastUs), flag 31 s.fo.degraded, (8, 6, s.fo.head), (0, 8, s.fo.regionFaults)]
  | .foLog n => logRead (s.fo.log.get n)
  | _ => 0

def bootRead (s : State) : PkgReg → Nat
  | .strap =>
    let p := s.boot.strap
    fld [flag 31 p.valid, flag 30 p.ambiguous, (26, 2, strapRole p), (24, 2, strapSource p),
      flag 23 (p.valid && decide (10 ≤ p.code) && decide (p.code ≤ 12)), flag 22 (p.valid && p.code == 13), (16, 4, p.code), (0, 11, p.mv)]
  | .bootStat => fld [(32, 32, if s.boot.stage = 15 then s.boot.timeUs else s.us), (16, 8, s.boot.error), (8, 8, s.boot.status),
      flag 4 s.boot.warm, (0, 4, s.boot.stage)]
  | .fwAddr => s.boot.fwAddr % 2 ^ 64
  | .fwCtrl => fld [flag 30 s.boot.fwBusy, (0, 23, s.boot.fwLen)]
  | _ => 0

def doorRead (s : State) : PkgReg → Nat
  | .dbStat => fld [(32, 32, s.db.delivered), (16, 16, s.db.merged), (0, 16, s.db.spurious)]
  | .dbLost => s.db.lost % 2 ^ 16
  | .dbTgt t => let g := s.db.tgts.get t
      fld [flag 31 g.enable, flag 30 g.busy, (0, 10, g.active)]
  | .dbPend w => s.db.pend.get w % 2 ^ 64
  | .dbRouteLo i => spGet 0 s.db.mask i.val % 2 ^ 64
  | .dbRouteHi i => fld [(16, 7, spGet 73 s.db.last i.val), (0, 10, spGet 0 s.db.mask i.val / 2 ^ 64)]
  | _ => 0

def resetRead (s : State) : PkgReg → Nat
  | .rstCause => fld [flag 15 s.rst.cellarKept, flag 14 s.rst.wasServing, flag 9 s.rst.thermtrip, flag 8 s.rst.houseCrit,
      flag 7 s.rst.watchdog, flag 6 s.rst.perst, flag 5 s.rst.resetPin, flag 4 s.rst.por, flag 3 s.rst.porch, flag 2 s.rst.region,
      flag 1 s.rst.cluster, flag 0 s.rst.block]
  | .rstTimeout => s.rst.timeout % 2 ^ 14
  | .rstReq => s.rst.reqBlock % 2 ^ 8
  | .rstStat => fld [(48, 16, s.rst.forcedCount), (32, 16, s.rst.lastUs), flag 31 s.rst.active.isSome, flag 30 s.rst.forced,
      flag 29 s.rst.refused, flag 28 s.rst.overrun, (0, 8, s.rst.lastBlock)]
  | .rstLost => s.rst.lost % 2 ^ 16
  | _ => 0

def hearthRead (s : State) : PkgReg → Nat
  | .heCtrl => fld [flag 8 s.hearth.mode, (0, 5, s.hearth.enable)]
  | .heSetpoint => fld [(48, 16, s.hearth.outletDc), (32, 16, s.hearth.slew), (16, 8, s.hearth.band), (0, 16, s.hearth.setpoint)]
  | .heMeas => fld [(48, 16, s.hearth.pW), (32, 16, s.hearth.refW), (16, 16, s.hearth.capW), (8, 8, s.hearth.tj)]
  | .heCoolant => fld [(48, 16, s.hearth.inlet), (32, 16, s.hearth.outlet), (16, 16, s.hearth.inletSet)]
  | .heState => fld [(48, 16, (s.hearth.u / 1000).toNat), (8, 6, s.hearth.theta), flag 7 s.hearth.capped,
      (0, 5, maskOf 5 fun j => s.hearth.running.any fun x => x.kind == j + 1)]
  | .heEpoch => fld [(32, 32, s.hearth.epoch), (0, 16, s.hearth.periodMs)]
  | .hePdreq => fld [flag 30 s.hearth.pdBusy, flag 8 s.hearth.pdOn, (0, 6, s.hearth.pdDomain)]
  | .hePdstat => s.hearth.domains % 2 ^ 64
  | .heAudit => fld [(48, 16, s.hearth.mismatches), (40, 6, s.hearth.auSite), (0, 17, s.hearth.auSlot)]
  | .heEvent => fld [flag 5 s.hearth.evOverrun, flag 4 s.hearth.evPdRefused, flag 3 s.hearth.evAudit, flag 2 s.hearth.evSensor,
      flag 1 s.hearth.evJguard, flag 0 s.hearth.evCap]
  | .heLost => s.hearth.lost % 2 ^ 16
  | _ => 0

def strongRead (s : State) : PkgReg → Nat
  | .sbCtrl => fld [flag 0 s.sb.overrun]
  | .sbCmdAddr => s.sb.cmdAddr % 2 ^ 39
  | .sbStat => fld [(32, 32, s.sb.elapsed + liveFree s.sb.cur.isSome s 0), flag 31 s.sb.cur.isSome,
      flag 30 (match s.sb.cur with
        | some x => sbSuspended x
        | none => false), (16, 8, s.sb.owner), (8, 8, s.sb.op), (0, 8, s.sb.status)]
  | .sbCurve => slotMask s % 2 ^ 8
  | .sbEvent => fld [flag 2 s.sb.evWiped, flag 1 s.sb.evPreempt, flag 0 s.sb.evDone]
  | .sbLost => s.sb.lost % 2 ^ 16
  | _ => 0

def porchRead (s : State) : PkgReg → Nat
  | .poLink => fld [flag 31 s.porch.up, flag 30 s.porch.flit, (8, 4, s.porch.speed), (0, 5, s.porch.width)]
  | .poPfwin => s.porch.pfWin % 8
  | .poErr => fld [(48, 16, s.porch.ur), (32, 16, s.porch.ca), (16, 16, s.porch.poisoned), (0, 16, s.porch.discarded)]
  | _ => 0

def portCode : PortState → Nat
  | .off => 0
  | .training => 1
  | .hello => 2
  | .active => 3
  | .failed => 4

def terraceRead (s : State) : PkgReg → Nat
  | .trId => fld [flag 31 s.terr.claimed.isSome, (16, 12, s.terr.claimed.getD 0), (0, 12, match s.deed with
      | some d => d.terraceId
      | none => 0)]
  | .trPort p =>
    let x := portAt s ⟨p.val, by omega⟩
    fld [(48, 16, x.detours), (32, 16, x.replays), (24, 8, x.bad), flag 19 x.dup, (16, 3, portCode x.state), (0, 16, x.neighbour)]
  | .trEvent => fld [(16, 16, s.terr.drops), flag 2 s.terr.evRouteLost, flag 1 s.terr.evFenced, flag 0 s.terr.evPortFail]
  | .trLost => s.terr.lost % 2 ^ 16
  | .trRoute d => spGet 0 s.terr.routes d.val % 2 ^ 32
  | .pwStat => fld [(61, 3, roleCode s.pw.role), flag 60 s.pw.paired, flag 59 s.pw.linkUp, flag 58 s.pw.pinAlive, flag 57 s.pw.synced,
      (32, 2, min s.pw.missed 3), (16, 16, s.pw.twinId)]
  | .pwEvent => fld [flag 4 s.pw.evPairFail, flag 3 s.pw.evPartition, flag 2 s.pw.evLinkDown, flag 1 s.pw.evDeposed, flag 0 s.pw.evTakeover]
  | .pwLost => s.pw.lost % 2 ^ 16
  | .pwBulk => fld [flag 62 s.pw.bulkBusy, (42, 20, s.pw.bulkFrames), (16, 23, s.pw.bulkBase / 65536)]
  | _ => 0

/-- A package register. -/
def pkgRead (s : State) (x : PkgReg) : Nat := match x with
  | .devId => devId s
  | .featBuilt => 0x3FFFFFFFF
  | .featActive | .featReserve => featRead s x
  | .featMxa => fld [(40, 8, 0x50), (32, 8, 0x20), (24, 8, 4), (16, 8, 0x3F), (8, 8, 7), (0, 8, 0x80)]
  | .featMem => fld [(48, 16, 0x200), (40, 8, 2), (32, 8, 0x30), (28, 4, 4), (16, 12, 0xC00), (0, 16, 0x3000)]
  | .featRing => fld [(40, 8, 0x11), (32, 8, 0x0C), (24, 8, 0x12), (16, 8, 0x1F), (8, 8, 0x10), (0, 8, 0x3C)]
  | .featQueue => fld [(56, 8, 0x10), (48, 8, 8), (40, 8, 8), (32, 8, 0x40), (16, 16, 0x1000), (12, 4, 0xA), (0, 12, 0x200)]
  | .clusterMap k => s.map.get k % 64
  | .discardCount => fld [(16, 16, s.discFunc), (0, 16, s.discCount)]
  | .imgCtrl | .imgAddr | .imgLen | .imgStatus | .imgDetail | .leaseLive | .deedState | .deedDigest => imgRead s x
  | .selBase => s.selBase / 2 ^ 19 % 2 ^ 20 * 2 ^ 19
  | .poolStat i => poolRead s i
  | .foCtrl | .foStat | .foLog _ => foRead s x
  | .strap | .bootStat | .fwAddr | .fwCtrl => bootRead s x
  | .dbRaise | .dbEoi => 0
  | .dbStat | .dbLost | .dbTgt _ | .dbPend _ | .dbRouteLo _ | .dbRouteHi _ => doorRead s x
  | .rstCause | .rstTimeout | .rstReq | .rstStat | .rstLost => resetRead s x
  | .heCtrl | .heSetpoint | .heMeas | .heCoolant | .heState | .heEpoch | .hePdreq | .hePdstat | .heAudit | .heEvent | .heLost => hearthRead s x
  | .sbCtrl | .sbCmdAddr | .sbStat | .sbCurve | .sbEvent | .sbLost => strongRead s x
  | .poLink | .poPfwin | .poErr => porchRead s x
  | .trId | .trPort _ | .trEvent | .trLost | .trRoute _ | .pwCtrl | .pwStat | .pwEvent | .pwLost | .pwBulk => terraceRead s x

/-- A register of household h. -/
def hhRead (s : State) (h : Hh) : HhReg → Nat
  | .cmd => fld [(8, 2, modeOf s h), (4, 2, match (hhAt s h).lease with
      | some l => l.naming
      | none => 0), flag 0 (hhAt s h).cmd.handle]
  | .cqBase => let c := (hhAt s h).cmd
      fld [(12, 36, c.cqBase / 4096), flag 7 c.cqEnable, (0, 5, c.cqLog2)]
  | .cqPtr => fld [(32, 32, (hhAt s h).cmd.cqHead), (0, 32, (hhAt s h).cmd.cqTail)]
  | .dtBase => (hhAt s h).cmd.dtBase / 4096 % 2 ^ 36 * 4096
  | .dtValid w => (hhAt s h).cmd.dtValid.get w % 2 ^ 64
  | .ttRoot => fld [(12, 27, (hhAt s h).tr.root / 4096), flag 0 (hhAt s h).tr.valid]
  | .tlbinv => let t := (hhAt s h).tr
      fld [flag 62 t.tlbBusy, (48, 5, t.tlbSpan), (16, 32, t.tlbVa / 65536)]
  | .fault => let t := (hhAt s h).tr
      fld [(56, 8, t.faultStatus), (52, 4, t.faultAgent), (0, 48, t.faultVa)]
  | .txCtrl => 0
  | .txStat => let t := (hhAt s h).tx
      fld [(32, 32, t.seq), flag 31 t.opened, flag 30 t.committing, flag 29 t.replay, flag 28 t.aborted, (16, 8, t.cause), (8, 8, t.result)]
  | .journal => fld [(43, 21, (hhAt s h).tx.writeSet.length), (12, 27, (hhAt s h).tx.journal / 4096)]
  | .poolSave => (hhAt s h).pool.save / 2 ^ 21 % 2 ^ 18 * 2 ^ 21
  | .poolPro => fld [(57, 7, (hhAt s h).pool.proCount), (6, 42, (hhAt s h).pool.proVa / 64)]
  | .sbHreq => let b := (hhAt s h).sb
      fld [flag 60 b.pending, flag 59 b.overrun, (48, 8, b.status), (6, 42, b.va / 64)]
  | .hpend => maskOf 48 fun j => dbPending s (hhSrc h j)
  | .vfWin => (hhAt s h).vfWin % 2 ^ 12 * 2 ^ 36
  | .sqBase => let t := (hhAt s h).terr
      fld [(12, 36, t.sqBase / 4096), flag 7 t.sqEnable, (0, 4, t.sqLog2)]
  | .sqPtr => let t := (hhAt s h).terr
      fld [flag 62 t.sqHalted, (16, 16, t.sqHead), (0, 16, t.sqTail)]
  | .rx => let t := (hhAt s h).terr
      fld [flag 63 t.rxEnable, (48, 8, t.rxLast), (32, 16, t.rxFaults), (0, 16, t.rxPeer)]
  | .pwSeq => fld [(32, 32, (hhAt s h).mirrored), (0, 32, if s.pw.role = .primary then (hhAt s h).shipped else 0)]

/- Cluster registers. -/

def shelfCode : Shelf → Nat
  | .off => 0
  | .waking => 1
  | .on => 2
  | .retain => 3
/-- Bits of the shelves that satisfy p. -/
def shelfBits (c : SiteSt) (p : Shelf → Bool) : Nat := maskOf 4 fun j => match c.shelves[j]? with
  | some x => p x
  | none => false
def kwCode : KwState → Nat
  | .closed => 0
  | .opened => 1
  | .bound => 2
  | .filled => 3
  | .failed => 4
/-- The set that the site shows: that of the household served. -/
def shownSet (s : State) (i : Site) : Option HSet := (siteAt s i).served.map (setAt s i)
def shown (s : State) (i : Site) (f : HSet → Nat) : Nat := ((shownSet s i).map f).getD 0
/-- The lease of the household served. -/
def shownLease (s : State) (i : Site) : Option Lease := (siteAt s i).served.bind fun h => (hhAt s h).lease
/-- A command other than NOP and SETGEO runs in an engine, with an opcode of a list if one is given. -/
def engineBusy (s : State) (i : Site) (e : Fin 5) (ops : List Nat) : Bool := match shownSet s i with
  | some t => (t.queues.get e).ents.any fun x => x.phase == .running && !noOperands x.cmd && (ops.isEmpty || ops.contains x.cmd.opcode)
  | none => false

/-- The served household runs in timed mode, and its sequencer or a compute engine works. -/
def timedRuns (s : State) (i : Site) : Bool := match (siteAt s i).served with
  | some h => modeOf s h == 2 && ((setAt s i h).xsq.run ||
      (List.finRange 5).any fun e => decide (e.val < 4) && ((setAt s i h).queues.get e).ents.any fun x => x.phase == .running)
  | none => false
/-- FROZEN (R144): a freeze whose wait the model holds, the start ramp, or while a timed cluster works one of bank
conflicts, seal re-reads and throttling, whose moments are open (log 7). -/
def frozenShown (s : State) (i : Site) : Bool :=
  (siteAt s i).frozen.isSome || (timedRuns s i && ((siteAt s i).mx.rampUp || Config.freeBool s.fresh 905))
/-- The array of a timed household issues dummy vectors: its program runs and the MXA holds no record (R175). -/
def dummyActive (s : State) (i : Site) : Bool := match (siteAt s i).served with
  | some h => modeOf s h == 2 && (setAt s i h).xsq.run && !(siteAt s i).mx.rampUp &&
      !((setAt s i h).queues.get 0).ents.any fun x => x.phase == .running
  | none => false
/-- A PME command of the cluster waits for a landing buffer (R149, R201). -/
def lbWaiting (s : State) (i : Site) : Bool :=
  allRegions.any fun r => (regAt s r).lbWait.any fun w => siteOf s w.1 == some i && lbWaits s w

def qstatRead (q : EQueue) : Nat :=
  fld [(32, 32, q.doneSeq), flag 31 q.halted, flag 30 (match q.ents.head? with
    | some e => e.phase == .suspended
    | none => false), (16, 8, q.lastStatus), (0, 7, q.ents.length)]

def stallRead (v : Vector (Vector Nat 10) 8) (e : Fin 8) (c : Fin 10) : Nat := (v.get e).get c % 2 ^ 64

def mxRead (s : State) (i : Site) : ClReg → Nat
  | .mxCtrl => (siteAt s i).mx.ramp % 128
  | .mxStat => let m := (siteAt s i).mx
      fld [flag 31 (engineBusy s i 0 []), flag 30 m.rampUp, flag 29 (m.rampDown || dummyActive s i), (26, 3, m.step), (24, 2, m.shape),
        flag 23 (engineBusy s i 0 [0x03]), (20, 3, m.format), (8, 8, shown s i fun t => maskOf 8 fun j => match t.msets[j]? with
          | some x => x.valid
          | none => false)]
  | .mxAbft => let m := (siteAt s i).mx
      fld [(48, 16, m.retries), (32, 16, m.fails), (16, 16, m.nonfinite), (0, 16, m.accCorrected)]
  | .mxLast => let m := (siteAt s i).mx
      fld [(32, 32, m.lastSeq), (30, 2, m.lastGroup), flag 29 m.retryPassed, (0, 16, m.lastPos)]
  | .mxEvent => let m := (siteAt s i).mx
      fld [flag 2 m.evAccCorr, flag 1 m.evFail, flag 0 m.evRetry]
  | _ => 0

def ntRead (s : State) (i : Site) : ClReg → Nat
  | .ntCfg => match shownLease s i with
      | some l => fld [(16, 5, l.log2n), (8, 4, rowLog2 l), flag 7 (shown s i (fun t => b2n t.roots) == 1), (0, 7, chainLen l)]
      | none => 0
  | .ntStat => let busy := engineBusy s i 1 []
      fld [(32, 32, (siteAt s i).nt.limbsDone), flag 31 busy, (30, 1, liveFree busy s 1), flag 29 (engineBusy s i 1 [0x23, 0x24]),
        (0, 7, (siteAt s i).nt.chainPos)]
  | .ntCheck => let n := (siteAt s i).nt
      fld [(48, 16, n.retries), (32, 16, n.fails), (0, 32, n.lastSeq)]
  | .ntEvent => fld [flag 1 (siteAt s i).nt.evFail, flag 0 (siteAt s i).nt.evRetry]
  | _ => 0

def pmRead (s : State) (i : Site) : ClReg → Nat
  | .pmStat => let busy := engineBusy s i 2 [0x43, 0x44]
      fld [flag 31 (engineBusy s i 2 []), flag 30 (lbWaiting s i), (29, 1, liveFree busy s 2), flag 28 (engineBusy s i 2 [0x42]),
        (0, 18, (siteAt s i).pm.lastG)]
  | .pmIdxerr => fld [(32, 32, (siteAt s i).pm.errSeq), (0, 32, (siteAt s i).pm.errPos)]
  | .pmEvent => fld [flag 0 (siteAt s i).pm.evIdx]
  | _ => 0

/-- Lengths that VL can have while the VXE's command runs: those of the strips of a chain's destination, a whole strip or none
in progress for RESCALECT, none for the loads (R202). -/
def vlShown (s : State) (i : Site) : Nat := match (shownSet s i).bind fun t => (t.queues.get 3).ents.find? fun x => x.phase == .running && !noOperands x.cmd with
  | none => 0
  | some x =>
    let pick (vs : List Nat) : Nat := vs.getD (Config.freeNat (s.fresh + 3) % vs.length) 0
    match x.cmd.opcode, x.opD with
    | 0x61, .pantry d _ => pick ((if 512 ≤ d.inner then [512] else []) ++ (if d.inner % 512 = 0 then [] else [d.inner % 512]))
    | 0x62, .pantry d _ => pick ((if 512 ≤ d.inner then [512] else []) ++ (if d.inner % 512 = 0 then [] else [d.inner % 512]))
    | 0x65, _ => pick [0, 512]
    | _, _ => 0
def vxRead (s : State) (i : Site) : ClReg → Nat
  | .vxStat => let busy := engineBusy s i 3 []
      fld [flag 31 busy, flag 30 (engineBusy s i 3 [0x62]), flag 29 (engineBusy s i 3 [0x65]),
        flag 28 (shown s i (fun t => b2n ((t.queues.get 3).ents.any fun e => e.sumStalled)) == 1), (16, 4, (siteAt s i).vx.slot),
        (0, 10, vlShown s i)]
  | .vxSlots => shown s i fun t => maskOf 16 fun j => match t.progs[j]? with
      | some x => x.valid
      | none => false
  | .vxKLo => shown s i fun t => maskOf 64 fun j => match t.consts[j]? with
      | some x => x.isSome
      | none => false
  | .vxKHi => shown s i fun t => maskOf 12 fun j => match t.consts[64 + j]? with
      | some x => x.isSome
      | none => false
  | .vxSum => fld [(32, 32, (siteAt s i).vx.sent), (0, 16, (siteAt s i).vx.stalls)]
  | .vxEvent => fld [flag 1 (siteAt s i).vx.evAccFail, flag 0 (siteAt s i).vx.evSumStall]
  | _ => 0

def kwinRead (w : KWin) : Nat :=
  fld [(56, 8, w.status), (53, 3, kwCode w.state), (30, 18, w.g), (24, 6, w.level), (11, 13, w.base / 4096), (0, 11, w.blocks)]
def stRead (s : State) (i : Site) : ClReg → Nat
  | .stStat => let n := shown s i fun t => ((t.queues.get 4).ents.filter fun x => x.phase != .queued).length
      fld [flag 31 (decide (n ≠ 0)), (24, 4, n), (0, 10, tagsHeld (siteAt s i).st.streams)]
  | .stDefdl => match shownSet s i with
      | some t => t.defDl % 65536
      | none => 0x100
  | .stKwin w => shown s i fun t => kwinRead (t.wins.get w)
  | .stDlmiss => fld [(32, 32, (siteAt s i).st.dlSeq), (0, 16, (siteAt s i).st.dlCount)]
  | .stEvent => fld [flag 1 (siteAt s i).st.evDlMiss, flag 0 (siteAt s i).st.evWinFail]
  | _ => 0

def xsqRead (s : State) (i : Site) : ClReg → Nat
  | .xsqCtrl => shown s i fun t => t.xsq.entry % 65536
  | .xsqBase => shown s i fun t => t.xsq.base / 64 % 2 ^ 42 * 64
  | .xsqStat => shown s i fun t => fld [(32, 32, t.xsq.pc), flag 31 t.xsq.run, flag 30 (frozenShown s i), flag 29 t.xsq.suspended,
      (16, 8, t.xsq.lastStatus), (0, 16, t.xsq.checks)]
  | .xsqHq => shown s i fun t => fld ((List.finRange 8).map fun n => (8 * n.val, 5, (t.hqs.get n).length))
  | .xsqGen w => shown s i fun t => fld ((List.range 8).map fun j => (8 * j, 8, (t.xsq.gen.toList.getD (8 * w.val + j) 0)))
  | _ => 0

def psRead (s : State) (i : Site) : ClReg → Nat
  | .psCtrl => shown s i fun t => fld [flag 16 t.psq.enable, (8, 4, t.psq.doneSem), (0, 4, t.psq.trigSem)]
  | .psBase => shown s i fun t => t.psq.base / 64 % 2 ^ 42 * 64
  | .psNext => shown s i fun t => t.psq.next % 2 ^ 32
  | .psStat => shown s i fun t => fld [(32, 32, t.psq.job), flag 31 t.psq.busy, flag 30 t.psq.suspended, flag 29 t.psq.failed,
      (16, 8, t.psq.lastStatus), (0, 7, t.psq.limb)]
  | .psEvent => shown s i fun t => fld [flag 1 t.psq.evFail, flag 0 t.psq.evSusp]
  | _ => 0

def pnRead (s : State) (i : Site) : ClReg → Nat
  | .pnShelf => fld [(8, 8, (List.range 4).foldl (fun a j => a + ((siteAt s i).shelves.toList.getD j .off |> shelfCode) * 4 ^ j) 0),
      (0, 4, (siteAt s i).mask)]
  | .pnZero => fld [flag 31 (siteAt s i).pn.zeroBusy, (0, 16, (siteAt s i).pn.zeroCount)]
  | .pnApbase => (siteAt s i).pn.apBase % 128
  | .pnEvent => fld [flag 1 (siteAt s i).pn.evShelfRef, flag 0 (siteAt s i).pn.evZeroDone]
  | _ => 0

/-- Lost-clear counter j of a site. -/
def lostRead (s : State) (i : Site) (j : Fin 8) : Nat := (siteAt s i).lost.get j % 65536

/-- A register of site i, reached through the window of k. -/
def clRead (s : State) (k : Gl) (i : Site) (x : ClReg) : Nat := match x with
  | .id => fld [flag 31 (fusedSite s i), flag 30 (decide (32 ≤ i.val)), flag 29 (siteAt s i).retired,
      (8, 6, if fusedSite s i then 0x3F else k.val), (0, 6, i.val)]
  | .state => fld [flag 31 true, (16, 5, (siteAt s i).served.elim 0x1F Fin.val), flag 11 (shown s i (fun t => b2n t.xsq.run) == 1),
      flag 10 (frozenShown s i), (0, 4, shelfBits (siteAt s i) fun x => x == .on || x == .waking)]
  | .qstat e => shown s i fun t => qstatRead (t.queues.get e)
  | .qctl => fld [(8, 3, (siteAt s i).qctl)]
  | .sem n => shown s i fun t => fld [flag 16 (t.sems.get n).ovf, (0, 16, (t.sems.get n).count)]
  | .stall e c => stallRead (siteAt s i).stallLive e c
  | .stallSnap e c => stallRead (siteAt s i).stallLatched e c
  | .lost => lostRead s i 0
  | .mxLost => lostRead s i 1
  | .ntLost => lostRead s i 2
  | .pmLost => lostRead s i 3
  | .vxLost => lostRead s i 4
  | .stLost => lostRead s i 5
  | .psLost => lostRead s i 6
  | .pnLost => lostRead s i 7
  | .mxCtrl | .mxStat | .mxAbft | .mxLast | .mxEvent => mxRead s i x
  | .ntCfg | .ntStat | .ntCheck | .ntEvent => ntRead s i x
  | .pmStat | .pmIdxerr | .pmEvent => pmRead s i x
  | .vxStat | .vxSlots | .vxKLo | .vxKHi | .vxSum | .vxEvent => vxRead s i x
  | .stStat | .stDefdl | .stKwin _ | .stDlmiss | .stEvent => stRead s i x
  | .xsqCtrl | .xsqBase | .xsqStat | .xsqHq | .xsqGen _ => xsqRead s i x
  | .psCtrl | .psBase | .psNext | .psStat | .psEvent => psRead s i x
  | .pnShelf | .pnZero | .pnApbase | .pnEvent => pnRead s i x
  | .sealSlot n => spGet 0 (siteAt s i).seals n.val % 2 ^ 32

/- Region registers. -/

/-- The core is halted for debug, with no step due (R117). -/
def coreHalted (c : Core) : Bool := c.halted && !c.stepArmed
def ccRead (s : State) (r : Rg) : RgReg → Nat
  | .ccCtrl => let c := coreAt s r
      fld [flag 31 c.haltReq, flag 29 (coreHalted c), (8, 2, c.level), (0, 5, c.ctx)]
  | .ccPc => if coreHalted (coreAt s r) then (coreAt s r).pc.toNat else 0
  | .ccShape hi => fld ((List.range 4).map fun j => (16 * j, 16, match (coreAt s r).tiles[(if hi then 4 else 0) + j]? with
      | some t => shapeBits t
      | none => 0))
  | .ccTstate => fld [flag 16 (coreAt s r).tdefWait, (8, 8, maskOf 8 fun j => match (coreAt s r).tiles[j]? with
      | some t => t.conf
      | none => false), (0, 8, liveBits (coreAt s r))]
  | .ccTrap => let t := (coreAt s r).trap
      fld [(56, 3, t.tile), (48, 5, t.ctx), (40, 8, t.sub), (28, 12, t.row), (16, 12, t.count), (8, 8, t.kind), (0, 8, t.code)]
  | .ccPushrej => let c := coreAt s r
      fld [(24, 8, c.rejStatus), (19, 5, c.rejCtx), (0, 16, c.rejCount)]
  | .ccLost => (coreAt s r).lost % 65536
  | .ccSumq h => sumqRead ((coreAt s r).sumqs.get h)
  | .tileWord n => if coreHalted (coreAt s r) then
      leNat (rowBytesAt (tileAt s r ⟨n.val / 1024 % 8, by omega⟩) (n.val / 64 % 16) (n.val % 64 * 4) 4) else 0
  | _ => 0

/-- Halted households of a region queue. -/
def haltBits (q : RQueue) : Nat := maskOf 16 fun h => q.halted.toList.getD h false
/-- Subscribers of a slot's STREAM whose windows are BOUND now (R255). -/
def slotBound (s : State) (r : Rg) (x : LdSlot) : Nat :=
  match (regAt s r).larder.ents.find? fun e => e.hh.val == x.hh && e.seq == x.seq && e.phase != .queued with
  | none => 0
  | some e => maskOf 4 fun j => x.bound.testBit j && (fin? 4 j).any fun c => (siteOf s (clusterOf r c)).any fun i =>
      (winOf s i e.hh (strWin e.cmd)).state == .bound
def ldRead (s : State) (r : Rg) : RgReg → Nat
  | .ldQstat => let g := regAt s r
      fld [(32, 32, g.larder.doneSeq), (16, 16, haltBits g.larder), (7, 9, g.ld.dlMiss), (0, 7, g.larder.ents.length)]
  | .ldQctl => fld [(8, 4, (regAt s r).larder.qctl)]
  | .ldSlot j => let x := (regAt s r).ld.slots.get j
      fld [flag 63 x.active, (59, 4, x.hh), (55, 4, x.subs), (51, 4, slotBound s r x), (40, 11, x.left), (0, 32, x.seq)]
  | .ldRate => fld [(32, 32, (regAt s r).ld.regenKw), (16, 16, (regAt s r).ld.short)]
  | .ldMismatch => let x := (regAt s r).ld
      fld [(56, 8, x.mmStatus), (52, 4, x.mmHh), (50, 2, x.mmCluster), (32, 16, x.mmCount), (0, 32, x.mmSeq)]
  | .ldEvent => let x := (regAt s r).ld
      fld [flag 3 x.evPrexDrop, flag 2 x.evPrexDone, flag 1 x.evDlMiss, flag 0 x.evMismatch]
  | .ldLost => (regAt s r).ldLost % 65536
  | .ldStall c => (regAt s r).ldStall.get c % 2 ^ 64
  | .ldStallSnap c => (regAt s r).ldLatched.get c % 2 ^ 64
  | _ => 0

/-- The MVE command that waits for a pool quantum (R287). -/
def poolWaiter (s : State) (r : Rg) : Option Entry := match runningEntry s (.mve r) 0xA1 with
  | some e => if poolWaits s (.mve r) e e.opA false || poolWaits s (.mve r) e e.opD true then some e else none
  | none => match nextToStart s (.mve r) with
  | some e => match takeWait s (.mve r) e with
    | some t => match decode t (.mve r) e with
      | .good a _ d => if !noOperands e.cmd && (poolWaits s (.mve r) e a false || poolWaits s (.mve r) e d true) then some e else none
      | .bad _ _ => none
    | none => none
  | none => none
def mvRead (s : State) (r : Rg) : RgReg → Nat
  | .mvQstat => let g := regAt s r
      fld [(32, 32, g.mve.doneSeq), (16, 16, haltBits g.mve), (0, 7, g.mve.ents.length)]
  | .mvQctl => fld [(8, 4, (regAt s r).mve.qctl)]
  | .mvStat => let g := regAt s r
      let cur := match g.mve.ents.find? fun e => e.phase != .queued with
        | some e => some e
        | none => poolWaiter s r
      fld [flag 63 (g.mve.ents.any fun e => e.phase == .running), flag 62 (match g.mve.ents.head? with
          | some e => e.phase == .suspended
          | none => false), flag 61 (poolWaiter s r).isSome, (57, 4, cur.elim 0 fun e => e.hh.val), (32, 9, tagsHeld g.mve.streams),
        (0, 32, cur.elim 0 fun e => e.seq)]
  | .mvStall c => (regAt s r).mvStall.get c % 2 ^ 64
  | .mvStallSnap c => (regAt s r).mvLatched.get c % 2 ^ 64
  | .hwStat => fld [(32, 32, (regAt s r).ld.hwMcast), (0, 32, (regAt s r).ld.hwBlocks)]
  | _ => 0

/-- Which block of the region window holds a register: 0 control core, 1 larder, 2 MVE and hallway. -/
def rgBlock : RgReg → Nat
  | .ccCtrl | .ccPc | .ccShape _ | .ccTstate | .ccTrap | .ccPushrej | .ccLost | .ccSumq _ | .tileWord _ => 0
  | .ldQstat | .ldQctl | .ldSlot _ | .ldRate | .ldMismatch | .ldEvent | .ldLost | .ldStall _ | .ldStallSnap _ => 1
  | .mvQstat | .mvQctl | .mvStat | .mvStall _ | .mvStallSnap _ | .hwStat => 2
def rgRead (s : State) (r : Rg) (x : RgReg) : Nat :=
  if rgBlock x = 0 then ccRead s r x else if rgBlock x = 1 then ldRead s r x else mvRead s r x

/- Cellar registers. -/

def ceRead (s : State) (k : StackId) (x : CeReg) : Nat :=
  let t := s.cellar.stackSts.get k
  match x with
  | .stat => fld [flag 31 t.trained, (0, 8, t.temp)]
  | .retire => fld [flag 62 t.auto, (59, 3, t.state), (48, 5, t.channel),
      (0, 23, if t.state = 1 then (Config.freeWordAt s.fresh 40).toNat % (reserveLg + 1) else t.progress)]
  | .thresh => fld [(24, 8, t.ueLimit), (0, 16, t.ceLimit)]
  | .event => fld [flag 2 t.evRetired, flag 1 t.evUe, flag 0 t.evLimit]
  | .lost => t.lost % 65536
  | .cnt c => let y := t.chans.get c
      fld [(48, 16, y.ue), (32, 16, y.ce), (16, 16, y.odc), (0, 16, y.scrubs)]
  | .last c => let y := t.chans.get c
      fld [flag 63 y.lastUe, (0, 31, y.lastGr)]
  | .tg c => let y := t.chans.get c
      fld [flag 62 y.tgBusy, (60, 2, y.tgPattern), (58, 2, y.tgMix), (32, 16, y.tgErrors), (0, 32, y.tgLength)]

/-- The site that a window reaches: the serving one, or the last that served (R59). -/
def windowSite (s : State) (k : Gl) : Site := (siteOf s k).getD (s.lastSite.get k)

/-- What a register holds; access rights and power are the access's matter. -/
def regRead (s : State) : Reg → Nat
  | .pkg x => pkgRead s x
  | .hh h x => hhRead s h x
  | .cl k x => clRead s k (windowSite s k) x
  | .rg r x => rgRead s r x
  | .ce k x => ceRead s k x

end Sys2Proof.Machine
end

