-- ==== Sys2Proof/Machine/RegWrite.lean ====
section
/-! DEFINITION. Accesses to the register map: rights, power, the effect of a write on each register, reads that
clear, the pantry aperture, mirrored writes and the management bus (R9, R12, R13, R58-R62, R69, R101, R347, R450). -/

namespace Sys2Proof.Machine

/- Rights (R58, R62, R69, R101, R396). -/

/-- Registers of a household that its virtual function and the control cores do not reach (R336). -/
def hhReserved : HhReg → Bool
  | .ttRoot | .poolSave => true
  | _ => false
/-- Registers of a household that no control core reaches (R400, R428). -/
def coreHidden : HhReg → Bool
  | .hpend | .vfWin => true
  | _ => false
/-- Package registers that a control core reaches at MON (R95, R101, R400, R428, R440). -/
def coreReachesPkg (r : Rg) : PkgReg → Bool
  | .imgCtrl | .imgAddr | .imgLen | .imgStatus | .imgDetail | .leaseLive | .deedState | .deedDigest => false
  | .sbCtrl | .sbCmdAddr | .sbStat | .sbCurve | .sbEvent | .sbLost => false
  | .poPfwin => false
  | .dbRaise | .dbStat | .dbLost | .dbPend _ | .dbRouteLo _ | .dbRouteHi _ => false
  | .dbTgt t => t.val == r.val
  | _ => true
/-- Region registers that only the region's own core reaches among the cores (R117, R255, R303). -/
def ownCoreOnly : RgReg → Bool
  | .ccSumq _ => false
  | .ldQctl | .mvQctl => true
  | x => rgBlock x == 0
/-- The agent reaches a register at all. -/
def mayReach (s : State) (a : Agent) (x : Reg) : Bool := match a, x with
  | .pf, _ | .house, _ => true
  | .vf h, .hh g y => g == h && !hhReserved y
  | .vf h, .cl k _ => vfSees s h k
  | .vf h, .rg _ (.ccSumq g) => g == h
  | .vf _, .pkg .dbRaise | .vf _, .pkg .dbEoi => true
  | .vf _, .pkg (.dbTgt t) => ownsTarget s a t.val
  | .vf _, _ => false
  | .cc r, .pkg y => coreReachesPkg r y
  | .cc _, .hh _ y => !hhReserved y && !coreHidden y
  | .cc r, .rg q y => q == r || !ownCoreOnly y
  | .cc _, .cl _ _ | .cc _, .ce _ _ => true
/-- The agent reads a register: a control core only writes DB_EOI (R428). -/
def mayRead (s : State) (a : Agent) (x : Reg) : Bool := mayReach s a x && match a, x with
  | .cc _, .pkg .dbEoi => false
  | _, _ => true
/-- Writes of the register belong to the physical function and the house cores (R182, R359, R360, R378, R399, R418,
R428; R336 for the journal; R304 for a write of START). -/
def pfWrites (v : Nat) : Reg → Bool
  | .pkg (.dbTgt t) => decide (t.val < 10)
  | .pkg .foCtrl | .pkg .pwCtrl | .pkg .pwBulk | .pkg .rstCause | .pkg .rstTimeout | .pkg .rstReq | .pkg .rstStat | .pkg .rstLost => true
  | .pkg .heCtrl | .pkg .heSetpoint | .pkg .heCoolant | .pkg .heEpoch | .pkg .hePdreq => true
  | .pkg (.trRoute _) | .pkg (.dbRouteLo _) | .pkg (.dbRouteHi _) => true
  | .hh _ .journal | .cl _ .mxCtrl => true
  | .ce _ .retire => v.testBit 63
  | _ => false
def mayWrite (s : State) (a : Agent) (x : Reg) (v : Nat) : Bool :=
  mayReach s a x && (pfOrHouse a || !pfWrites v x) && (x != .pkg .selBase || a == .house)

/- Power and reset (R59, R118). -/

/-- The block of a package or household register answers. The registers of a port follow their terrace half, those of the
party wall and of the porch their own domain; the spec gives the terrace's package-level and household registers (TR_ID,
TR_EVENT, TR_LOSTCLR, TR_ROUTE_d, TR_SQ_*, TR_RX_h) no domain of the two halves: they answer always (DESIGN CHOICE, log 22).
The house, doorbell and reset blocks, the Hearth and the Strongbox lie in no domain that switches. -/
def pkgUp (s : State) : PkgReg → Bool
  | .poLink | .poPfwin | .poErr => domainIsOn s 63
  | .trPort p => domainIsOn s (60 + p.val / 8)
  | .pwCtrl | .pwStat | .pwEvent | .pwLost | .pwBulk => domainIsOn s 62
  | _ => true
def rgUp (s : State) (r : Rg) (x : RgReg) : Bool := if rgBlock x = 1 then larderUp s r else regionUp s r
/-- The register answers reads. -/
def readUp (s : State) : Reg → Bool
  | .pkg x => pkgUp s x
  | .hh _ .pwSeq => domainIsOn s 62
  | .hh _ .vfWin => domainIsOn s 63
  | .hh _ _ => true
  | .cl _ .id | .cl _ .pnShelf => true
  | .cl k _ =>
    let i := windowSite s k
    domainIsOn s i.val && !fusedSite s i && (!(siteAt s i).inReset || (siteAt s i).retired)
  | .rg r x => rgUp s r x
  | .ce k _ => domainIsOn s (50 + k.val)
/-- The register takes writes. -/
def writeUp (s : State) : Reg → Bool
  | .cl k _ => match siteOf s k with
    | some i => siteWritable s i
    | none => false
  | .rg r (.tileWord n) => rgUp s r (.tileWord n) && coreHalted (coreAt s r)
  | x => readUp s x

/- The effect of a write. -/

/-- A write as one register sees it: what the register read before, the bits written with the others kept, the bits
written alone, and the flags that hardware sets in the same cycle. -/
structure RegW where
  old : Nat
  w : Nat
  v : Nat
  hw : Nat
deriving DecidableEq, Repr

/-- A W1C flag at bit n. -/
def RegW.flag (x : RegW) (n : Nat) (old : Bool) : Bool := w1c old (x.v.testBit n) (x.hw.testBit n)
/-- A clear of one of the flags of mask m is discarded in this cycle (R12, R13). -/
def RegW.lost (x : RegW) (m : Nat) : Bool := decide (x.old &&& x.v &&& x.hw &&& m ≠ 0)
/-- Hardware sets a flag of mask m. -/
def RegW.sets (x : RegW) (m : Nat) : Bool := decide (x.hw &&& m ≠ 0)
/-- The doorbell of event flags that hardware sets. -/
def bellIf (on : Bool) (s : State) (src : Nat) : State := if on then raise s src else s
def noteLost (s : State) (lost : Bool) : State := { s with houseLost := lostInc s.houseLost lost }
/-- A field within its range, or as it was. -/
def ranged (lo hi v old : Nat) : Nat := if lo ≤ v ∧ v ≤ hi then v else old

/- Household registers (R136, R139, R153, R336, R389, R399, R400, R428, R441). -/

/-- HEAD moves within the words written (R153); held words may then enter the ring. -/
def cqHeadOp (s : State) (h : Hh) (n : Nat) : State :=
  let c := (hhAt s h).cmd
  if (n + 2 ^ 32 - c.cqHead) % 2 ^ 32 > (c.cqTail + 2 ^ 32 - c.cqHead) % 2 ^ 32 then s
  else
    let s := upCmd s h fun c => { c with cqHead := n }
    if c.cqFault then s else ringDrain s h
def txCtrlOp (s : State) (h : Hh) (v : Nat) : State :=
  if v.testBit 29 then txAbortOp s h else if v.testBit 30 then txCommitOp s h
  else if v.testBit 31 then txOpenOp s h (v.testBit 28) else s
/-- SB_HREQ_h: ABORT before RESUME, then GO (log 30). -/
def hreqOp (s : State) (h : Hh) (x : RegW) : State :=
  let s := noteLost s (x.lost (2 ^ 59))
  let s := upSb s h fun q => { q with va := bits x.w 6 42 * 64, overrun := x.flag 59 q.overrun }
  let s := if x.v.testBit 61 then settle (sbAbortBy s (.hh h)) else if x.v.testBit 62 then sbResumeOp s (.hh h) else s
  if x.v.testBit 63 then sbHreqOp s h (bits x.w 6 42 * 64) else s
def sqBaseOp (s : State) (h : Hh) (w : Nat) : State := upTerr s h fun t =>
  let on := w.testBit 7 && !t.sqEnable
  { t with
    sqBase := bits w 12 36 * 4096, sqEnable := w.testBit 7, sqLog2 := ranged 4 12 (w % 16) t.sqLog2
    sqHead := if on then 0 else t.sqHead, sqTail := if on then 0 else t.sqTail }
/-- DB_HPEND_h: the bits written clear, then the raises of the same cycle stand (R12). -/
def hpendOp (s : State) (h : Hh) (x : RegW) : State :=
  let s := { s with db := { s.db with lost := lostInc s.db.lost (x.lost (2 ^ 48 - 1)) } }
  let s := (List.range 48).foldl (fun t j => if x.v.testBit j then { t with db := dbSetPend t.db (hhSrc h j) false } else t) s
  (List.range 48).foldl (fun t j => if x.hw.testBit j then raise t (hhSrc h j) else t) s

def hhWrite (s : State) (h : Hh) (x : RegW) : HhReg → State
  | .cmd => match (hhAt s h).lease with
    | some l => if l.naming = 2 then noteLost (upCmd s h fun c => { c with handle := x.w.testBit 0 || x.hw.testBit 0 })
        (x.hw.testBit 0 && x.old.testBit 0 && !x.w.testBit 0) else s
    | none => s
  | .cqBase => cqBaseOp s h x.w
  | .cqPtr => cqHeadOp s h (bits x.w 32 32)
  | .dtBase => upCmd s h fun c => { c with dtBase := bits x.w 12 36 * 4096 }
  | .dtValid w => dtValidOp s h w x.w
  | .ttRoot => upTr s h fun t => { t with root := bits x.w 12 27 * 4096, valid := x.w.testBit 0 }
  | .tlbinv => tlbinvOp s h x.w
  | .txCtrl => txCtrlOp s h x.v
  | .txStat => upTx (noteLost s (x.lost (2 ^ 28))) h fun t => { t with aborted := x.flag 28 t.aborted }
  | .journal => upTx s h fun t => { t with journal := bits x.w 12 27 * 4096 }
  | .poolSave => upHh s h fun y => { y with pool := { y.pool with save := bits x.w 21 18 * 2 ^ 21 } }
  | .poolPro => upHh s h fun y => { y with pool := { y.pool with
      proCount := ranged 0 64 (bits x.w 57 7) y.pool.proCount, proVa := bits x.w 6 42 * 64 } }
  | .sbHreq => hreqOp s h x
  | .hpend => hpendOp s h x
  | .vfWin => upHh s h fun y => { y with vfWin := bits x.w 36 12 }
  | .sqBase => sqBaseOp s h x.w
  | .sqPtr =>
    let s := sqTailOp s h (x.w % 65536)
    if x.v.testBit 63 then sqResumeOp s h else s
  | .rx => upTerr s h fun t => { t with rxEnable := x.w.testBit 63, rxPeer := x.w % 65536 }
  | .fault | .pwSeq => s

/- Package registers. -/

/-- Image bytes that a GO written here fetches: the write carries none, so they are free (log 20). -/
def freeImage (s : State) (len : Nat) : Option (List Byte) := some ((List.range len).map (Config.freeByte s.fresh))
/-- IMG_CTRL (R88, R95). -/
def imgCtrlOp (s : State) (a : Agent) (x : RegW) : State :=
  if x.v.testBit 31 && s.loader.busy then { s with loader := { s.loader with overrun := true } }
  else
    let h := hhOf x.w
    let img := freeImage s s.loader.len
    let s := { s with loader := { s.loader with op := bits x.w 24 2, src := x.w.testBit 20, hh := h.val } }
    if !x.v.testBit 31 then s
    else match s.loader.op with
      | 0 => loaderGo (tickFresh s) a 0 none (loadDeedOp img)
      | 1 => loaderGo (tickFresh s) a 1 (some h) (loadLeaseOp h img)
      | 2 => loaderGo s a 2 (some h) (retireLeaseOp h)
      | _ => loaderGo s a 3 none fun s => loaderEnd s (some ⟨stImgForm, 0x01, 0xFF, 0⟩)
def imgWrite (s : State) (a : Agent) (x : RegW) : PkgReg → State
  | .imgCtrl => imgCtrlOp s a x
  | .imgAddr => { s with loader := { s.loader with addr := x.w % 2 ^ 64 } }
  | .imgLen => { s with loader := { s.loader with len := x.w % 2 ^ 21 } }
  | .imgStatus =>
    let s := noteLost s (x.lost (2 ^ 30 + 2 ^ 29))
    bellIf (x.sets (2 ^ 30)) { s with loader := { s.loader with
      done := x.flag 30 s.loader.done, overrun := x.flag 29 s.loader.overrun } } 1
  | _ => s

/-- FO_CTRL (R339, R353, R359). -/
def foCtrlOp (s : State) (w : Nat) : State :=
  let s := { s with fo := { s.fo with degrade := w.testBit 8, cluster := w % 64 } }
  let s := match w.testBit 31, fin? 32 (w % 64) with
    | true, some k => foRetireOp s k
    | _, _ => s
  if w.testBit 30 then yieldOp s else s
/-- Firmware registers, written while start-up stands at step 3 (R374, R377). -/
def fwCtrlOp (s : State) (w : Nat) : State := bootFwOp (tickFresh s) w (freeImage s (w % 2 ^ 23))

def dbPendOp (s : State) (n : Fin 16) (x : RegW) : State :=
  let s := { s with db := { s.db with
    lost := lostInc s.db.lost (x.lost (2 ^ 64 - 1)), pend := vmod s.db.pend n fun p => p - (p &&& x.v) } }
  (List.range 64).foldl (fun t b => if x.hw.testBit b then raise t (64 * n.val + b) else t) s
def doorWrite (s : State) (a : Agent) (x : RegW) : PkgReg → State
  | .dbRaise => dbRaiseOp s a x.v
  | .dbEoi => dbEoiOp s a (bits x.v 16 7) x.v
  | .dbTgt t => { s with db := { s.db with tgts := vmod s.db.tgts t fun g => { g with enable := x.w.testBit 31 } } }
  | .dbPend n => dbPendOp s n x
  | _ => s

def resetWrite (s : State) (x : RegW) : PkgReg → State
  | .rstCause =>
    let r := s.rst
    { s with rst := { r with
      thermtrip := x.flag 9 r.thermtrip, houseCrit := x.flag 8 r.houseCrit, watchdog := x.flag 7 r.watchdog, perst := x.flag 6 r.perst
      resetPin := x.flag 5 r.resetPin, por := x.flag 4 r.por, porch := x.flag 3 r.porch, region := x.flag 2 r.region
      cluster := x.flag 1 r.cluster, block := x.flag 0 r.block, lost := lostInc r.lost (x.lost 1023) } }
  | .rstTimeout => { s with rst := { s.rst with timeout := ranged 1 10000 (x.w % 2 ^ 14) s.rst.timeout } }
  | .rstReq => rstReqOp s x.w
  | .rstStat => { s with rst := { s.rst with
      refused := x.flag 29 s.rst.refused, overrun := x.flag 28 s.rst.overrun, lost := lostInc s.rst.lost (x.lost (2 ^ 29 + 2 ^ 28)) } }
  | _ => s

/-- Hearth registers; a field outside its range of R73 keeps its value (R418). -/
def hearthWrite (s : State) (x : RegW) : PkgReg → State
  | .heCtrl => upHe s fun h => { h with
      mode := if x.w.testBit 8 && !sensorBus s then h.mode else x.w.testBit 8, enable := x.w % 32 }
  | .heSetpoint => upHe s fun h => { h with
      outletDc := ranged 400 700 (bits x.w 48 16) h.outletDc, slew := ranged 5 500 (bits x.w 32 16) h.slew
      band := ranged 5 100 (bits x.w 16 8) h.band, setpoint := ranged 600 1800 (bits x.w 0 16) h.setpoint }
  | .heCoolant => upHe s fun h => { h with inletSet := bits x.w 16 16 }
  | .heEpoch =>
    let s := upHe s fun h => { h with periodMs := bits x.w 0 16 }
    if x.v.testBit 31 then marker s else s
  | .hePdreq => pdReqOp s x.w
  | .heEvent => bellIf (x.sets 63) (upHe s fun h => { h with
      evOverrun := x.flag 5 h.evOverrun, evPdRefused := x.flag 4 h.evPdRefused, evAudit := x.flag 3 h.evAudit
      evSensor := x.flag 2 h.evSensor, evJguard := x.flag 1 h.evJguard, evCap := x.flag 0 h.evCap
      lost := lostInc h.lost (x.lost 63) }) 3
  | _ => s

/-- SB_CTRL: ABORT before RESUME, then GO (log 30). -/
def sbCtrlOp (s : State) (a : Agent) (x : RegW) : State :=
  let o := sbOwnerOf a
  let s := upSbx s fun b => { b with overrun := x.flag 0 b.overrun, lost := lostInc b.lost (x.lost 1) }
  let s := if x.v.testBit 29 then settle (sbAbortBy s o) else if x.v.testBit 30 then sbResumeOp s o else s
  if x.v.testBit 31 then sbGoOp s o else s
def strongWrite (s : State) (a : Agent) (x : RegW) : PkgReg → State
  | .sbCtrl => sbCtrlOp s a x
  | .sbCmdAddr => upSbx s fun b => { b with cmdAddr := bits x.w 6 33 * 64 }
  | .sbEvent => bellIf (x.sets 7) (upSbx s fun b => { b with
      evWiped := x.flag 2 b.evWiped, evPreempt := x.flag 1 b.evPreempt, evDone := x.flag 0 b.evDone
      lost := lostInc b.lost (x.lost 7) }) 2
  | _ => s

def terraceWrite (s : State) (x : RegW) : PkgReg → State
  | .poPfwin => { s with porch := { s.porch with pfWin := x.w % 8 } }
  | .trEvent => bellIf (x.sets 7) { s with terr := { s.terr with
      evRouteLost := x.flag 2 s.terr.evRouteLost, evFenced := x.flag 1 s.terr.evFenced, evPortFail := x.flag 0 s.terr.evPortFail
      lost := lostInc s.terr.lost (x.lost 7) } } 5
  | .trRoute d => routeWriteOp s d x.w false
  | .pwCtrl => if x.v.testBit 31 then takeover s else s
  | .pwEvent => bellIf (x.sets 31) { s with pw := { s.pw with
      evPairFail := x.flag 4 s.pw.evPairFail, evPartition := x.flag 3 s.pw.evPartition, evLinkDown := x.flag 2 s.pw.evLinkDown
      evDeposed := x.flag 1 s.pw.evDeposed, evTakeover := x.flag 0 s.pw.evTakeover, lost := lostInc s.pw.lost (x.lost 31) } } 4
  | .pwBulk => pwBulkOp s x.w
  | _ => s

/-- A package register. -/
def pkgWrite (s : State) (a : Agent) (x : RegW) (y : PkgReg) : State := match y with
  | .selBase => if s.deed.isSome then s else { s with selBase := bits x.w 19 20 * 2 ^ 19 }
  | .foCtrl => foCtrlOp s x.w
  | .fwAddr => if s.boot.stage = 3 then upBoot s fun b => { b with fwAddr := x.w % 2 ^ 64 } else s
  | .fwCtrl => fwCtrlOp s x.w
  | .imgCtrl | .imgAddr | .imgLen | .imgStatus => imgWrite s a x y
  | .dbRaise | .dbEoi | .dbTgt _ | .dbPend _ => doorWrite s a x y
  | .rstCause | .rstTimeout | .rstReq | .rstStat => resetWrite s x y
  | .heCtrl | .heSetpoint | .heCoolant | .heEpoch | .hePdreq | .heEvent => hearthWrite s x y
  | .sbCtrl | .sbCmdAddr | .sbEvent => strongWrite s a x y
  | .poPfwin | .trEvent | .trRoute _ | .pwCtrl | .pwEvent | .pwBulk => terraceWrite s x y
  | _ => s

/- Cluster, region and cellar registers. -/

def siteLostIf (s : State) (i : Site) (j : Fin 8) (lost : Bool) : State :=
  upSite s i fun c => { c with lost := vmod c.lost j fun n => lostInc n lost }
/-- Event flags of a cluster block: `j` is its lost-clear counter, `m` the flags, `f` the flags after the write. -/
def siteEvent (s : State) (i : Site) (j : Fin 8) (m : Nat) (x : RegW) (f : SiteSt → SiteSt) : State :=
  bellIf (x.sets m) (siteLostIf (upSite s i f) i j (x.lost m)) (16 + i.val)

/-- CL_QCTL: FLUSH before RESUME (R151). -/
def qctlOp (s : State) (k : Gl) (i : Site) (w : Nat) : State :=
  let s := upSite s i fun c => { c with qctl := bits w 8 3 }
  if w.testBit 1 then settle (clQctl s k (bits w 8 3) true) else if w.testBit 0 then clQctl s k (bits w 8 3) false else s
/-- XSQ_CTRL: STOP before START (R152). -/
def xsqCtrlOp (s : State) (k : Gl) (i : Site) (h : Hh) (w : Nat) : State :=
  let s := upXsq s i h fun q => { q with entry := w % 65536 }
  let s := if w.testBit 30 then settle (xsqStopOp s k) else if w.testBit 31 then xsqStartOp s k (w % 65536) else s
  if w.testBit 29 then xsqResumeOp s k else s
/-- PS_CTRL: SKIP before RESUME; ENABLE is ignored in timed mode (R257, R275). -/
def psCtrlOp (s : State) (k : Gl) (i : Site) (h : Hh) (w : Nat) : State :=
  let s := upPsq s i h fun q => { q with
    enable := if modeOf s h = 2 then q.enable else w.testBit 16, doneSem := bits w 8 4, trigSem := w % 16 }
  if w.testBit 30 then psSkipOp s k else if w.testBit 31 then psResumeOp s k else s
/-- Registers that show the household served take a write while one is served. -/
def servedWrite (s : State) (i : Site) (f : Hh → State) : State := match (siteAt s i).served with
  | some h => f h
  | none => s
/-- A seal slot of a shelf that is ON (R302). -/
def slotWrite (s : State) (i : Site) (n v : Nat) : State := match (siteAt s i).shelves.toList[shelfOfSlot n]? with
  | some .on => upSite s i fun c => { c with seals := spSet 0 c.seals n (v % 2 ^ 32) }
  | _ => s

def clWrite (s : State) (k : Gl) (i : Site) (x : RegW) : ClReg → State
  | .qctl => qctlOp s k i x.w
  | .sem n => clSemOp s k n x.w none
  | .mxCtrl =>
    let n := x.w % 128
    upSite s i fun c => { c with mx := { c.mx with ramp := if n % 8 = 0 then ranged 16 64 n c.mx.ramp else c.mx.ramp } }
  | .mxEvent => siteEvent s i 1 7 x fun c => { c with mx := { c.mx with
      evAccCorr := x.flag 2 c.mx.evAccCorr, evFail := x.flag 1 c.mx.evFail, evRetry := x.flag 0 c.mx.evRetry } }
  | .ntEvent => siteEvent s i 2 3 x fun c => { c with nt := { c.nt with
      evFail := x.flag 1 c.nt.evFail, evRetry := x.flag 0 c.nt.evRetry } }
  | .pmEvent => siteEvent s i 3 1 x fun c => { c with pm := { c.pm with evIdx := x.flag 0 c.pm.evIdx } }
  | .vxEvent => siteEvent s i 4 3 x fun c => { c with vx := { c.vx with
      evAccFail := x.flag 1 c.vx.evAccFail, evSumStall := x.flag 0 c.vx.evSumStall } }
  | .stDefdl => servedWrite s i fun h => upSet s i h fun t => { t with defDl := ranged 1 65535 (x.w % 65536) t.defDl }
  | .stEvent => siteEvent s i 5 3 x fun c => { c with st := { c.st with
      evDlMiss := x.flag 1 c.st.evDlMiss, evWinFail := x.flag 0 c.st.evWinFail } }
  | .xsqCtrl => servedWrite s i fun h => xsqCtrlOp s k i h x.w
  | .xsqBase => servedWrite s i fun h => upXsq s i h fun q => { q with base := bits x.w 6 42 * 64 }
  | .psCtrl => servedWrite s i fun h => psCtrlOp s k i h x.w
  | .psBase => servedWrite s i fun h => upPsq s i h fun q => { q with base := bits x.w 6 42 * 64 }
  | .psNext => servedWrite s i fun h => upPsq s i h fun q => { q with next := if q.busy then q.next else x.w % 2 ^ 32 }
  | .psEvent => servedWrite s i fun h => siteEvent s i 6 3 x fun c => { c with sets := vmod c.sets h fun t => { t with
      psq := { t.psq with evFail := x.flag 1 t.psq.evFail, evSusp := x.flag 0 t.psq.evSusp } } }
  | .pnApbase => upSite s i fun c => { c with pn := { c.pn with apBase := ranged 0 95 (x.w % 128) c.pn.apBase } }
  | .pnEvent => siteEvent s i 7 3 x fun c => { c with pn := { c.pn with
      evShelfRef := x.flag 1 c.pn.evShelfRef, evZeroDone := x.flag 0 c.pn.evZeroDone } }
  | .sealSlot n => slotWrite s i n.val x.w
  | _ => s

/-- CC_CTRL: STEP acts on a core that was halted and stays so (R117). -/
def ccCtrlOp (s : State) (r : Rg) (w : Nat) : State :=
  let was := coreHalted (coreAt s r)
  let s := ccHaltOp s r (w.testBit 31)
  if w.testBit 30 && w.testBit 31 && was then ccStepOp s r else s
/-- A word of the tile data window (R117, R118). -/
def tileWordOp (s : State) (r : Rg) (n : Fin 8192) (w : Nat) : State :=
  upTile s r ⟨n.val / 1024 % 8, by omega⟩ fun t => putRow t (n.val / 64 % 16) (n.val % 64 * 4) (leBytes 4 w)

def rgWrite (s : State) (r : Rg) (x : RegW) : RgReg → State
  | .ccCtrl => ccCtrlOp s r x.w
  | .ccSumq h => sumqWrite s r h x.v (x.hw.testBit 16)
  | .tileWord n => tileWordOp s r n x.w
  | .ldQctl =>
    let h := hhOf (bits x.w 8 4)
    let s := upReg s r fun g => { g with larder := { g.larder with qctl := h.val } }
    if x.v.testBit 1 then ldQctlOp s r h true else if x.v.testBit 0 then ldQctlOp s r h false else s
  | .mvQctl =>
    let h := hhOf (bits x.w 8 4)
    let s := upReg s r fun g => { g with mve := { g.mve with qctl := h.val } }
    if x.v.testBit 1 then mvQctlOp s r h true else if x.v.testBit 0 then mvQctlOp s r h false else s
  | .ldEvent => bellIf (x.sets 15) (upReg s r fun g => { g with
      ldLost := lostInc g.ldLost (x.lost 15)
      ld := { g.ld with
        evPrexDrop := x.flag 3 g.ld.evPrexDrop, evPrexDone := x.flag 2 g.ld.evPrexDone, evDlMiss := x.flag 1 g.ld.evDlMiss
        evMismatch := x.flag 0 g.ld.evMismatch } }) (64 + r.val)
  | _ => s

def ceWrite (s : State) (k : StackId) (x : RegW) : CeReg → State
  | .retire =>
    let s := upStack s k fun t => { t with auto := x.w.testBit 62, channel := bits x.w 48 5 }
    if x.v.testBit 63 then retireStartOp s k (chanIn (bits x.w 48 5)) else s
  | .thresh => upStack s k fun t => { t with ueLimit := bits x.w 24 8, ceLimit := x.w % 65536 }
  | .event => bellIf (x.sets 7) (upStack s k fun t => { t with
      evRetired := x.flag 2 t.evRetired, evUe := x.flag 1 t.evUe, evLimit := x.flag 0 t.evLimit, lost := lostInc t.lost (x.lost 7) })
      (8 + k.val)
  | .tg c => tgGo s k c x.w
  | _ => s

/-- The effect of a permitted write on one register. -/
def regWrite (s : State) (a : Agent) (x : RegW) : Reg → State
  | .pkg y => pkgWrite s a x y
  | .hh h y => hhWrite s h x y
  | .cl k y => match siteOf s k with
    | some i => clWrite s k i x y
    | none => s
  | .rg r y => rgWrite s r x y
  | .ce k y => ceWrite s k x y

/- The pantry aperture (R280, R282). -/

/-- An aperture access at an offset of its 128 KiB; none when it is denied. -/
def apertureAt (s : State) (a : Agent) (k : Gl) (off size : Nat) (write : Bool) : Option (Site × Nat) :=
  let i := windowSite s k
  let up := if write then (match siteOf s k with
    | some j => siteWritable s j
    | none => false) else domainIsOn s i.val && !fusedSite s i && (!(siteAt s i).inReset || (siteAt s i).retired)
  if accessOk off size && decide (off < 0x20000) && pfOrHouse a && (siteAt s i).served.isNone && up then
    some (i, (siteAt s i).pn.apBase * 0x20000 + off) else none
/-- A shelf that is not ON refuses the access. -/
def shelfOn (s : State) (i : Site) (addr : Nat) : Bool := match (siteAt s i).shelves.toList[shelfOfAddr addr]? with
  | some .on => true
  | _ => false
def apertureWrite (s : State) (a : Agent) (k : Gl) (off size v : Nat) : State := match apertureAt s a k off size true with
  | none => discard s a
  | some (i, p) =>
    if shelfOn s i p then upSite s i fun c => { c with pantry := spWrite 0 c.pantry p (leBytes size v) }
    else discard (evPn s i fun n => { n with evShelfRef := true }) a
def apertureRead (s : State) (a : Agent) (k : Gl) (off size : Nat) : State := match apertureAt s a k off size false with
  | none => { discard s a with bus := 0 }
  | some (i, p) =>
    if shelfOn s i p then { s with bus := leNat (spRead 0 (siteAt s i).pantry p size) }
    else { discard (evPn s i fun n => { n with evShelfRef := true }) a with bus := 0 }
def execPantryApertureAccess (a : Agent) (k : Gl) (off size : Nat) (write : Option Nat) (s : State) : Out :=
  .next (access s a fun s => match write with
    | some v => apertureWrite s a k off size v
    | none => apertureRead s a k off size)
/-- The aperture byte that a BAR0 offset names. -/
def apertureOf (off : Nat) : Option (Gl × Nat) :=
  if 0x1000000 ≤ off ∧ 0x80000 ≤ off % 0x100000 ∧ off % 0x100000 < 0xA0000 then
    (fin? 34 ((off - 0x1000000) / 0x100000)).map fun k => (k, off % 0x100000 - 0x80000)
  else none

/- Mirrored writes (R347). -/

/-- Household registers of the house block that hold written fields. -/
def mirroredReg : Reg → Bool
  | .hh _ x => match x with
    | .cmd | .cqBase | .cqPtr | .dtBase | .dtValid _ | .ttRoot | .tlbinv | .txCtrl | .txStat | .journal | .poolSave | .poolPro | .sbHreq => true
    | _ => false
  | _ => false
/-- Bits of a mirrored register that start something are not applied by the standby. -/
def mirrorMask : Reg → Nat
  | .hh _ .tlbinv => 2 ^ 63 - 1
  | .hh _ .txCtrl => 0
  | .hh _ .sbHreq => 2 ^ 59 - 1
  | _ => 2 ^ 64 - 1

/- Accesses. -/

/-- The bytes of a value that an access gives a register, at the register's own bit positions. -/
def partOf (off size v : Nat) (x : Reg) : Nat :=
  ((covered off size).map fun e => if e.2.1 = x then v / 256 ^ e.1 % 256 * 256 ^ e.2.2 else 0).sum
/-- Bits of a register that an access covers. -/
def maskAt (off size : Nat) (x : Reg) : Nat := ((covered off size).map fun e => if e.2.1 = x then 255 * 256 ^ e.2.2 else 0).sum
/-- The write of an access as register x sees it. -/
def regWOf (s : State) (off size v hw : Nat) (x : Reg) : RegW :=
  let old := regRead s x
  let v := partOf off size v x
  ⟨old, old - (old &&& maskAt off size x) + v, v, partOf off size hw x⟩
/-- Registers written by a permitted access. -/
def writeRegs (s : State) (a : Agent) (off size v hw : Nat) (xs : List Reg) : State :=
  xs.foldl (fun t x =>
    let u := regWrite t a (regWOf t off size v hw x) x
    if mirroredReg x then mirror u (.reg off size v) else u) s
/-- REGISTER_WRITE (R58, R59, R62). -/
def registerWriteOp (s : State) (a : Agent) (off size v hw : Nat) : State := match apertureOf off with
  | some (k, o) => apertureWrite s a k o size v
  | none =>
    let xs := coveredRegs off size
    if !accessOk off size || xs.isEmpty then discard s a
    else
      let ok (x : Reg) : Bool := mayWrite s a x (partOf off size v x) && writeUp s x
      let t := writeRegs s a off size v hw (xs.filter ok)
      if xs.all ok then t else discard t a
def execRegisterWrite (a : Agent) (off size v hw : Nat) (s : State) : Out :=
  .next (access s a fun s => registerWriteOp s a off size v hw)

/-- What an agent reads of a register; BASE of the journal reads as zero to those who do not reach it (R336). -/
def seenBy (s : State) (a : Agent) (x : Reg) : Nat := match x with
  | .hh _ .journal => if pfOrHouse a then regRead s x else regRead s x / 2 ^ 43 * 2 ^ 43
  | _ => regRead s x
/-- A saturating count that a read clears; `hw` counts of the same cycle: the clear is then discarded (R12). -/
def rcCount (n hw : Nat) : Nat := if hw = 0 then 0 else satAdd 16 n hw
/-- A read clears an RC field. -/
def rcClear (s : State) (hw : Nat) : Reg → State
  | .pkg .discardCount => noteLost { s with discCount := rcCount s.discCount hw } (decide (hw ≠ 0 ∧ s.discCount ≠ 0))
  | .rg r .ccPushrej => upCore s r fun c => { c with
      rejCount := rcCount c.rejCount hw, lost := lostInc c.lost (decide (hw ≠ 0 ∧ c.rejCount ≠ 0)) }
  | _ => s
/-- A read of BAR0 (R12, R58, R59): the value of the covered bytes stands on the bus. -/
def registerReadOp (s : State) (a : Agent) (off size hw : Nat) : State := match apertureOf off with
  | some (k, o) => apertureRead s a k o size
  | none =>
    let xs := coveredRegs off size
    if !accessOk off size || xs.isEmpty then { discard s a with bus := 0 }
    else
      let ok (x : Reg) : Bool := mayRead s a x && readUp s x
      let v := ((covered off size).map fun e => if ok e.2.1 then seenBy s a e.2.1 / 256 ^ e.2.2 % 256 * 256 ^ e.1 else 0).sum
      let t := { (xs.filter ok).foldl (fun t x => rcClear t hw x) s with bus := v }
      if xs.all ok then t else discard t a
/-- REGISTER_RC_READ. -/
def execRegisterRcRead (a : Agent) (off size hw : Nat) (s : State) : Out :=
  .next (access s a fun s => registerReadOp s a off size hw)

/- Loads and stores of a control core (R96, R100, R101). -/

/-- Xd receives n bytes; the spec gives the upper bytes of a narrower load no value (log 28). -/
def loadInto (s : State) (r : Rg) (xd : XReg) (n v : Nat) : State :=
  let free := (Config.freeWord s.fresh).toNat / 2 ^ (8 * n) * 2 ^ (8 * n)
  tickFresh (xPut s r xd (BitVec.ofNat 64 (v % 2 ^ (8 * n) + (if n = 8 then 0 else free))))
/-- A load; `hw` are the flags that hardware sets in the cycle of a register read (R12). -/
def loadInstr (s : State) (r : Rg) (xd xb : XReg) (disp : Word) (size : Fin 4) (hw : Nat) : CoreEnd :=
  let a := (xGet s r xb + disp).toNat
  let n := 2 ^ size.val
  if inBar s r a then
    if n < 4 ∨ a % n ≠ 0 then .trap s trapMisaligned
    else
      let t := registerReadOp s (.cc r) (a - barBase) n hw
      .done (loadInto t r xd n t.bus)
  else if a % n ≠ 0 then .trap s trapMisaligned
  else match coreRead s r a n with
    | .ok t bs => .done (loadInto t r xd n (leNat bs))
    | .fault t st b => .trap t (trapMemory st b)
    | .status t st => .trap t (trapStatus st)
    | .wait => .stall s
    | .bar t => .trap t trapMisaligned
def execCoreLoad (r : Rg) (xd xb : XReg) (disp : Word) (size : Fin 4) (s : State) (hw : Nat := 0) : Out :=
  .next (runInstr s r fun s => loadInstr s r xd xb disp size hw)
/-- A store; `hw` are the flags that hardware sets in the cycle of a register write (R12). -/
def storeInstr (s : State) (r : Rg) (xs xb : XReg) (disp : Word) (size : Fin 4) (hw : Nat) : CoreEnd :=
  let a := (xGet s r xb + disp).toNat
  let n := 2 ^ size.val
  let v := xNat s r xs
  if inBar s r a then
    if n < 4 ∨ a % n ≠ 0 then .trap s trapMisaligned
    else .done (registerWriteOp s (.cc r) (a - barBase) n v hw)
  else if a % n ≠ 0 then .trap s trapMisaligned
  else match coreWrite s r a (leBytes n v) with
    | .ok t _ => .done t
    | .fault t st b => .trap t (trapMemory st b)
    | .status t st => .trap t (trapStatus st)
    | .wait => .stall s
    | .bar t => .trap t trapMisaligned
def execCoreStore (r : Rg) (xs xb : XReg) (disp : Word) (size : Fin 4) (s : State) (hw : Nat := 0) : Out :=
  .next (runInstr s r fun s => storeInstr s r xs xb disp size hw)

/- The pair (R347, R357). -/

/-- A mirrored register write on the standby. -/
def mirrorApply (s : State) (off size v : Nat) : State :=
  ((coveredRegs off size).filter mirroredReg).foldl (fun t x =>
    let w := regWOf t off size v 0 x
    regWrite t .house { w with w := w.w &&& mirrorMask x, v := w.v &&& mirrorMask x } x) s
/-- REGS: an image is kept for a takeover, a register write is applied. -/
def regsOp (s : State) (m : Mirror) : State :=
  if !mirrors s then s
  else match m with
    | .deed img => { s with pw := { s.pw with mirDeed := some img } }
    | .lease h img => { s with pw := { s.pw with mirLease := s.pw.mirLease.set h.val (some img) h.isLt } }
    | .reg off size v => if accessOk off size then mirrorApply s off size v else s
def execRegs (m : Mirror) (s : State) : Out := .next (regsOp s m)

/-- Transactional pairs that the tables from level n at CPA t map. -/
def txPairs (s : State) : Nat → Nat → List Nat
  | 0, t => (List.range 512).filterMap fun ix =>
    let e := leNat (cRead s (t + 8 * ix) 8)
    if e.testBit 0 && e.testBit 1 && bits e 39 25 == 0 && bits e 6 6 == 0 then
      match leafPage 0 e 0 with
      | some p => if p.tx then some (pairOf p) else none
      | none => none
    else none
  | n + 1, t => (List.range (if n = 2 then 32 else 512)).flatMap fun ix =>
    let e := leNat (cRead s (t + 8 * ix) 8)
    if e.testBit 0 && !e.testBit 1 && bits e 39 25 == 0 && bits e 2 10 == 0 then txPairs s n (bits e 12 27 * 4096) else []
/-- A household register as its offset in the house block. -/
def hhMirrors (s : State) (h : Hh) : List Mirror :=
  let reg (o n : Nat) (x : HhReg) : Mirror := .reg o n (regRead s (.hh h x))
  [reg (0x4000 + 64 * h.val) 4 .cmd, reg (0x4008 + 64 * h.val) 8 .cqBase, reg (0x4010 + 64 * h.val) 8 .cqPtr,
    reg (0x4018 + 64 * h.val) 8 .dtBase, reg (0x6000 + 128 * h.val) 8 .ttRoot, reg (0x6008 + 128 * h.val) 8 .tlbinv,
    reg (0x6028 + 128 * h.val) 8 .journal, reg (0x6030 + 128 * h.val) 8 .poolSave, reg (0x6038 + 128 * h.val) 8 .poolPro,
    reg (0xC000 + 64 * h.val) 8 .sbHreq] ++
  (List.finRange 64).map fun w => reg (0x8000 + 512 * h.val + 8 * w.val) 8 (.dtValid w)
/-- Frames that a resynchronisation ships, by CPA: the selector array, and the current copy of every transactional
frame of a live household. -/
def syncFrames (s : State) : List Nat :=
  let pairs := allHh.flatMap fun h =>
    if (hhAt s h).lease.isSome && (hhAt s h).tr.valid then txPairs s 3 (hhAt s h).tr.root else []
  ((List.range 8).map fun n => s.selBase + 65536 * n) ++
    pairs.map fun p => p * 131072 + (if selector s p then 65536 else 0)
/-- STANDBY_RESYNC (R357): the survivor that has heard a new standby which passes the checks of R346 becomes PRIMARY and
ships everything; SYNCED follows its delivery (log 22). -/
def resyncOp (s : State) : State :=
  if s.pw.role ≠ .survivor ∨ !wallUp s ∨ !s.pw.linkUp ∨ !s.pw.candidate then s
  else
    let s := logFault { s with pw := { s.pw with role := .primary, paired := true, candidate := false } } 0x0D 0xFF 0x3F 0 0
    let deed := match s.deed with
      | some d => [Mirror.deed d.image]
      | none => []
    let ms := deed ++ (allHh.filterMap fun h => (hhAt s h).lease.map fun l => Mirror.lease h l.image) ++ allHh.flatMap (hhMirrors s)
    let s := sendRun s (ms.map .regs ++ (syncFrames s).map fun c => .bulk c (cRead s c 65536))
    wallProgress { s with pw := { s.pw with syncing := true } }
def execStandbyResync (s : State) : Out := .next (resyncOp s)

/- The porch windows into the cellar (R311, R394, R395, R397). -/

def upPorch (s : State) (f : PorchSt → PorchSt) : State := { s with porch := f s.porch }
def noteCa (s : State) : State := upPorch s fun p => { p with ca := satInc 16 p.ca }
/-- A completion with a poisoned TLP: its data are open. -/
def poisonedRead (s : State) (n : Nat) : State :=
  tickFresh { upPorch s (fun p => { p with poisoned := satInc 16 p.poisoned }) with bus := Config.freeNat s.fresh % 256 ^ n }
/-- A write that the porch discards. -/
def dropWrite (s : State) : State := upPorch s fun p => { p with discarded := satInc 16 p.discarded }
/-- The cellar address of an offset of BAR2 of the physical function. -/
def pfCpa (s : State) (off : Nat) : Nat := s.porch.pfWin * 2 ^ 36 + off
def bar2Read (s : State) (a : Agent) (off n : Nat) : State := match a with
  | .pf =>
    let c := pfCpa s off
    if c + n > reserveBase then noteCa s
    else match firstPoison s c n with
      | some i => poisonedRead (noteUe s (c + i)) n
      | none => { s with bus := leNat (cRead s c n) }
  | .vf h =>
    match hRead s h false .read ((hhAt s h).vfWin * 2 ^ 36 + off) n with
    | .ok bs => { cachePages s h (tlbUnit 8 0) (pagesOf ((hhAt s h).vfWin * 2 ^ 36 + off) n) with bus := leNat bs }
    | .error (.ue va) => poisonedRead (noteUeVa s h false .read va) n
    | .error (.fault st va) => noteCa (recordFault s h 8 st va)
    | .error (.txCap _) => s
  | _ => s
def execPorchBar2Read (a : Agent) (off n : Nat) (s : State) : Out :=
  .next (access s a fun s => if off < 2 ^ 36 then bar2Read s a off n else s)
/-- A write; `fail` is the first byte of it that a channel reports as failed (R328): it completes with Completer Abort,
and a household's window records it in HH_FAULT. -/
def bar2Write (s : State) (a : Agent) (off : Nat) (data : List Byte) (fail : Option Nat) : State :=
  let fail := fail.filter fun o => o < data.length
  let bytes := splitWrite s.fresh data fail
  match a with
  | .pf =>
    if pfCpa s off + data.length > reserveBase then dropWrite s
    else
      let t := cWrite s (pfCpa s off) bytes
      if fail.isSome then noteCa (tickFresh t) else t
  | .vf h =>
    let va := (hhAt s h).vfWin * 2 ^ 36 + off
    match (hWrite s h false va bytes).map fun t => cachePages t h (tlbUnit 8 0) (pagesOf va data.length) with
    | .ok t => match fail with
      | some o => noteCa (recordFault (tickFresh t) h 8 stPartial (va + o))
      | none => t
    | .error (.fault st va) => dropWrite (recordFault s h 8 st va)
    | .error _ => s
  | _ => s
def execPorchBar2Write (a : Agent) (off : Nat) (data : List Byte) (s : State) (fail : Option Nat := none) : Out :=
  .next (access s a fun s => if off < 2 ^ 36 then bar2Write s a off data fail else s)
/-- An AtomicOp completes with Unsupported Request (R394, R400). -/
def execPorchAtomicOp (a : Agent) (s : State) : Out := .next <| match a with
  | .pf | .vf _ => noteUr s
  | _ => s

/- The management bus (R450). -/

/-- Registers that the SMBus target shows. -/
def smbusShows : Reg → Bool
  | .pkg x => match x with
    | .devId | .featBuilt | .featActive | .featReserve | .featMxa | .featMem | .featRing | .featQueue | .strap | .bootStat | .rstCause
    | .heMeas | .heCoolant | .heState | .foStat | .pwStat => true
    | _ => false
  | _ => false
def smbusRead (s : State) (off n : Nat) : State :=
  if s.boot.stage < 2 then s
  else { s with bus := if accessOk off n then ((covered off n).map fun e =>
      if smbusShows e.2.1 then regRead s e.2.1 / 256 ^ e.2.2 % 256 * 256 ^ e.1 else 0).sum else 0 }
def execSmbusBlockRead (off size : Nat) (s : State) : Out := .next (smbusRead s off size)
/-- THERMTRIP_N is asserted: from the trip until PWROK falls (R361, R449). -/
def thermTripOut (s : State) : Bool := s.boot.tripped
/-- SMB_ALERT_N is asserted: it follows source 0 of the doorbell while that is pending (R449). -/
def smbAlertOut (s : State) : Bool := dbPending s 0
/-- The open-drain package fault output is asserted (R73, R353). -/
def packageFaultOut (s : State) : Bool := pinHas s 0x09 && s.pw.faultOut
def execSmbusWrite (_off : Nat) (s : State) : Out := .next (discardBy s 0xFFFE)

end Sys2Proof.Machine
end

