-- ==== Sys2Proof/Machine/Dispatch.lean ====
section
/-! DEFINITION. The command dispatcher: one arm for each row of the table. -/

namespace Sys2Proof.Machine

def exec (i : Instr) (s : State) : Host.Outcome State Fault Refusal :=
  match i with
  | .registerWrite a off size v hw => Sys2Proof.Machine.execRegisterWrite a off size v hw s
  | .registerRcRead a off size hw => Sys2Proof.Machine.execRegisterRcRead a off size hw s
  | .enqX r sync xd xa xq => Sys2Proof.Machine.execEnqX r sync xd xa xq s
  | .enqT r sync xd t xi xq => Sys2Proof.Machine.execEnqT r sync xd t xi xq s
  | .enqXN r sync xd xa xq => Sys2Proof.Machine.execEnqXN r sync xd xa xq s
  | .enqTN r sync xd t xi xq => Sys2Proof.Machine.execEnqTN r sync xd t xi xq s
  | .mulmod r xd xa xb xq => Sys2Proof.Machine.execMulmod r xd xa xb xq s
  | .coreLoad r xd xb disp size hw => Sys2Proof.Machine.execCoreLoad r xd xb disp size s hw
  | .coreStore r xs xb disp size hw => Sys2Proof.Machine.execCoreStore r xs xb disp size s hw
  | .fenceW r => Sys2Proof.Machine.execFenceW r s
  | .cinv r xa xn => Sys2Proof.Machine.execCinv r xa xn s
  | .csrWrite r csr op hw => Sys2Proof.Machine.execCsrWrite r csr op s hw
  | .svc r => Sys2Proof.Machine.execSvc r s
  | .debugBreakpoint r => Sys2Proof.Machine.execDebugBreakpoint r s
  | .rft r => Sys2Proof.Machine.execRft r s
  | .interruptEntry r => Sys2Proof.Machine.execInterruptEntry r s
  | .tdef r t xs => Sys2Proof.Machine.execTdef r t xs s
  | .tclr r t => Sys2Proof.Machine.execTclr r t s
  | .tget r t xb xs stop => Sys2Proof.Machine.execTget r t xb xs stop s
  | .tput r t xb xs stop => Sys2Proof.Machine.execTput r t xb xs stop s
  | .trd r xd t xi imm => Sys2Proof.Machine.execTrd r xd t xi imm s
  | .twr r t xi imm xs => Sys2Proof.Machine.execTwr r t xi imm xs s
  | .tdead r t => Sys2Proof.Machine.execTdead r t s
  | .tsave r xb stop => Sys2Proof.Machine.execTsave r xb stop s
  | .trestore r xb stop => Sys2Proof.Machine.execTrestore r xb stop s
  | .tsumpop r xd t => Sys2Proof.Machine.execTsumpop r xd t s
  | .sumpop r xd xm => Sys2Proof.Machine.execSumpop r xd xm s
  | .ccHaltRequest a r on => Sys2Proof.Machine.execCcHaltRequest a r on s
  | .ccStep a r => Sys2Proof.Machine.execCcStep a r s
  | .nop q => Sys2Proof.Machine.execNop q s
  | .setgeo q => Sys2Proof.Machine.execSetgeo q s
  | .commandStart q => Sys2Proof.Machine.execCommandStart q s
  | .commandComplete q => Sys2Proof.Machine.execCommandComplete q s
  | .ringWriteRetry h => Sys2Proof.Machine.execRingWriteRetry h s
  | .clQctlResume a k e => Sys2Proof.Machine.execClQctlResume a k e s
  | .clQctlFlush a k e => Sys2Proof.Machine.execClQctlFlush a k e s
  | .clSemWrite a k n v hw => Sys2Proof.Machine.execClSemWrite a k n v hw s
  | .hhDtValidWrite a h w v => Sys2Proof.Machine.execHhDtValidWrite a h w v s
  | .hhCqBaseWrite a h v => Sys2Proof.Machine.execHhCqBaseWrite a h v s
  | .xsqStart a k entry => Sys2Proof.Machine.execXsqStart a k entry s
  | .xsqStop a k => Sys2Proof.Machine.execXsqStop a k s
  | .xsqResume a k => Sys2Proof.Machine.execXsqResume a k s
  | .xsqCacheFill k => Sys2Proof.Machine.execXsqCacheFill k s
  | .xsqNop k => Sys2Proof.Machine.execXsqNop k s
  | .loop k => Sys2Proof.Machine.execLoop k s
  | .endloop k => Sys2Proof.Machine.execEndloop k s
  | .hqpush k => Sys2Proof.Machine.execHqpush k s
  | .check k => Sys2Proof.Machine.execCheck k s
  | .tokenAdvance k => Sys2Proof.Machine.execTokenAdvance k s
  | .halt k => Sys2Proof.Machine.execHalt k s
  | .mm k u => Sys2Proof.Machine.execMm k u s
  | .modset k => Sys2Proof.Machine.execModset k s
  | .keyip k u => Sys2Proof.Machine.execKeyip k u s
  | .accz k => Sys2Proof.Machine.execAccz k s
  | .accst k u => Sys2Proof.Machine.execAccst k u s
  | .mxaRampDown k => Sys2Proof.Machine.execMxaRampDown k s
  | .fwd k u => Sys2Proof.Machine.execFwd k u s
  | .inv k u => Sys2Proof.Machine.execInv k u s
  | .fwdct k u => Sys2Proof.Machine.execFwdct k u s
  | .invct k u => Sys2Proof.Machine.execInvct k u s
  | .rootTableReady k => Sys2Proof.Machine.execRootTableReady k s
  | .auto k => Sys2Proof.Machine.execAuto k s
  | .autoct k => Sys2Proof.Machine.execAutoct k s
  | .gather k => Sys2Proof.Machine.execGather k s
  | .scatter k => Sys2Proof.Machine.execScatter k s
  | .chain k => Sys2Proof.Machine.execChain k s
  | .chacc k u => Sys2Proof.Machine.execChacc k u s
  | .chload k => Sys2Proof.Machine.execChload k s
  | .kload k => Sys2Proof.Machine.execKload k s
  | .rescalect k => Sys2Proof.Machine.execRescalect k s
  | .summaryDeliver k => Sys2Proof.Machine.execSummaryDeliver k s
  | .load k => Sys2Proof.Machine.execLoad k s
  | .store k => Sys2Proof.Machine.execStore k s
  | .kwin k => Sys2Proof.Machine.execKwin k s
  | .kwinClose k => Sys2Proof.Machine.execKwinClose k s
  | .streamRequestIssue q => Sys2Proof.Machine.execStreamRequestIssue q s
  | .cellarReadReturn q cpa ecc => Sys2Proof.Machine.execCellarReadReturn q cpa ecc s
  | .cellarWriteAck q fail => Sys2Proof.Machine.execCellarWriteAck q fail s
  | .deadlineMiss q => Sys2Proof.Machine.execDeadlineMiss q s
  | .stream r => Sys2Proof.Machine.execStream r s
  | .prex r => Sys2Proof.Machine.execPrex r s
  | .prexExpansion r => Sys2Proof.Machine.execPrexExpansion r s
  | .ldQctlResume a r h => Sys2Proof.Machine.execLdQctlResume a r h s
  | .ldQctlFlush a r h => Sys2Proof.Machine.execLdQctlFlush a r h s
  | .psqTrigger k => Sys2Proof.Machine.execPsqTrigger k s
  | .combine k => Sys2Proof.Machine.execCombine k s
  | .psqJobComplete k => Sys2Proof.Machine.execPsqJobComplete k s
  | .psResume a k => Sys2Proof.Machine.execPsResume a k s
  | .psSkip a k => Sys2Proof.Machine.execPsSkip a k s
  | .shelfWakeDone x shelf => Sys2Proof.Machine.execShelfWakeDone x shelf s
  | .pantryZeroing x => Sys2Proof.Machine.execPantryZeroing x s
  | .pantryApertureAccess a k off size write => Sys2Proof.Machine.execPantryApertureAccess a k off size write s
  | .copy r => Sys2Proof.Machine.execCopy r s
  | .mvQctlResume a r h => Sys2Proof.Machine.execMvQctlResume a r h s
  | .mvQctlFlush a r h => Sys2Proof.Machine.execMvQctlFlush a r h s
  | .scrubRead ch lg ecc => Sys2Proof.Machine.execScrubRead ch lg ecc s
  | .channelRetireStart a x c => Sys2Proof.Machine.execChannelRetireStart a x c s
  | .channelMigrationDone found => Sys2Proof.Machine.execChannelMigrationDone s found
  | .trafficGeneratorGo a x c v => Sys2Proof.Machine.execTrafficGeneratorGo a x c v s
  | .trafficGeneratorDone x c errors => Sys2Proof.Machine.execTrafficGeneratorDone x c errors s
  | .tlbinvGo a h v => Sys2Proof.Machine.execTlbinvGo a h v s
  | .tlbinvDone h => Sys2Proof.Machine.execTlbinvDone h s
  | .txOpen a h replay => Sys2Proof.Machine.execTxOpen a h replay s
  | .txCommit a h => Sys2Proof.Machine.execTxCommit a h s
  | .commitApply h => Sys2Proof.Machine.execCommitApply h s
  | .txAbort a h => Sys2Proof.Machine.execTxAbort a h s
  | .quantumEnd n => Sys2Proof.Machine.execQuantumEnd n s
  | .quantumIdleEnd n => Sys2Proof.Machine.execQuantumIdleEnd n s
  | .foRetire a k => Sys2Proof.Machine.execFoRetire a k s
  | .foYield a => Sys2Proof.Machine.execFoYield a s
  | .clusterReplacement x same => Sys2Proof.Machine.execClusterReplacement x s same
  | .clusterCriticalError x => Sys2Proof.Machine.execClusterCriticalError x s
  | .regionCriticalError r => Sys2Proof.Machine.execRegionCriticalError r s
  | .dieFault d => Sys2Proof.Machine.execDieFault d s
  | .criticalStateError b => Sys2Proof.Machine.execCriticalStateError b s
  | .heartbeatPeriod => Sys2Proof.Machine.execHeartbeatPeriod s
  | .heartbeatMissed => Sys2Proof.Machine.execHeartbeatMissed s
  | .twinAliveInput => Sys2Proof.Machine.execTwinAliveInput s
  | .heartbeat p m => Sys2Proof.Machine.execHeartbeat p m s
  | .frame h seq pair new data => Sys2Proof.Machine.execFrame h seq pair new data s
  | .commitMark h seq count digest => Sys2Proof.Machine.execCommitMark h seq count digest s
  | .pwAck h seq => Sys2Proof.Machine.execPwAck h seq s
  | .bulk cpa data => Sys2Proof.Machine.execBulk cpa data s
  | .regs m => Sys2Proof.Machine.execRegs m s
  | .yield seqs => Sys2Proof.Machine.execYield seqs s
  | .pwTakeover a => Sys2Proof.Machine.execPwTakeover a s
  | .pwBulkGo a v => Sys2Proof.Machine.execPwBulkGo a v s
  | .standbyResync => Sys2Proof.Machine.execStandbyResync s
  | .powerOn also => Sys2Proof.Machine.execPowerOn s also
  | .powerLoss => Sys2Proof.Machine.execPowerLoss s
  | .resetPin also => Sys2Proof.Machine.execResetPin also s
  | .porchReset c also => Sys2Proof.Machine.execPorchReset c s also
  | .watchdogExpiry also => Sys2Proof.Machine.execWatchdogExpiry s also
  | .houseCriticalError also => Sys2Proof.Machine.execHouseCriticalError s also
  | .thermalTrip also => Sys2Proof.Machine.execThermalTrip s also
  | .jtagTrst => Sys2Proof.Machine.execJtagTrst s
  | .bootStageAdvance inp => Sys2Proof.Machine.execBootStageAdvance inp s
  | .bootFwGo a v img => Sys2Proof.Machine.execBootFwGo a v img s
  | .rstReqGo a v => Sys2Proof.Machine.execRstReqGo a v s
  | .blockResetIdle us => Sys2Proof.Machine.execBlockResetIdle us s
  | .resetQuiesceTimeout => Sys2Proof.Machine.execResetQuiesceTimeout s
  | .vfFunctionLevelReset h => Sys2Proof.Machine.execVfFunctionLevelReset h s
  | .portTrainingDone p => Sys2Proof.Machine.execPortTrainingDone p s
  | .portTrainingTimeout p => Sys2Proof.Machine.execPortTrainingTimeout p s
  | .portRetrainDelay p => Sys2Proof.Machine.execPortRetrainDelay p s
  | .helloPeriod p => Sys2Proof.Machine.execHelloPeriod p s
  | .hello p m pk => Sys2Proof.Machine.execHello p m s pk
  | .helloWaitTimeout p => Sys2Proof.Machine.execHelloWaitTimeout p s
  | .helloMissed p => Sys2Proof.Machine.execHelloMissed p s
  | .trWrite p pk fail => Sys2Proof.Machine.execTrWrite p pk fail s
  | .trAck p pk => Sys2Proof.Machine.execTrAck p pk s
  | .trNotify p pk => Sys2Proof.Machine.execTrNotify p pk s
  | .fence p fenced claimant pk => Sys2Proof.Machine.execFence p fenced claimant s pk
  | .fenceAck p fenced claimant pk => Sys2Proof.Machine.execFenceAck p fenced claimant s pk
  | .routeClaim p fenced claimant pk => Sys2Proof.Machine.execRouteClaim p fenced claimant s pk
  | .fenceLapse fenced claimant claim => Sys2Proof.Machine.execFenceLapse fenced claimant s claim
  | .trSqTailWrite a h v => Sys2Proof.Machine.execTrSqTailWrite a h v s
  | .sqWrite h => Sys2Proof.Machine.execSqWrite h s
  | .sqWriteSealed h => Sys2Proof.Machine.execSqWriteSealed h s
  | .ackTimeout h tag => Sys2Proof.Machine.execAckTimeout h tag s
  | .trSqResume a h => Sys2Proof.Machine.execTrSqResume a h s
  | .trRouteWrite a d v claimed => Sys2Proof.Machine.execTrRouteWrite a d v claimed s
  | .porchBar2Read a off size => Sys2Proof.Machine.execPorchBar2Read a off size s
  | .porchBar2Write a off data fail => Sys2Proof.Machine.execPorchBar2Write a off data s fail
  | .porchAtomicOp a => Sys2Proof.Machine.execPorchAtomicOp a s
  | .hearthTick m => Sys2Proof.Machine.execHearthTick m s
  | .auditRead x ok => Sys2Proof.Machine.execAuditRead x ok s
  | .coolantSample inlet outlet => Sys2Proof.Machine.execCoolantSample inlet outlet s
  | .hePdreqGo a v => Sys2Proof.Machine.execHePdreqGo a v s
  | .powerDomainSwitch => Sys2Proof.Machine.execPowerDomainSwitch s
  | .epochMark a => Sys2Proof.Machine.execEpochMark a s
  | .epochPeriod => Sys2Proof.Machine.execEpochPeriod s
  | .householdTick t => Sys2Proof.Machine.execHouseholdTick t s
  | .dbRaise a src => Sys2Proof.Machine.execDbRaise a src s
  | .doorbellDelivery => Sys2Proof.Machine.execDoorbellDelivery s
  | .dbEoi a tgt src => Sys2Proof.Machine.execDbEoi a tgt src s
  | .loadDeed a img => Sys2Proof.Machine.execLoadDeed a img s
  | .loadLease a h img => Sys2Proof.Machine.execLoadLease a h img s
  | .retireLease a h => Sys2Proof.Machine.execRetireLease a h s
  | .sbGo a => Sys2Proof.Machine.execSbGo a s
  | .sbResume a => Sys2Proof.Machine.execSbResume a s
  | .sbAbort a => Sys2Proof.Machine.execSbAbort a s
  | .sbHreqGo a h va => Sys2Proof.Machine.execSbHreqGo a h va s
  | .sbHreqResume a h => Sys2Proof.Machine.execSbHreqResume a h s
  | .sbHreqAbort a h => Sys2Proof.Machine.execSbHreqAbort a h s
  | .strongboxDispatch => Sys2Proof.Machine.execStrongboxDispatch s
  | .smul => Sys2Proof.Machine.execSmul s
  | .ecdh => Sys2Proof.Machine.execEcdh s
  | .sign => Sys2Proof.Machine.execSign s
  | .verify => Sys2Proof.Machine.execVerify s
  | .modexp => Sys2Proof.Machine.execModexp s
  | .sha384 => Sys2Proof.Machine.execSha384 s
  | .loadcurve => Sys2Proof.Machine.execLoadcurve s
  | .attest => Sys2Proof.Machine.execAttest s
  | .strongboxComplete fail => Sys2Proof.Machine.execStrongboxComplete fail s
  | .strongboxSuspendTimeout => Sys2Proof.Machine.execStrongboxSuspendTimeout s
  | .strongboxPreempt => Sys2Proof.Machine.execStrongboxPreempt s
  | .smbusBlockRead off size => Sys2Proof.Machine.execSmbusBlockRead off size s
  | .smbusWrite off => Sys2Proof.Machine.execSmbusWrite off s
  | .integerInstruction r op w32 xd xa b => Sys2Proof.Machine.execIntegerInstruction r op w32 xd xa b s
  | .floatingPointInstruction r op => Sys2Proof.Machine.execFloatingPointInstruction r op s
  | .controlFlowInstruction r op => Sys2Proof.Machine.execControlFlowInstruction r op s
  | .xsqRecordIssue k => Sys2Proof.Machine.execXsqRecordIssue k s
  | .clusterSelfTestEnd x pass => Sys2Proof.Machine.execClusterSelfTestEnd x pass s
  | .porchLinkUp speed width flit => Sys2Proof.Machine.execPorchLinkUp speed width flit s
  | .porchConfigurationWrite c => Sys2Proof.Machine.execPorchConfigurationWrite c s
  | .crcErrorReplay p fault => Sys2Proof.Machine.execCrcErrorReplay p s fault

end Sys2Proof.Machine
end

