-- ==== Sys2Proof/WellFormed.lean ====
section
/-! DEFINITION. Well-formed commands: the operands of each row lie within the fields that carry them. -/

namespace Sys2Proof

def below (w v : Nat) : Bool := decide (v < 2 ^ w)

/-- Size of a register access: one to eight bytes; R58 discards those other than 4 and 8. -/
def sizeOk (n : Nat) : Bool := decide (1 ≤ n) && decide (n ≤ 8)
/-- A BAR0 access (R56). -/
def barOk (off size : Nat) : Bool := below 26 off && sizeOk size

/-- An optional number below 2^w. -/
def optBelow (w : Nat) : Option Nat → Bool
  | some v => below w v
  | none => true
/-- A disturbed sum: a step of a command, one of at most 512 columns or lanes, an offset of the 80 bits of an entry. -/
def SumFault.wf (f : SumFault) : Bool := below 40 f.pos && below 9 f.col && decide (f.off.natAbs < 2 ^ 80)
def accWf (u : List AccFault) : Bool := u.all fun f => below 32 f.elem
def ArrayUpset.wf (u : ArrayUpset) : Bool := u.first.all SumFault.wf && u.again.all SumFault.wf && accWf u.entries
def TwUpset.wf (u : TwUpset) : Bool := optBelow 7 u.first && optBelow 7 u.second
/-- The reset sources that fall in the same cycle, one bit of RST_CAUSE each (R364). -/
def alsoOk (also : Nat) : Bool := below 10 also

/-- Fields of a packet header at their widths, and a payload a link carries (R381). -/
def Packet.wf (p : Packet) : Bool :=
  below 8 p.type && below 8 p.flags && below 8 p.hops && below 4 p.srcHh && below 4 p.dstHh && below 16 p.dst && below 16 p.src &&
  below 32 p.tag && below 16 p.length && below 8 p.status && below 8 p.rsv && below 64 p.addr && below 64 p.aux &&
  decide (p.payload.length ≤ 4100)
def Hello.wf (m : Hello) : Bool := below 16 m.id && below 8 m.port && below 16 m.twin && below 8 m.role
def Heartbeat.wf (m : Heartbeat) : Bool :=
  below 8 m.role && m.seqs.all (below 32) && below 128 m.digest && below 39 m.selBase && below 16 m.twin && below 16 m.id
def Mirror.wf : Mirror → Bool
  | .deed img => decide (img.length ≤ 2 ^ 20)
  | .lease _ img => decide (img.length ≤ 2 ^ 20)
  | .reg off size v => barOk off size && below 64 v
/-- Eight samples of an 11-bit converter, a header of 64 bytes, channel and stack numbers that exist (R369, R375). -/
def BootInput.wf (i : BootInput) : Bool :=
  i.samples.length == 8 && i.samples.all (below 11) && i.header.length == 64 && i.trainFail.all (below 3) && i.chanFail.all (below 8) &&
  i.testFail.all (fun k => decide (k < 34)) && below 16 i.twinId &&
  optBelow 3 i.twin
/-- A fenced or claimed pair of terrace identifiers (R380). -/
def idsOk (x y : Nat) : Bool := below 12 x && below 12 y

/-- The operands of a command lie within their fields. The types of the operands of every other row bound them already. -/
def Instr.wf : Instr → Bool
  | .registerWrite _ off size v hw => barOk off size && below (8 * size) v && below (8 * size) hw
  | .registerRcRead _ off size hw => barOk off size && below 16 hw
  | .csrWrite _ n _ _ => below 12 n
  | .coreLoad _ _ _ _ _ hw | .coreStore _ _ _ _ _ hw => below 64 hw
  | .tget _ _ _ _ stop | .tput _ _ _ _ stop | .tsave _ _ stop | .trestore _ _ stop => optBelow 12 stop
  | .trd _ _ _ _ imm => below 8 imm
  | .twr _ _ _ imm _ => below 8 imm
  | .clSemWrite _ _ _ v _ => below 32 v
  | .hhDtValidWrite _ _ _ v => below 64 v
  | .hhCqBaseWrite _ _ v => below 64 v
  | .xsqStart _ _ entry => below 16 entry
  | .mm _ u | .keyip _ u => u.wf
  | .accst _ u | .chacc _ u => accWf u
  | .fwd _ u | .inv _ u | .fwdct _ u | .invct _ u => u.wf
  | .cellarReadReturn _ cpa _ => below 39 cpa
  | .cellarWriteAck _ fail => optBelow 13 fail
  | .pantryApertureAccess _ _ off size write => below 17 off && sizeOk size && optBelow (8 * size) write
  | .scrubRead _ lg _ => below 25 lg
  | .channelMigrationDone found => found.all fun x => below 27 x.1
  | .trafficGeneratorGo _ _ _ v => below 64 v
  | .trafficGeneratorDone _ _ errors => below 32 errors
  | .tlbinvGo _ _ v => below 64 v
  | .heartbeat _ m => m.wf
  | .frame _ seq pair _ data => below 32 seq && below 22 pair && data.length == 65536
  | .commitMark _ seq count digest => below 32 seq && below 21 count && below 384 digest
  | .pwAck _ seq => below 32 seq
  | .bulk cpa data => below 39 cpa && cpa % 65536 == 0 && data.length == 65536
  | .regs m => m.wf
  | .yield seqs => seqs.all (below 32)
  | .pwBulkGo _ v => below 64 v
  | .powerOn also | .resetPin also | .porchReset _ also | .watchdogExpiry also => alsoOk also
  | .houseCriticalError also | .thermalTrip also => alsoOk also
  | .bootStageAdvance i => i.wf
  | .bootFwGo _ v _ => below 32 v
  | .rstReqGo _ v => below 32 v
  | .blockResetIdle us => below 14 us
  | .hello _ m pk => pk.wf && m.wf
  | .trWrite _ pk fail => pk.wf && optBelow 12 fail
  | .trAck _ pk | .trNotify _ pk => pk.wf
  | .fence _ x y pk | .routeClaim _ x y pk => idsOk x y && pk.wf && pk.aux == x + 65536 * y
  | .fenceAck _ x y pk => idsOk x y && pk.wf
  | .fenceLapse x y _ => idsOk x y
  | .trSqTailWrite _ _ v => below 16 v
  | .ackTimeout _ tag => below 32 tag
  | .trRouteWrite _ _ v _ => below 32 v
  | .porchBar2Read _ off size => below 36 off && decide (1 ≤ size) && decide (off % 4096 + size ≤ 4096)
  | .porchBar2Write _ off data fail => below 36 off && fail.all (· < data.length) &&
      decide (1 ≤ data.length) && decide (data.length ≤ 512) &&
      decide (off % 4096 + data.length ≤ 4096)
  | .hearthTick m => below 32 m.p && below 8 m.tj
  | .coolantSample inlet outlet => optBelow 16 inlet && optBelow 16 outlet
  | .hePdreqGo _ v => below 32 v
  | .dbRaise _ src => below 10 src
  | .dbEoi _ tgt src => below 7 tgt && below 10 src
  | .sbHreqGo _ _ va => below 48 va
  | .strongboxComplete fail => optBelow 16 fail
  | .smbusBlockRead off size => below 26 off && sizeOk size
  | .smbusWrite off => below 26 off
  | .porchLinkUp speed width _ => below 4 speed && [1, 2, 4, 8, 16].contains width
  | _ => true

end Sys2Proof
end

