-- ==== Sys2Proof/Safety.lean ====
section
/-! DEFINITION. What a safe state of the block is, in the terms the statements use: the identity of the part, the
canonical form of every memory, legal modes of the control cores, a clean way for every command to end. -/

namespace Sys2Proof.Machine

/-- The sparse memories of a site keep their canonical form. -/
def siteMemOk (c : SiteSt) : Bool := spWf 0 c.pantry && spWf 0 c.seals && spWf 0 c.acc
/-- Every memory of the block is in its one canonical form. -/
def memOk (s : State) : Bool :=
  spWf 0 s.cellar.mem && s.sites.toList.all siteMemOk && spWf 0 s.db.mask && spWf 73 s.db.last && spWf 0 s.terr.routes &&
    spWf 0 s.sb.mem

/-- A core stands at a level of R99 in a context of R100. -/
def coreOk (c : Core) : Bool := decide (c.level ≤ 2) && decide (c.ctx ≤ 16)
/-- Every control core is in a legal mode. -/
def modesOk (s : State) : Bool := s.regions.toList.all fun g => coreOk g.core

/-- The core makes the instruction at its pc: it runs, no interrupt is to be taken first and the fetch is clean. -/
def coreReady (s : State) (r : Rg) : Prop := coreRuns s r = true ∧ irqDue s r = false ∧ fetchTrap s r = none
/-- A core after an instruction that only moves the pc on: a single step is over, and nothing stalls any more. -/
def movedOn (c : Core) : Core := { c with pc := c.pc + 4, stepArmed := false, tileStall := false, tdefWait := false }
/-- A core after an instruction that writes one integer register: X0 ignores the write, the pc moves on, everything
else of the core stays. -/
def wroteX (c : Core) (xd : XReg) (v : Word) : Core :=
  movedOn { c with x := if xd = 0 then c.x else c.x.set xd.val v xd.isLt }
/-- The result R96 states for an integer operation on operands of w bits; none where a divisor is zero, a shift passes
the width or a signed quotient is inexact or has no form of w bits. -/
def intSpec {w : Nat} (op : IntOp) (a b : BitVec w) : Option (BitVec w) := match op with
  | .add => some (a + b)
  | .sub => some (a - b)
  | .and => some (a &&& b)
  | .or => some (a ||| b)
  | .xor => some (a ^^^ b)
  | .shl => if b.toNat < w then some (a <<< b.toNat) else none
  | .shrl => if b.toNat < w then some (a >>> b.toNat) else none
  | .shra => if b.toNat < w then some (a.sshiftRight b.toNat) else none
  | .eq => some (if a = b then 1 else 0)
  | .lt => some (if a.slt b then 1 else 0)
  | .ltu => some (if a.ult b then 1 else 0)
  | .mul => some (a * b)
  | .divu => if b = 0 then none else some (a / b)
  | .remu => if b = 0 then none else some (a % b)
  | .div => if b ≠ 0 ∧ a.toInt % b.toInt = 0 ∧ a.toInt / b.toInt < 2 ^ (w - 1) then some (BitVec.ofInt w (a.toInt / b.toInt)) else none
  | .rem => if b ≠ 0 ∧ a.toInt % b.toInt = 0 then some 0 else none
/-- The value of an integer instruction's second operand. -/
def intSrcVal (s : State) (r : Rg) : IntSrc → Word
  | .reg x => xGet s r x
  | .imm v => v

/-- A core after an instruction that writes one floating-point register. -/
def wroteF (c : Core) (fd : XReg) (w : Word) : Core := movedOn { c with f := c.f.set fd.val w fd.isLt }
/-- A register holds a floating-point result in its low bits; a NaN result is some NaN of the format. -/
def holdsFp (d : Bool) (w : Word) (res : Option Nat) : Prop := match res with
  | some v => w.toNat % 2 ^ (fpFmt d).width = v % 2 ^ (fpFmt d).width
  | none => fDecode (fpFmt d) (w.toNat % 2 ^ (fpFmt d).width) = .nan
/-- The negated value. -/
def fpNegated : FVal → FVal
  | .nan => .nan
  | .inf n => .inf !n
  | .fin n m e => .fin (!n) m e
/-- The byte at a CPA as the core reads it: from its caches, otherwise from the cellar. -/
def coreByte (s : State) (r : Rg) (a : Nat) : Byte := cachedByte s r a
/-- The caches of a core hold what they may: distinct whole lines whose clean bytes are those of the cellar, over a cellar
in canonical form with no channel retired. -/
structure CacheOk (s : State) (r : Rg) : Prop where
  distinct : (coreAt s r).cache.Pairwise fun a b => a.line ≠ b.line
  whole : ∀ l ∈ (coreAt s r).cache, l.bytes.length = 64 ∧ l.dirty.length = 64
  clean : ∀ l ∈ (coreAt s r).cache, ∀ i < 64, l.dirty.getD i false = false → l.bytes.getD i 0 = cGet s (64 * l.line + i)
  mem : spWf 0 s.cellar.mem = true
  inPlace : s.cellar.retired = none
/-- A state apart from the bytes and the poison of the cellar. -/
def offCellar (s : State) : State := { s with cellar := { s.cellar with mem := [], poison := [] } }
/-- A core apart from its caches. -/
def noCache (c : Core) : Core := { c with cache := [] }
/-- A household's state apart from its translation caches. -/
def noTlb (c : HhSt) : HhSt := { c with tr := { c.tr with tlb := [] } }
/-- A state apart from the translation caches. -/
def offTlb (s : State) : State := { s with hhs := s.hhs.map noTlb }
/-- The translation caches of a household hold what its tables say (R309). -/
def tlbFresh (s : State) (h : Hh) : Prop := ∀ e ∈ (hhAt s h).tr.tlb, ∀ va, va / 65536 = e.page → walk s h va = some e.tab
/-- A state apart from those, the cache of a core, the translation caches and the counter of free values: what no access of
the core to memory changes. -/
def offCache (s : State) (r : Rg) : State := upCore { offCellar s with fresh := 0, hhs := s.hhs.map noTlb } r noCache
/-- Commands of a queue for a household, and the SEQ that the next one takes (R106, R133). -/
def queueOf (s : State) (q : QueueId) (h : Hh) : List Entry × Nat := match q with
  | .cluster k e => match siteOf s k with
    | some i => (((setAt s i h).queues.get e).ents, ((setAt s i h).queues.get e).next)
    | none => ([], 0)
  | .mve r => ((regAt s r).mve.ents, (regAt s r).mve.next)
  | .larder r => ((regAt s r).larder.ents, (regAt s r).larder.next)
/-- The access of an agent to BAR0 is one the block answers. The package is not held in reset (R361); a core stands at MON
in context 16 (R101); a function finds the porch open (R367), and its household live where it is a virtual function (R395). -/
def agentUp (s : State) (a : Agent) : Bool := alive s && match a with
  | .cc r => atMonitor s r
  | .vf h => !quiescing s 0x51 && vfLive s h
  | .pf => !quiescing s 0x51
  | .house => true

/- Rights over registers (R62, R69, R101, R396). -/

/-- Agent and household of a command on a register of one household. -/
def hhCommandOf : Instr → Option (Agent × Hh)
  | .hhDtValidWrite a h _ _ | .hhCqBaseWrite a h _ | .tlbinvGo a h _ | .txOpen a h _ | .txCommit a h | .txAbort a h
  | .sbHreqGo a h _ | .sbHreqResume a h | .sbHreqAbort a h | .trSqTailWrite a h _ | .trSqResume a h => some (a, h)
  | _ => none
/-- Agent of a command that only the physical function and the house cores make. -/
def houseCommandOf : Instr → Option Agent
  | .foRetire a _ | .foYield a | .pwTakeover a | .pwBulkGo a _ | .rstReqGo a _ | .hePdreqGo a _ | .epochMark a
  | .trRouteWrite a _ _ _ | .sbGo a | .sbResume a | .sbAbort a => some a
  | _ => none
/-- Agent and cluster of a command on the window of a cluster. -/
def clCommandOf : Instr → Option (Agent × Gl)
  | .clQctlResume a k _ | .clQctlFlush a k _ | .clSemWrite a k _ _ _ | .xsqStart a k _ | .xsqStop a k | .xsqResume a k
  | .psResume a k | .psSkip a k => some (a, k)
  | _ => none
/-- The agent reaches the window of cluster k, which site i serves and which takes writes (R59, R396). -/
def clusterOpen (s : State) (a : Agent) (k : Gl) (i : Site) : Prop :=
  agentUp s a = true ∧ siteOf s k = some i ∧ siteWritable s i = true ∧ ∀ h, a = .vf h → vfSees s h k = true
/-- The agent reaches the registers of household h. -/
def hhOpen (s : State) (a : Agent) (h : Hh) : Prop := agentUp s a = true ∧ ∀ g, a = .vf g → g = h
/-- A register write has been made on the household block: a primary with a twin sends it on while a party-wall port is
ACTIVE (R347, R393). -/
def mirrored (t : State) (off size v : Nat) : State :=
  if t.pw.role = .primary ∧ t.pw.paired = true then sendWall t 0 (.regs (.reg off size v)) else t

/- Engines (R120-R142). -/

/-- Command e of engine en of cluster k is in execution on site i, outside timed mode, and no pool switch stops it. -/
structure AtWork (s : State) (k : Gl) (en : Fin 5) (opcode : Nat) (i : Site) (e : Entry) : Prop where
  live : liveSet s k = some (i, e.hh)
  up : (siteAt s i).inReset = false ∧ frozenFor s i en.val = false ∧ switching s k = false
  run : runningEntry s (.cluster k en) opcode = some e
  untimed : e.t0 = none
  mem : siteMemOk (siteAt s i) = true
/-- No key window stands in the way of the command's first read: none covers its destination, and its sources lie in none
that is not FILLED (R234, R235). -/
def windowsClear (s : State) (i : Site) (e : Entry) : Prop := hitsWindow (setAt s i e.hh) e.opD = false ∧ verdictOf s i e = .go
/-- The rows of a destination lie apart from each other, at multiples of 128. -/
structure RowsApart (t : Tensor) : Prop where
  size : 0 < t.e ∧ 0 < t.inner
  aligned : ∀ r < rowCount t, rowAddr t r % 128 = 0
  apart : ∀ r < rowCount t, ∀ r' < rowCount t, r ≠ r' →
    rowAddr t r + rowBytes t ≤ rowAddr t r' ∨ rowAddr t r' + rowBytes t ≤ rowAddr t r
/-- A source that the destination replaces whole, or does not touch (R128). -/
def apartOrSame (a d : Tensor) : Prop := sameTensor a d = true ∨ ∀ x, covers a x = true → covers d x = false
/-- Site i holds the rows in the pantry tensor d, sealed, and every other byte of its pantry as before. -/
def wroteRows (s t : State) (i : Site) (d : Tensor) (rows : List (List Nat)) : Prop :=
  pRead (viewOf (siteAt t i)) d true = (rows.map fun r => r.map fun x => x % 2 ^ (8 * d.e), none) ∧
    ∀ x, covers d x = false → spGet 0 (siteAt t i).pantry x = spGet 0 (siteAt s i).pantry x
/-- The pantry and its seals stand as before. -/
def samePantry (s t : State) (i : Site) : Prop := (siteAt t i).pantry = (siteAt s i).pantry ∧ (siteAt t i).seals = (siteAt s i).seals
/-- The accumulator file stands as before. -/
def sameAcc (s t : State) (i : Site) : Prop := (siteAt t i).acc = (siteAt s i).acc
/-- An entry once its command is over with a status. -/
def overWith (x : Entry) (st off opd : Nat) : Entry :=
  { x with phase := .done, status := st, offset := off, operand := opd, summary := summaryAt x st }
/-- What an engine command leaves: nothing changes but site i, the doorbells and the fault log; on the site nothing but
pantry, accumulators, the registers of the engines and the stall counts; in the set of the household the queue, where the command is over
with a status after the changes g, its key windows, and the changes f; every other household's set stands. -/
structure Ran (s t : State) (k : Gl) (en : Fin 5) (i : Site) (e : Entry) (st off opd : Nat) (f : HSet → HSet)
    (g : Entry → Entry := id) : Prop where
  package : t = { upSite s i fun _ => siteAt t i with fresh := t.fresh, db := t.db, fo := t.fo }
  ended : qEnts t (.cluster k en) = (qEnts s (.cluster k en)).map fun x => if x.hh = e.hh ∧ x.seq = e.seq then overWith (g x) st off opd else x
  site : let c := siteAt s i
    let d := siteAt t i
    d = { c with pantry := d.pantry, seals := d.seals, recent := d.recent, acc := d.acc, accLines := d.accLines, mx := d.mx,
                 nt := d.nt, pm := d.pm, vx := d.vx, stallLive := d.stallLive, sets := d.sets }
  household : let x := f (setAt s i e.hh)
    let y := setAt t i e.hh
    y = { x with queues := y.queues, wins := y.wins } ∧
      ∀ j, y.queues.get j = if j = en then { x.queues.get j with ents := (y.queues.get j).ents } else x.queues.get j
  others : ∀ g, g ≠ e.hh → setAt t i g = setAt s i g

/- Writes to the memory of a household (R305-R316). -/

/-- The byte of the cellar that a household's address reaches outside a transactional page. -/
def cpaOf (s : State) (h : Hh) (va : Nat) : Nat := match xlate s h true .write va with
  | .ok p => p.frame + va % 65536
  | .error _ => 0
/-- State t is s as far as the memory of household h goes, but for the cellar bytes at the addresses of A. -/
def sameBut (s t : State) (h : Hh) (A : List Nat) : Prop :=
  (hhAt t h).tr = (hhAt s h).tr ∧ (hhAt t h).tx = (hhAt s h).tx ∧ t.selBase = s.selBase ∧ t.cellar.retired = none ∧
    ∀ a, a ∉ A → cGet t a = cGet s a ∧ poisoned t a = poisoned s a
/-- The virtual bytes W of household h are a plain destination: writable and readable pages outside transactions, a
place of its own for every byte, no page table among them, nothing poisoned, over a cellar in canonical form. -/
structure PlainDest (s : State) (h : Hh) (W : List Nat) : Prop where
  pages : ∀ va ∈ W, ∃ p, xlate s h true .write va = .ok p ∧ p.tx = false ∧ p.r = true
  nodup : (W.map (cpaOf s h)).Nodup
  tables : ∀ t, sameBut s t h (W.map (cpaOf s h)) → ∀ acc va, xlate t h true acc va = xlate s h true acc va
  clean : ∀ va ∈ W, poisoned s (cpaOf s h va) = false
  mem : spWf 0 s.cellar.mem = true ∧ s.cellar.retired = none
/-- Addresses of n bytes. -/
def vaRange (a n : Nat) : List Nat := (List.range n).map fun i => (a + i) % 2 ^ 64
/-- Addresses of the bytes and seals of a cellar tensor (R23). -/
def tensorVas (t : Tensor) (sb : Nat) : List Nat :=
  let nb := cdiv (rowBytes t) 4096
  (List.range (rowCount t)).flatMap fun r => vaRange (rowAddr t r) (rowBytes t) ++ vaRange (sb + 4 * (r * nb)) (4 * nb)
/-- Addresses of a destination descriptor and of its first m slots in use, blocks and seals, in order (R32, R34). -/
def cipherVas (d : Desc) (n slots m : Nat) : List Nat :=
  vaRange d.va 64 ++ (List.range m).flatMap fun x =>
    vaRange (d.slotVa (x / slots) (x % slots)) (4 * n) ++ vaRange (d.slotSeal n (x / slots) (x % slots)) (4 * (n / 1024))
/-- A descriptor form on ciphertexts that starts: its descriptors are read, its destination descriptor is plain, and the
pages of its first part or limb translate. -/
structure CipherStarts (s : State) (e : Entry) (l : Lease) (a d : Nat) (src dst : Desc) (feed : Feed) : Prop where
  ops : e.opA = .desc a ∧ e.opB = .none ∧ e.opD = .desc d ∧ e.held = [] ∧ e.pos = 0
  lease : (hhAt s e.hh).lease = some l ∧ 10 ≤ l.log2n ∧ modeOf s e.hh = 0
  descs : readDesc s e.hh a = .ok src ∧ readDesc s e.hh d = .ok dst
  dest : PlainDest s e.hh (vaRange d 64)
  pages : feed.ok 0 = true
/-- It holds both descriptors, LIVE is cleared in the destination's and nothing else in the cellar changes, and it has asked
for its source (R37, R192). -/
def cipherBegun (s t : State) (k : Gl) (en : Fin 5) (e : Entry) (d : Nat) (src dst : Desc) : Prop :=
  qEnts t (.cluster k en) = ((qEnts s (.cluster k en)).map fun x =>
    if x.hh = e.hh ∧ x.seq = e.seq then { x with held := src.raw ++ dst.raw, pos := 0 } else x) ∧
  (∀ b, cGet t b = if b = cpaOf s e.hh ((d + 20) % 2 ^ 64) then cGet s b &&& 0xFE else cGet s b) ∧
  (∃ x, strmOf t (.cluster k en) e false = some x ∧ x.left ≠ []) ∧ t.db = s.db
/-- A descriptor form on ciphertexts that goes on: it holds its descriptors, all it asks for has been read, the destination
is plain for the `total` limbs of the result and its descriptor keeps its layout, and source limb x reads as `limb x` while
no more than the first `before x` limbs of the result are written. -/
structure CipherReady (s : State) (q : QueueId) (e : Entry) (l : Lease) (a d : Nat) (src dst : Desc) (feed : Feed)
    (outSlots total cnt : Nat) (before : Nat → Nat) (limb : Nat → List Nat) : Prop where
  ops : e.opA = .desc a ∧ e.opB = .none ∧ e.opD = .desc d ∧ e.held = src.raw ++ dst.raw ∧ e.pos ≤ feed.count
  lease : (hhAt s e.hh).lease = some l ∧ 10 ≤ l.log2n ∧ modeOf s e.hh = 0
  held : src.va = a ∧ src.raw.length = 64 ∧ dst.va = d ∧ dst.raw.length = 64
  now : ∃ r, readDesc s e.hh d = .ok r ∧ r.capacity = dst.capacity ∧ r.limbBase = dst.limbBase ∧ r.stride = dst.stride ∧
    r.sealBase = dst.sealBase
  dest : PlainDest s e.hh (cipherVas dst (ringN l) outSlots total)
  limbs : ∀ x < cnt, ∀ t, sameBut s t e.hh ((cipherVas dst (ringN l) outSlots (before x)).map (cpaOf s e.hh)) →
    limbFault t e.hh (ringN l) src (x / src.slots) (x % src.slots) .read = none ∧
    readLimb t e.hh (ringN l) src (x / src.slots) (x % src.slots) = .ok (limb x)
  read : ∀ b < feed.count, blockRead s q e feed b = true
/-- The result descriptor: the fields of the source with the level, the domain and the scale of the result, and LIVE set
(R36, R37). -/
def resultDesc (t : State) (h : Hh) (d : Nat) (src dst : Desc) (level domain scale : Nat) : Prop :=
  ∃ r, readDesc t h d = .ok r ∧ r.version = 1 ∧ r.log2n = src.log2n ∧ r.level = level ∧ r.special = src.special ∧
    r.parts = src.parts ∧ r.domain = domain ∧ r.tag = src.tag ∧ r.scale = scale ∧ r.flags = src.flags ∧
    r.flags.testBit 0 = true ∧ r.capacity = dst.capacity ∧ r.limbBase = dst.limbBase ∧ r.stride = dst.stride ∧
    r.sealBase = dst.sealBase
/-- What a command on household memory leaves: nothing changes but the cellar bytes at A and site i, where the command
is over with OK and everything but its own queue stands. -/
structure RanCellar (s t : State) (k : Gl) (en : Fin 5) (i : Site) (e : Entry) (A : List Nat) : Prop where
  package : t = { upSite s i fun _ => siteAt t i with fresh := s.fresh + 1, cellar := { s.cellar with mem := t.cellar.mem, poison := t.cellar.poison } }
  bytes : ∀ a, a ∉ A → cGet t a = cGet s a ∧ poisoned t a = poisoned s a
  ended : ∃ f : Entry → Entry, (∀ x, ∃ held pos, f x = { x with held := held, pos := pos }) ∧
    qEnts t (.cluster k en) = (qEnts s (.cluster k en)).map fun x => if x.hh = e.hh ∧ x.seq = e.seq then overWith (f x) stOk 0 0 else x
  others : ∀ g, g ≠ e.hh → setAt t i g = setAt s i g
  pantry : samePantry s t i ∧ sameAcc s t i

/-- What a command of the stream unit leaves: nothing changes but the cellar bytes and site i; on the site nothing but the
pantry, the streams and the queue, where the command is over with a status after the changes g; in its household's set the
changes f. -/
structure RanStu (s t : State) (k : Gl) (i : Site) (e : Entry) (g : Entry → Entry) (f : HSet → HSet) (st : Nat := stOk) : Prop where
  package : t = { upSite s i fun _ => siteAt t i with cellar := { s.cellar with mem := t.cellar.mem, poison := t.cellar.poison } }
  ended : qEnts t (.cluster k 4) = (qEnts s (.cluster k 4)).map fun x =>
    if x.hh = e.hh ∧ x.seq = e.seq then overWith (g x) st 0 0 else x
  site : let d := siteAt t i
    d = { siteAt s i with pantry := d.pantry, seals := d.seals, recent := d.recent, st := d.st, sets := d.sets }
  household : let x := f (setAt s i e.hh)
    let y := setAt t i e.hh
    y = { x with queues := y.queues } ∧
      ∀ j, y.queues.get j = if j = 4 then { x.queues.get j with ents := (y.queues.get j).ents } else x.queues.get j
  others : ∀ g, g ≠ e.hh → setAt t i g = setAt s i g

/-- No pool switches and the loader has no image in hand, so nothing waits for a cluster to come free. -/
def calm (s : State) : Prop := (∀ i, (s.pools.get i).stage = .none) ∧ s.loader.job = none
/-- A queue with the entries of one command changed. -/
def changed (es : List Entry) (e : Entry) (f : Entry → Entry) : List Entry :=
  es.map fun x => if x.hh = e.hh ∧ x.seq = e.seq then f x else x

/-- The command ends with a next state. -/
def completes (i : Instr) (s : State) : Prop := ∃ t, exec i s = .next t

end Sys2Proof.Machine
end

