-- ==== Sys2Proof/Certificates/Slice0/Obligations.lean ====
section
/-! DEFINITION. The statements for the provers: what the commands of each family do, what they leave, and what every
step keeps. Each docstring says in words what its statement states and names the rules of the spec it formalises. -/

open Sys2Proof Sys2Proof.Machine

/-- For every state: with a command at the front of the queue the step is that command's effect on the state with the
rest of the queue; with an empty queue the state stays (the model's choice, log 1); every command, whatever its
operands, answers a next state; no table word spells a command (log 13), so withFetchWord changes nothing. -/
def Obligations.StepTakesFront : Prop :=
  ∀ (s : State),
    (∀ c cs, s.pending = c :: cs → Machine.step s = exec c { s with pending := cs }) ∧
    (s.pending = [] → Machine.step s = .next s) ∧
    (∀ c : Instr, completes c s) ∧
    (∀ nbits w, s.withFetchWord nbits w = s)

/-- State.reset holds: an empty command queue, no deed, no lease, the identity cluster map, every site in reset and
serving nobody, empty engine queues, semaphores at 0, geometry slot 0 as fixed, shelves off, control cores at MON in
context 16, LOG2S 6, PEER 0xFFFF, RST_TIMEOUT 0x64, UE_LIMIT 4, CE_LIMIT 0x400, OUTLET_DC, SLEW, BAND and SETPOINT_W
of HE_SETPOINT, SB_STAT.OWNER 0xFF, SB_CURVE 7, start-up at step 1. Every cellar byte reads 0 with nothing listed (the
model's choice, log 3), every memory is in canonical form, every core in a legal mode. (R63, R95, R153, R304, R378,
R377, R399, R418, R440, R346, R61, R100.) -/
def Obligations.ResetState : Prop :=
  let s := State.reset
  s.pending = [] ∧ s.deed = none ∧ s.selBase = 0 ∧ s.discCount = 0 ∧ s.loader.sect = 0xFF ∧ s.loader.busy = false ∧
  (∀ k : Gl, s.map.get k = k.val ∧ siteOf s k = some k) ∧
  (∀ i : Site, (siteAt s i).inReset = true ∧ (siteAt s i).served = none ∧ (siteAt s i).retired = false ∧
    (siteAt s i).pantry = [] ∧ (siteAt s i).acc = [] ∧ (siteAt s i).mx.ramp = 0x20 ∧
    ∀ (n : Fin 4) (h : Hh), (siteAt s i).shelves.get n = .off ∧ ((setAt s i h).wins.get n).state = .closed) ∧
  (∀ (i : Site) (h : Hh), (setAt s i h).xsq.run = false ∧ (setAt s i h).psq.enable = false ∧ (setAt s i h).defDl = 0x100 ∧
    (∀ e : Fin 5, ((setAt s i h).queues.get e).ents = [] ∧ ((setAt s i h).queues.get e).halted = false ∧
      ((setAt s i h).geo.get e).get 0 = Geo.slot0) ∧
    ∀ n : Fin 16, ((setAt s i h).sems.get n).count = 0) ∧
  (∀ r : Rg, (coreAt s r).level = 2 ∧ (coreAt s r).ctx = 16 ∧ ((coreAt s r).sumqs.get 0).thresh = 1) ∧
  (∀ h : Hh, (hhAt s h).lease = none ∧ (hhAt s h).cmd.cqEnable = false ∧ (hhAt s h).cmd.cqLog2 = 6 ∧
    (hhAt s h).tr.valid = false ∧ (hhAt s h).tx.opened = false ∧ (hhAt s h).tx.seq = 0 ∧ (hhAt s h).terr.sqEnable = false ∧
    (hhAt s h).terr.rxPeer = 0xFFFF ∧ (hhAt s h).sb.pending = false) ∧
  s.pw.role = .solo ∧ s.rst.por = true ∧ s.rst.timeout = 0x64 ∧ s.boot.stage = 1 ∧
  s.hearth.outletDc = 0x262 ∧ s.hearth.slew = 0x32 ∧ s.hearth.band = 0x14 ∧ s.hearth.setpoint = 0x708 ∧
  s.sb.owner = 0xFF ∧ slotMask s = 7 ∧
  (∀ p : PortId, (portAt s p).state = .off ∧ (portAt s p).neighbour = 0xFFFF) ∧
  (∀ k : StackId, (s.cellar.stackSts.get k).ueLimit = 4 ∧ (s.cellar.stackSts.get k).ceLimit = 0x400) ∧
  (∀ a, cGet s a = 0 ∧ poisoned s a = false) ∧ memOk s = true ∧ modesOk s = true

/-- For every command and every state: when exec answers a next state, the attic's identity is the same, DEED_FLOOR is
not lower and the queue of commands is unchanged; so the invariant 'the attic is a and DEED_FLOOR is at least f' is
kept by every step. Applying a deed with RAISE_FLOOR = 1 raises DEED_FLOOR to its SEQUENCE (never lower than it was),
any other deed leaves it. (R82.) Model choices: logs 4, 23. -/
def Obligations.AtticKeepsIdentityAndFloor : Prop :=
  (∀ (c : Instr) (s t : State), exec c s = .next t → t.attic = s.attic ∧ s.deedFloor ≤ t.deedFloor ∧ t.pending = s.pending) ∧
  (∀ (a : Attic) (f : Nat) (s t : State), s.attic = a ∧ f ≤ s.deedFloor → Machine.step s = .next t → t.attic = a ∧ f ≤ t.deedFloor) ∧
  ∀ (s : State) (d : Deed), (deedCurrent s d).deedFloor = if d.raiseFloor then max s.deedFloor d.sequence else s.deedFloor

/-- For every region whose core is ready, every operation, register and immediate operand: where the group of R96
gives a result (on 64-bit operands, or on the low 32 bits of them), exec answers the next state with that result in Xd
(X0 ignores it), pc + 4 and the single step over. A compare writes 1 or 0; the high half of another 32-bit result is
left open, and so is the result of a shift past the width, a zero divisor or an inexact signed division: the
instruction then still completes, with a free value (the model's choices, log 28). (R96.) -/
def Obligations.IntegerResults : Prop :=
  ∀ (s : State) (r : Rg) (op : IntOp) (xd xa : XReg) (b : IntSrc), coreReady s r →
    let writes (w32 : Bool) (v : Word) : Prop :=
      exec (.integerInstruction r op w32 xd xa b) s = .next (tickFresh (upCore (fetched s r) r fun c => wroteX c xd v))
    (∀ v, intSpec op (xGet s r xa) (intSrcVal s r b) = some v → writes false v) ∧
    (∀ v, intSpec op ((xGet s r xa).setWidth 32) ((intSrcVal s r b).setWidth 32) = some v →
      ∃ u : Word, u.setWidth 32 = v ∧ (isCompare op = true → u = v.setWidth 64) ∧ writes true u) ∧
    ∀ w32, ∃ u, writes w32 u

/-- For every ready core: MULMOD with Xq from 1 to 2^32 - 1 writes the residue to Xd and moves on, and enters the
illegal-instruction trap for every other Xq; a branch goes to pc + d when its condition holds and to pc + 4 otherwise,
a jump to pc + d, a register jump to the register's value, jump-and-link also writes pc + 4 to Xd; nothing else
changes. (R96.) Model choices: log 28. -/
def Obligations.MulmodAndControlFlow : Prop :=
  (∀ (s : State) (r : Rg) (xd xa xb xq : XReg), coreReady s r →
    (0 < xNat s r xq ∧ xNat s r xq < 2 ^ 32 →
      exec (.mulmod r xd xa xb xq) s = .next (upCore (fetched s r) r fun c =>
        wroteX c xd (BitVec.ofNat 64 (xNat s r xa * xNat s r xb % xNat s r xq)))) ∧
    (xNat s r xq = 0 ∨ 2 ^ 32 ≤ xNat s r xq →
      exec (.mulmod r xd xa xb xq) s = .next (upCore (fetched s r) r fun c => stepOver (enterTrap c trapIllegal)))) ∧
  (∀ (s : State) (r : Rg) (op : CfOp), coreReady s r →
    exec (.controlFlowInstruction r op) s = .next (upCore (fetched s r) r fun k => match op with
      | .branch c xa xb d => if condHolds c (xGet s r xa) (xGet s r xb) then { movedOn k with pc := k.pc + d } else movedOn k
      | .jump d => { movedOn k with pc := k.pc + d }
      | .jumpReg xa => { movedOn k with pc := xGet s r xa }
      | .jal xd d => { wroteX k xd (k.pc + 4) with pc := k.pc + d }))

/-- For every ready core, both formats: add, subtract, multiply, divide, fused multiply-add and the conversions write
the result of the exact operation rounded to nearest even; a NaN result is some NaN; compares write 1 or 0 and are
false on a NaN; a conversion to an integer writes the truncated value where it fits and completes with a free value
where it does not. The high half of a binary32 result is free (log 28). (R96.) -/
def Obligations.FloatingPointResults : Prop :=
  ∀ (s : State) (r : Rg), coreReady s r →
    let A (d : Bool) (i : XReg) : FVal := fpArg s r d i
    let writesF (op : FpOp) (d : Bool) (fd : XReg) (res : Option Nat) : Prop :=
      ∃ w, holdsFp d w res ∧
        exec (.floatingPointInstruction r op) s = .next (tickFresh (upCore (fetched s r) r fun c => wroteF c fd w))
    let writesX (op : FpOp) (xd : XReg) (w : Word) : Prop :=
      exec (.floatingPointInstruction r op) s = .next (tickFresh (upCore (fetched s r) r fun c => wroteX c xd w))
    ∀ (d : Bool) (fd fa fb fc : XReg),
      writesF (.add d fd fa fb) d fd (fAdd (fpFmt d) (A d fa) (A d fb)) ∧
      writesF (.sub d fd fa fb) d fd (fAdd (fpFmt d) (A d fa) (fpNegated (A d fb))) ∧
      writesF (.mul d fd fa fb) d fd (fMul (fpFmt d) (A d fa) (A d fb)) ∧
      writesF (.div d fd fa fb) d fd (fDiv (fpFmt d) (A d fa) (A d fb)) ∧
      writesF (.fma d fd fa fb fc) d fd (fFma (fpFmt d) (A d fa) (A d fb) (A d fc)) ∧
      writesF (.cvtF d fd fa) d fd (match A (!d) fa with
        | .nan => none
        | .inf neg => some (fInf (fpFmt d) neg)
        | .fin neg m e => some (fRound (fpFmt d) neg m e)) ∧
      (∀ signed, writesF (.cvtFromInt d signed fd fa) d fd
        (some (fRoundInt (fpFmt d) false (if signed then (xGet s r fa).toInt else ((xGet s r fa).toNat : Int)) 0))) ∧
      (∀ signed, A d fa ≠ .nan → (if signed then -(2 ^ 63) ≤ fToInt (A d fa) ∧ fToInt (A d fa) < 2 ^ 63
          else 0 ≤ fToInt (A d fa) ∧ fToInt (A d fa) < 2 ^ 64) →
        writesX (.cvtToInt d signed fd fa) fd (BitVec.ofInt 64 (fToInt (A d fa)))) ∧
      (∀ signed, ∃ w, writesX (.cvtToInt d signed fd fa) fd w) ∧
      (let ordered := A d fa ≠ .nan ∧ A d fb ≠ .nan
       writesX (.eq d fd fa fb) fd (if ordered ∧ fCmp (A d fa) (A d fb) = 0 then 1 else 0) ∧
       writesX (.lt d fd fa fb) fd (if ordered ∧ fCmp (A d fa) (A d fb) < 0 then 1 else 0) ∧
       writesX (.le d fd fa fb) fd (if ordered ∧ fCmp (A d fa) (A d fb) ≤ 0 then 1 else 0))

/-- For every ready core: MON writes CTX (0 to 16, above that illegal), TRAP_ROUTE and its trap registers; SUP and MON
write, set, clear and read SUP's trap registers, and write SUMCTL, whose FULL a coincident stall keeps set and counts as a lost
clear; SUP's writes of CTX, TRAP_ROUTE and MON's trap registers, every write
by PRG, PRG's reads of the trap registers and every access to an unassigned CSR (log 8) enter the illegal-instruction
trap; the rest of the core is unchanged. (R12, R13, R99, R100, R102, R119.) -/
def Obligations.CsrReadsAndWrites : Prop :=
  ∀ (s : State) (r : Rg) (x : XReg) (hw : Bool), coreReady s r →
    let c := coreAt s r
    let v := xNat s r x
    let writes (n : Nat) (f : Core → Core) : Prop :=
      exec (.csrWrite r n (.write x) hw) s = .next (upCore (fetched s r) r fun c => movedOn (f c))
    let illegal (n : Nat) (op : CsrOp) : Prop :=
      exec (.csrWrite r n op hw) s = .next (upCore (fetched s r) r fun c => stepOver (enterTrap c trapIllegal))
    -- the monitor writes CTX, TRAP_ROUTE and its own trap registers
    (c.level = 2 →
      (v ≤ 16 → writes 0x010 fun c => { c with ctx := v }) ∧
      (16 < v → illegal 0x010 (.write x)) ∧
      writes 0x011 (fun c => { c with route := ⟨v.testBit 4, v.testBit 3, v.testBit 2, v.testBit 1, v.testBit 0⟩ }) ∧
      writes 0x030 (fun c => { c with mon := { c.mon with
        sub := bits v 32 8, prev := bits v 30 2, row := bits v 16 12, kind := bits v 8 8, code := bits v 0 8 } }) ∧
      writes 0x031 (fun c => { c with mon := { c.mon with addr := xGet s r x } }) ∧
      writes 0x032 (fun c => { c with mon := { c.mon with pc := xGet s r x } }) ∧
      writes 0x033 (fun c => { c with mon := { c.mon with vec := xGet s r x } })) ∧
    -- SUP and MON write the set of SUP
    (1 ≤ c.level →
      writes 0x020 (fun c => { c with sup := { c.sup with
        sub := bits v 32 8, prev := bits v 30 2, row := bits v 16 12, kind := bits v 8 8, code := bits v 0 8 } }) ∧
      writes 0x021 (fun c => { c with sup := { c.sup with addr := xGet s r x } }) ∧
      writes 0x022 (fun c => { c with sup := { c.sup with pc := xGet s r x } }) ∧
      writes 0x023 (fun c => { c with sup := { c.sup with vec := xGet s r x } }) ∧
      exec (.csrWrite r 0x021 (.set x) hw) s = .next (upCore (fetched s r) r fun c => movedOn { c with sup := { c.sup with
        addr := c.sup.addr ||| xGet s r x } }) ∧
      exec (.csrWrite r 0x021 (.clear x) hw) s = .next (upCore (fetched s r) r fun c => movedOn { c with sup := { c.sup with
        addr := c.sup.addr &&& ~~~ xGet s r x } }) ∧
      exec (.csrWrite r 0x021 (.read x) hw) s = .next (upCore (fetched s r) r fun c => wroteX c x c.sup.addr)) ∧
    -- SUMCTL of the household in CTX: THRESH takes 1 to 32, FULL clears where written 1 unless a stall sets it now
    (∀ h, coreHh s r = some h → 1 ≤ c.level →
      let q := c.sumqs.get h
      writes 0x110 (fun c => { c with
        sumqs := c.sumqs.set h.val { q with
          full := hw || q.full && !v.testBit 16
          thresh := if 1 ≤ v / 2 ^ 8 % 2 ^ 6 ∧ v / 2 ^ 8 % 2 ^ 6 ≤ 32 then v / 2 ^ 8 % 2 ^ 6 else q.thresh } h.isLt
        lost := if hw && q.full && v.testBit 16 then min (c.lost + 1) 65535 else c.lost })) ∧
    -- lower levels
    (c.level = 1 → illegal 0x010 (.write x) ∧ illegal 0x011 (.write x) ∧ ∀ i < 4, illegal (0x030 + i) (.write x)) ∧
    (c.level = 0 → (∀ n, illegal n (.write x) ∧ illegal n (.set x) ∧ illegal n (.clear x)) ∧
      ∀ i < 4, illegal (0x020 + i) (.read x) ∧ illegal (0x030 + i) (.read x)) ∧
    (∀ n, isCsr n = false → illegal n (.read x) ∧ illegal n (.write x))

/-- For every ready core: SVC and the breakpoint enter SUP where the route register sends them there and MON
otherwise, with CODE, KIND 1, the previous level and the pc saved, the pc at the vector of that level; a delivered
interrupt enters MON with KIND 2; RFT at SUP or MON restores the saved level and pc, at PRG or with a saved level
above its own it is illegal. Nothing else of the core changes but the trap record CC_TRAP. (R102, R425.) Model
choices: logs 8, 28. -/
def Obligations.TrapEntryAndReturn : Prop :=
  (∀ (s : State) (r : Rg), coreReady s r →
    let c := coreAt s r
    let entry (old : TrapSet) (code : Nat) : TrapSet :=
      { sub := 0, prev := c.level, row := 0, kind := 1, code := code, addr := 0, pc := c.pc, vec := old.vec }
    let sup (code : Nat) (k : Core) : Prop :=
      k = { movedOn c with sup := entry c.sup code, level := 1, pc := c.sup.vec, trap := k.trap }
    let mon (code : Nat) (k : Core) : Prop :=
      k = { movedOn c with mon := entry c.mon code, level := 2, pc := c.mon.vec, trap := k.trap }
    (c.level = 0 ∧ c.route.svc = true → ∃ k, exec (.svc r) s = .next (upCore (fetched s r) r fun _ => k) ∧ sup 4 k) ∧
    (c.level = 0 ∧ c.route.svc = false ∨ c.level = 1 ∨ c.level = 2 →
      ∃ k, exec (.svc r) s = .next (upCore (fetched s r) r fun _ => k) ∧ mon 4 k) ∧
    (c.level ≠ 2 ∧ c.route.brk = true → ∃ k, exec (.debugBreakpoint r) s = .next (upCore (fetched s r) r fun _ => k) ∧ sup 3 k) ∧
    (c.level = 2 ∨ c.route.brk = false → ∃ k, exec (.debugBreakpoint r) s = .next (upCore (fetched s r) r fun _ => k) ∧ mon 3 k)) ∧
  ((∀ (s : State) (r : Rg), coreReady s r →
    let c := coreAt s r
    let t := if c.level = 2 then c.mon else c.sup
    (1 ≤ c.level ∧ t.prev ≤ c.level →
      exec (.rft r) s = .next (upCore (fetched s r) r fun c => { movedOn c with level := t.prev, pc := t.pc })) ∧
    (c.level = 0 ∨ c.level < t.prev →
      exec (.rft r) s = .next (upCore (fetched s r) r fun c => stepOver (enterTrap c trapIllegal)))) ∧
  (∀ (s : State) (r : Rg), coreRuns s r = true → irqDue s r = true →
    ∃ k, exec (.interruptEntry r) s = .next (upCore s r fun _ => k) ∧
      k = { coreAt s r with
        tileStall := false, tdefWait := false
        mon := { sub := 0, prev := (coreAt s r).level, row := 0, kind := 2, code := 0, addr := 0, pc := (coreAt s r).pc, vec := (coreAt s r).mon.vec }
        level := 2, pc := (coreAt s r).mon.vec, irq := false, trap := k.trap }))

/-- For every ready core: TDEF configures a tile from Xs with zero contents and not live, or traps, and
waits with TDEF_WAIT while an earlier tile instruction stalls; TCLR zeroes a
configured tile and makes it live; TDEAD makes it not live; TRD and TWR move 8 bytes between a row and a register
where row and offset lie in the shape, and trap with TILE_SHAPE, TILE_UNCONFIGURED or illegal otherwise. Nothing else
changes. (R108, R109, R110, R111, R113, R117.) Model choices: log 28. -/
def Obligations.TileInstructions : Prop :=
  ∀ (s : State) (r : Rg) (t : TReg) (xd xi xs : XReg) (imm : Nat), coreReady s r →
    let x := (coreAt s r).tiles.get t
    let v := xNat s r xs
    let i := xNat s r xi
    let tile (f : Tile → Tile) (c : Core) : Core := movedOn { c with tiles := vmod c.tiles t f }
    let traps (ins : Instr) (k : Trap) : Prop := exec ins s = .next (upCore (fetched s r) r fun c => stepOver (enterTrap c k))
    let zeros : Vector (Vector Byte 256) 16 := .replicate 16 (.replicate 256 0)
    ((coreAt s r).tileStall = false → v < 2 ^ 16 → bits v 12 3 = 0 → bits v 6 2 = 0 →
      exec (.tdef r t xs) s = .next (upCore (fetched s r) r (tile fun _ => ⟨v.testBit 15, bits v 8 4, bits v 0 6, false, zeros⟩))) ∧
    ((coreAt s r).tileStall = false → ¬(v < 2 ^ 16 ∧ bits v 12 3 = 0 ∧ bits v 6 2 = 0) → traps (.tdef r t xs) (trapStatus stTileShape)) ∧
    ((coreAt s r).tileStall = true → exec (.tdef r t xs) s = .next (upCore (fetched s r) r fun c => { c with tdefWait := true })) ∧
    exec (.tdead r t) s = .next (upCore (fetched s r) r (tile fun y => { y with live := false })) ∧
    (x.conf = true → exec (.tclr r t) s = .next (upCore (fetched s r) r (tile fun y => { y with rows := zeros, live := true }))) ∧
    (x.conf = false → traps (.tclr r t) (trapStatus stTileUnconf)) ∧
    (x.conf = true → imm % 8 = 0 → imm ≤ 248 → ∀ hi : i < 16, i ≤ x.rowsM1 → imm + 8 ≤ 4 * (x.bprwM1 + 1) → x.bprwM1 ≤ 63 →
      exec (.trd r xd t xi imm) s = .next (upCore (fetched s r) r fun c => wroteX c xd (BitVec.ofNat 64
        (leNat ((List.range 8).map fun j => ((x.rows.get ⟨i, hi⟩).toList.getD (imm + j) 0))))) ∧
      exec (.twr r t xi imm xs) s = .next (upCore (fetched s r) r (tile fun y => { y with
        live := true
        rows := vmod y.rows ⟨i, hi⟩ fun row => Vector.ofFn fun j =>
          if imm ≤ j.val ∧ j.val < imm + 8 then BitVec.ofNat 8 (v / 256 ^ (j.val - imm)) else row.get j }))) ∧
    (¬(imm % 8 = 0 ∧ imm ≤ 248) → traps (.trd r xd t xi imm) trapIllegal ∧ traps (.twr r t xi imm xs) trapIllegal) ∧
    (imm % 8 = 0 → imm ≤ 248 → x.conf = false →
      traps (.trd r xd t xi imm) (trapStatus stTileUnconf) ∧ traps (.twr r t xi imm xs) (trapStatus stTileUnconf)) ∧
    (imm % 8 = 0 → imm ≤ 248 → x.conf = true → (x.rowsM1 < i ∨ 4 * (x.bprwM1 + 1) < imm + 8) →
      traps (.trd r xd t xi imm) (trapStatus stTileShape) ∧ traps (.twr r t xi imm xs) (trapStatus stTileShape))

/-- For every ready core in the context of a household: SUMPOP removes the oldest entry, its value to Xd and its SEQ,
cluster, tag, status and valid bit to Xm, or writes 0 to both on an empty queue; TSUMPOP moves as many entries as
there are, up to one per row, to the rows of the tile, and their number to Xd. (R115, R116.) Model choices: log 28. -/
def Obligations.SummaryPops : Prop :=
  ∀ (s : State) (r : Rg) (h : Hh) (xd xm : XReg) (t : TReg), coreReady s r → (coreAt s r).ctx = h.val →
    let q := ((coreAt s r).sumqs.get h).ents
    let x := (coreAt s r).tiles.get t
    let put (c : Core) (i : XReg) (v : Word) : Core := { c with x := if i = 0 then c.x else c.x.set i.val v i.isLt }
    let pop (n : Nat) (c : Core) : Core := { c with sumqs := vmod c.sumqs h fun q => { q with ents := q.ents.drop n } }
    (q = [] → exec (.sumpop r xd xm) s = .next (upCore (fetched s r) r fun c => movedOn (put (put c xd 0) xm 0))) ∧
    (∀ m rest, q = m :: rest → exec (.sumpop r xd xm) s = .next (upCore (fetched s r) r fun c => movedOn (put (put (pop 1 c) xd
        (BitVec.ofNat 64 m.value)) xm (BitVec.ofNat 64 (m.seq % 2 ^ 32 + m.cluster % 256 * 2 ^ 32 + m.tag % 256 * 2 ^ 40 +
          m.status % 256 * 2 ^ 48 + 0x80 * 2 ^ 56))))) ∧
    (x.conf = true → 16 ≤ 4 * (x.bprwM1 + 1) → q = [] →
      exec (.tsumpop r xd t) s = .next (upCore (fetched s r) r fun c => wroteX c xd 0)) ∧
    (x.conf = true → 16 ≤ 4 * (x.bprwM1 + 1) → x.rowsM1 < 16 → q ≠ [] →
      ∃ y : Tile, exec (.tsumpop r xd t) s = .next (upCore (fetched s r) r fun c =>
          wroteX { pop (x.rowsM1 + 1) c with tiles := c.tiles.set t.val y t.isLt } xd
            (BitVec.ofNat 64 (min (x.rowsM1 + 1) q.length))) ∧
        y = { x with live := true, rows := y.rows } ∧
        ∀ (i : Fin 16) (j : Fin 256), (y.rows.get i).get j =
          if i.val < min (x.rowsM1 + 1) q.length ∧ j.val < 4 * (x.bprwM1 + 1) then
            (match q[i.val]? with
              | some m => (summaryBytes m).getD j.val 0
              | none => 0)
          else (x.rows.get i).get j)

/-- For every agent that reaches the region window of a region that takes writes: writing HALT sets or clears the
request and the halt (and a release ends an armed step), STEP arms a step exactly when the core is halted; nothing
else changes. (R117, R119.) Model choices: log 30. -/
def Obligations.DebugHaltAndStep : Prop :=
  ∀ (s : State) (a : Agent) (r : Rg) (on : Bool), agentUp s a = true → ownRegion a r = true → regionUp s r = true →
    exec (.ccHaltRequest a r on) s = .next (upCore s r fun c =>
      { c with haltReq := on, halted := on, stepArmed := c.stepArmed && on }) ∧
    exec (.ccStep a r) s = .next (upCore s r fun c => { c with stepArmed := c.halted })

/-- For every ready core and size 1, 2, 4 or 8: a naturally aligned load of mapped, readable, clean bytes puts them in
Xd little-endian (the bits above the size are left open, log 28), with every byte of memory reading as before; a
translation or permission failure enters the memory trap with its address; a load in the range of BAR0 returns the
register read with the flags that hardware sets in that cycle; a misaligned load traps. The fetch leaves only the core's
translation cache. (R12, R96, R97, R100, R101, R102.) -/
def Obligations.CoreLoadReadsItsBytes : Prop :=
  ∀ (s : State) (r : Rg) (xd xb : XReg) (disp : Word) (size : Fin 4) (hw : Nat), coreReady s r →
    let f := fetched s r
    let a := (xGet s r xb + disp).toNat
    let n := 2 ^ size.val
    (inBar s r a = false → a % n = 0 → CacheOk s r → coreFault f r .read a n = none →
      (∀ c ∈ coreCpas f r .read a n, poisoned s c = false) →
      ∃ t w, exec (.coreLoad r xd xb disp size hw) s = .next t ∧
        w.toNat % 2 ^ (8 * n) = leNat ((coreCpas f r .read a n).map (coreByte s r)) ∧
        offCache t r = offCache (upCore s r fun c => wroteX c xd w) r ∧ CacheOk t r ∧
        ∀ b, coreByte t r b = coreByte s r b) ∧
    (inBar s r a = false → a % n = 0 → ∀ st b, coreFault f r .read a n = some (st, b) →
      exec (.coreLoad r xd xb disp size hw) s = .next (upCore (noteCore f r st b) r fun c => stepOver (enterTrap c (trapMemory st b)))) ∧
    (inBar s r a = true → 4 ≤ n → a % n = 0 →
      let u := registerReadOp f (.cc r) (a - 0x8000000000) n hw
      ∃ w, w.toNat % 2 ^ (8 * n) = u.bus % 2 ^ (8 * n) ∧
        exec (.coreLoad r xd xb disp size hw) s = .next (tickFresh (upCore u r fun c => wroteX c xd w))) ∧
    (a % n ≠ 0 ∨ inBar s r a = true ∧ n < 4 →
      exec (.coreLoad r xd xb disp size hw) s = .next (upCore f r fun c => stepOver (enterTrap c trapMisaligned)))

/-- For every ready core and size: a naturally aligned store to mapped, writable bytes changes exactly those bytes, to
the bytes of Xs, in what the core reads; every other byte reads as before; failures of translation trap and store
nothing; a store in the range of BAR0 is the register write with the flags that hardware sets in that cycle; a misaligned
store traps. The fetch leaves only the core's translation cache. (R12, R96, R97, R100, R101, R102.) Model choices: log 27. -/
def Obligations.CoreStoreWritesItsBytes : Prop :=
  ∀ (s : State) (r : Rg) (xs xb : XReg) (disp : Word) (size : Fin 4) (hw : Nat), coreReady s r →
    let f := fetched s r
    let a := (xGet s r xb + disp).toNat
    let n := 2 ^ size.val
    let v := xNat s r xs
    let cpas := coreCpas f r .write a n
    (inBar s r a = false → a % n = 0 → CacheOk s r → coreFault f r .write a n = none →
      (∀ h, coreHh s r = some h → openFrames f h a n = .ok f ∧ commitHolds f h a n = false) → cpas.Nodup →
      ∃ t, exec (.coreStore r xs xb disp size hw) s = .next t ∧ offCache t r = offCache (upCore s r movedOn) r ∧ CacheOk t r ∧
        (∀ j < n, coreByte t r (cpas.getD j 0) = BitVec.ofNat 8 (v / 256 ^ j)) ∧
        ∀ b, b ∉ cpas → coreByte t r b = coreByte s r b) ∧
    (inBar s r a = false → a % n = 0 → ∀ st b, coreFault f r .write a n = some (st, b) →
      exec (.coreStore r xs xb disp size hw) s = .next (upCore (noteCore f r st b) r fun c => stepOver (enterTrap c (trapMemory st b)))) ∧
    (inBar s r a = true → 4 ≤ n → a % n = 0 →
      exec (.coreStore r xs xb disp size hw) s = .next (upCore (registerWriteOp f (.cc r) (a - 0x8000000000) n v hw) r movedOn)) ∧
    (a % n ≠ 0 ∨ inBar s r a = true ∧ n < 4 →
      exec (.coreStore r xs xb disp size hw) s = .next (upCore f r fun c => stepOver (enterTrap c trapMisaligned)))

/-- For every ready core with coherent caches: after FENCE.W every cellar byte is what the core reads; after CINV of a
range in context 16 the cellar holds the core's bytes of the range and no line of the caches covers it; what the core
reads is unchanged by both. (R97.) Model choices: log 27. -/
def Obligations.FenceAndInvalidate : Prop :=
  ∀ (s : State) (r : Rg) (xa xn : XReg), coreReady s r → CacheOk s r →
    (∃ t, exec (.fenceW r) s = .next t ∧ offCache t r = offCache (upCore s r movedOn) r ∧ CacheOk t r ∧
      (∀ b, cGet t b = coreByte s r b) ∧ ∀ b, coreByte t r b = coreByte s r b) ∧
    (coreHh s r = none → ∃ t, exec (.cinv r xa xn) s = .next t ∧ offCache t r = offCache (upCore s r movedOn) r ∧ CacheOk t r ∧
      (∀ b, coreByte t r b = coreByte s r b) ∧
      ∀ b, xNat s r xa ≤ b → b < xNat s r xa + xNat s r xn →
        cGet t b = coreByte s r b ∧ ∀ l ∈ (coreAt t r).cache, b / 64 ≠ l.line)

/-- For every ready core in context 16, a configured tile and aligned addresses below the end of the cellar: TGET
fills exactly the rows and bytes of the shape from memory and makes the tile live; TPUT stores exactly them, later
rows over earlier ones; every other byte reads as before. (R109, R111.) Model choices: log 27. -/
def Obligations.TileMovesByRows : Prop :=
  ∀ (s : State) (r : Rg) (t : TReg) (xb xs : XReg), coreReady s r → CacheOk s r → coreHh s r = none →
    let x := (coreAt s r).tiles.get t
    let b := xNat s r xb
    let d := xNat s r xs
    let rows := x.rowsM1 + 1
    let n := 4 * (x.bprwM1 + 1)
    let row (i : Nat) : Nat := (b + i * d) % 2 ^ 64
    x.conf = true → x.rowsM1 < 16 → x.bprwM1 < 64 → b % 4 = 0 → d % 4 = 0 → (∀ i < rows, row i + n ≤ 2 ^ 39) →
    ((∀ i < rows, ∀ j < n, poisoned s (row i + j) = false) →
      ∃ u y, exec (.tget r t xb xs none) s = .next u ∧
        offCache u r = offCache (upCore s r fun c => movedOn { c with tiles := c.tiles.set t.val y t.isLt }) r ∧
        CacheOk u r ∧ (∀ a, coreByte u r a = coreByte s r a) ∧
        y = { x with live := true, rows := y.rows } ∧
        ∀ (i : Fin 16) (j : Fin 256), (y.rows.get i).get j =
          if i.val < rows ∧ j.val < n then coreByte s r (row i.val + j.val) else (x.rows.get i).get j) ∧
    ((d ≠ 0 ∨ rows = 1) →
      ∃ u, exec (.tput r t xb xs none) s = .next u ∧ offCache u r = offCache (upCore s r movedOn) r ∧ CacheOk u r ∧
        ∀ a, coreByte u r a = (List.range rows).foldl (fun v i =>
          if row i ≤ a ∧ a < row i + n then (rowBytesAt x i 0 n).getD (a - row i) 0 else v) (coreByte s r a))

/-- For every ready core in context 16: TSAVE at a multiple of 64 changes exactly the bytes of the save area to the
image of the tile file; TRESTORE of a good area replaces the tile file by it and changes no byte; and for every tile
file with legal shapes, restoring its image gives back each tile's shape, its configuration, its live bit and, where
live, its contents. (R112.) Model choices: logs 27, 28. -/
def Obligations.TileSaveAndRestore : Prop :=
  (∀ (s : State) (r : Rg) (xb : XReg), coreReady s r → CacheOk s r → coreHh s r = none →
    let b := xNat s r xb
    let img := saveImage (coreAt s r)
    b % 64 = 0 →
    (b + img.length ≤ 2 ^ 39 →
      ∃ u, exec (.tsave r xb none) s = .next u ∧ offCache u r = offCache (upCore s r movedOn) r ∧ CacheOk u r ∧
        ∀ a, coreByte u r a = if b ≤ a ∧ a < b + img.length then img.getD (a - b) 0 else coreByte s r a) ∧
    (let area (k : Nat) : List Byte := (List.range k).map fun i => coreByte s r (b + i)
     let len := areaOff (area 64) 8
     headOk (area 64) = true → b + len ≤ 2 ^ 39 → (∀ i < len, poisoned s (b + i) = false) →
      ∃ u, exec (.trestore r xb none) s = .next u ∧
        offCache u r = offCache (upCore s r fun c => movedOn { c with tiles := restored (area len) }) r ∧
        CacheOk u r ∧ ∀ a, coreByte u r a = coreByte s r a)) ∧
  (∀ (c : Core), (∀ t, ((c.tiles.get t).rowsM1 < 16 ∧ (c.tiles.get t).bprwM1 < 64) ∧
      ((c.tiles.get t).live = true → (c.tiles.get t).conf = true)) →
    headOk ((saveImage c).take 64) = true ∧ areaOff ((saveImage c).take 64) 8 = (saveImage c).length ∧
    ∀ (t : TReg), let x := c.tiles.get t
      let y := (restored (saveImage c)).get t
      y.conf = x.conf ∧ y.rowsM1 = x.rowsM1 ∧ y.bprwM1 = x.bprwM1 ∧ y.live = x.live ∧
      (x.live = true → ∀ (i : Fin 16) (j : Fin 256), i.val ≤ x.rowsM1 → j.val < 4 * (x.bprwM1 + 1) →
        (y.rows.get i).get j = (x.rows.get i).get j))

/-- For every ready core: a push that passes the checks appends the 32-byte record to the queue of its household with
the next SEQ, writes SEQ, free entries and status OK to Xd, and in the synchronised form brings the core's stores to
the cellar; the first failing check gives OPERAND_RANGE, ENG_ABSENT or PERMISSION_FAULT with CC_PUSHREJ and the free
entries of the MVE or larder queue it names; at a queue that takes nothing now the blocking form waits, its stall counted,
and the other returns QUEUE_OVERFLOW; an unaligned register group is illegal. (R88, R103, R104, R105, R106, R107.) Model
choices: logs 8, 28. -/
def Obligations.EnginePushes : Prop :=
  (∀ (s : State) (r : Rg) (h : Hh) (sync : Bool) (xd xa xq xi : XReg) (t : TReg) (q : QueueId), coreReady s r →
    coreHh s r = some h → selQueue (xNat s r xq) = some q → isAbsent s q = false → mayPush s h q = true →
    entryWait s q h = none →
    let f := fetched s r
    let old := queueOf s q h
    let pushed (u : State) (payload : List Byte) : Prop :=
      queueOf u q h = (old.1 ++ [{ newEntry s h (recordOf payload) (some r) 0xFFFFFFFF false with seq := old.2 }],
        (old.2 + 1) % 2 ^ 32) ∧
      (coreAt u r).pc = (coreAt s r).pc + 4 ∧
      (∀ y : XReg, y ≠ 0 → xGet u r y = if y = xd then BitVec.ofNat 64 (old.2 * 2 ^ 32 + (63 - old.1.length) * 2 ^ 8) else xGet s r y) ∧
      u.hhs = f.hhs ∧ u.db = s.db ∧ (coreAt u r).tiles = (coreAt s r).tiles ∧
      (sync = true → CacheOk s r → ∀ b, cGet u b = coreByte s r b) ∧
      (sync = false → u.cellar = s.cellar)
    let x := (coreAt s r).tiles.get t
    (xa.val % 4 = 0 → xa ≠ 0 →
      (∃ u, exec (.enqX r sync xd xa xq) s = .next u ∧ pushed u (regPayload s r xa)) ∧
      ∃ u, exec (.enqXN r sync xd xa xq) s = .next u ∧ pushed u (regPayload s r xa)) ∧
    (x.conf = true → xNat s r xi ≤ x.rowsM1 → 32 ≤ 4 * (x.bprwM1 + 1) →
      (∃ u, exec (.enqT r sync xd t xi xq) s = .next u ∧ pushed u (rowBytesAt x (xNat s r xi) 0 32)) ∧
      ∃ u, exec (.enqTN r sync xd t xi xq) s = .next u ∧ pushed u (rowBytesAt x (xNat s r xi) 0 32))) ∧
  (∀ (s : State) (r : Rg) (xd xa xq : XReg), coreReady s r →
    let f := fetched s r
    let v := xNat s r xq
    (xa.val % 4 = 0 → xa ≠ 0 →
      (let rejected (st : Nat) (bell : State → State) : Prop := ∃ free, free ≤ 64 ∧
          (∀ g, selQueue v = some (.mve g) → free = 64 - (regAt s g).mve.ents.length) ∧
          (∀ g, selQueue v = some (.larder g) → free = 64 - (regAt s g).larder.ents.length) ∧
          let t := bell (tickFresh (upCore f r fun c => { wroteX c xd (BitVec.ofNat 64 (free * 2 ^ 8 + st)) with
            rejStatus := st, rejCtx := c.ctx, rejCount := satInc 16 c.rejCount }))
          exec (.enqX r false xd xa xq) s = .next t ∧ exec (.enqXN r false xd xa xq) s = .next t
       (selQueue v = none → rejected 0x24 id) ∧
       (∀ q, selQueue v = some q → isAbsent s q = true → (coreHh s r = none → rejected 0x21 id) ∧
          ∀ h, coreHh s r = some h → rejected 0x21 fun u => errBell u h) ∧
       (∀ q, selQueue v = some q → isAbsent s q = false → coreHh s r = none → rejected 0x52 id) ∧
       (∀ q h, selQueue v = some q → isAbsent s q = false → coreHh s r = some h → mayPush s h q = false →
          rejected 0x52 fun u => errBell u h)) ∧
      (∀ q h c, selQueue v = some q → isAbsent s q = false → coreHh s r = some h → mayPush s h q = true →
        entryWait s q h = some c →
        exec (.enqX r false xd xa xq) s = .next (stallNote f q h c) ∧
        exec (.enqXN r false xd xa xq) s = .next (upCore f r fun c =>
          wroteX c xd (BitVec.ofNat 64 ((64 - qCount s q h) * 2 ^ 8 + 0x27))))) ∧
    (xa.val % 4 ≠ 0 ∨ xa = 0 → ∀ sync,
      exec (.enqX r sync xd xa xq) s = .next (upCore f r fun c => stepOver (enterTrap c trapIllegal)) ∧
      exec (.enqXN r sync xd xa xq) s = .next (upCore f r fun c => stepOver (enterTrap c trapIllegal))))

/-- For every state: a write of HE_SETPOINT by the physical function or the house takes each field that lies in its
range and keeps the others; a write of TR_EVENT clears the flags written 1 except those that hardware sets at the same
time, and then the block's lost-clear counter advances by one; a read of DISCARD_COUNT returns the count and clears it
unless hardware counts at the same time. Nothing else changes. (R12, R13, R58, R63, R399, R418.) Model choices: logs
25, 30. -/
def Obligations.RegisterFieldsFlagsAndCounters : Prop :=
  (∀ (s : State) (a : Agent) (v hw : Nat), agentUp s a = true → pfOrHouse a = true →
    let f (lo width l h old : Nat) : Nat := let n := v / 2 ^ lo % 2 ^ width
      if l ≤ n ∧ n ≤ h then n else old
    exec (.registerWrite a 0x300008 8 v hw) s = .next { s with hearth := { s.hearth with
      outletDc := f 48 16 400 700 s.hearth.outletDc, slew := f 32 16 5 500 s.hearth.slew
      band := f 16 8 5 100 s.hearth.band, setpoint := f 0 16 600 1800 s.hearth.setpoint } }) ∧
  (∀ (s : State) (a : Agent) (v hw : Nat), agentUp s a = true → pfOrHouse a = true →
    let now (n : Nat) (old : Bool) : Bool := hw.testBit n || (old && !v.testBit n)
    let lost (n : Nat) (old : Bool) : Bool := old && v.testBit n && hw.testBit n
    let t := s.terr
    let u : State := { s with terr := { t with
      evRouteLost := now 2 t.evRouteLost, evFenced := now 1 t.evFenced, evPortFail := now 0 t.evPortFail
      lost := if lost 2 t.evRouteLost || lost 1 t.evFenced || lost 0 t.evPortFail then min (t.lost + 1) 65535 else t.lost } }
    exec (.registerWrite a 0x600200 4 v hw) s = .next (if hw % 8 ≠ 0 then raise u 5 else u)) ∧
  (∀ (s : State) (a : Agent) (hw : Nat), agentUp s a = true → (∀ h, a ≠ .vf h) → s.discCount < 2 ^ 16 →
    exec (.registerRcRead a 0x1200 4 hw) s = .next { s with
      bus := s.discFunc % 2 ^ 16 * 2 ^ 16 + s.discCount
      discCount := if hw = 0 then 0 else min (s.discCount + hw) 65535
      houseLost := if hw ≠ 0 ∧ s.discCount ≠ 0 then min (s.houseLost + 1) 65535 else s.houseLost })

/-- For every state and agent: an access of another size or alignment, or past the map, reads 0, writes nothing and
counts in DISCARD_COUNT with the function. A package held in reset, a porch that waits for its reset, and a control core
outside MON or context 16 reach nothing; a virtual function that is not live gets Unsupported Request. A household's command from another household's function, a command
kept for the house from any other agent, and a command on a cluster window that the agent does not reach or that takes
no writes, are discarded and counted only. (R58, R59, R62, R69, R101, R361, R367, R395, R396.) Model choices: logs 8, 30. -/
def Obligations.RefusedAccesses : Prop :=
  (∀ (s : State) (a : Agent) (off size v hw : Nat),
    let d : State := { s with
      discFunc := match a with
        | .pf => 0
        | .vf h => h.val + 1
        | _ => 0xFFFF
      discCount := min (s.discCount + 1) 65535 }
    (agentUp s a = true → ((size ≠ 4 ∧ size ≠ 8) ∨ off % size ≠ 0 ∨ 0x3E00000 ≤ off) →
      exec (.registerWrite a off size v hw) s = .next d ∧
      exec (.registerRcRead a off size hw) s = .next { d with bus := 0 }) ∧
    (agentUp s a = false →
      let t : State := match a with
        | .vf _ => if alive s = true ∧ quiescing s 0x51 = false then { s with porch := { s.porch with ur := min (s.porch.ur + 1) 65535 } } else s
        | _ => s
      exec (.registerWrite a off size v hw) s = .next t ∧ exec (.registerRcRead a off size hw) s = .next t)) ∧
  (∀ (i : Instr) (s : State) (a : Agent), agentUp s a = true →
    (∀ g h, hhCommandOf i = some (a, h) → a = .vf g → g ≠ h → exec i s = .next (discard s a)) ∧
    (houseCommandOf i = some a → pfOrHouse a = false → exec i s = .next (discard s a)) ∧
    (∀ k, clCommandOf i = some (a, k) → (siteOf s k = none ∨ (∃ g, a = .vf g ∧ vfSees s g k = false) ∨
        ∃ j, siteOf s k = some j ∧ siteWritable s j = false) → exec i s = .next (discard s a)))

/-- For every agent that reaches the window of a cluster in service: the semaphore of the household served takes the
written count, plus or minus one where hardware changes it at the same time (staying at 0xFFFF with OVF set on
overflow); OVF is cleared where written 1; no other semaphore, household or site changes but for the lost-clear
counter of the block. (R136.) Model choices: log 30. -/
def Obligations.SemaphoreWrite : Prop :=
  ∀ (s : State) (a : Agent) (k : Gl) (n : Fin 16) (v : Nat) (hw : Option Bool) (i : Site) (h : Hh),
    clusterOpen s a k i → liveSet s k = some (i, h) →
    let old := (setAt s i h).sems.get n
    let c := v % 65536
    let kept := old.ovf && !v.testBit 16
    let x : Sem := match hw with
      | none => ⟨c, kept⟩
      | some true => ⟨min (c + 1) 65535, kept || c == 65535⟩
      | some false => ⟨c - 1, kept⟩
    let lost := hw = some true ∧ c = 65535 ∧ old.ovf = true ∧ v.testBit 16 = true
    exec (.clSemWrite a k n v hw) s = .next (upSite (upSet s i h fun t => { t with sems := t.sems.set n.val x n.isLt }) i
      fun y => { y with lost := if lost then vmod y.lost 0 (satInc 16) else y.lost })

/-- For every agent that reaches the registers of household h: a write of a word of HH_DT_VALID sets exactly that word
(and the model's record of the entries made valid); a write of HH_CQ_BASE sets base, size (kept where out of range)
and ENABLE, zeroes HEAD and TAIL when ENABLE rises and discards held words when it falls; a paired primary mirrors the
write: REGS leaves by a party-wall port that is ACTIVE. (R131, R139, R153, R347.) Model choices: logs 10, 30. -/
def Obligations.TableAndRingRegisterWrites : Prop :=
  ∀ (s : State) (a : Agent) (h : Hh) (v : Nat), hhOpen s a h →
    (∀ w : Fin 64, ∃ snap, exec (.hhDtValidWrite a h w v) s = .next (mirrored (upCmd s h fun c =>
        { c with dtValid := c.dtValid.set w.val (v % 2 ^ 64) w.isLt, dtSnap := snap }) (0x8000 + 0x200 * h.val + 8 * w.val) 8 v)) ∧
    (let on := v.testBit 7
     let c := (hhAt s h).cmd
     exec (.hhCqBaseWrite a h v) s = .next (mirrored (upCmd s h fun c => { c with
        cqBase := v / 2 ^ 12 % 2 ^ 36 * 2 ^ 12
        cqLog2 := if 6 ≤ v % 32 ∧ v % 32 ≤ 16 then v % 32 else c.cqLog2
        cqEnable := on
        cqHead := if on = true ∧ c.cqEnable = false then 0 else c.cqHead
        cqTail := if on = true ∧ c.cqEnable = false then 0 else c.cqTail
        cqWait := if on = false ∧ c.cqEnable = true then [] else c.cqWait
        cqFault := if on = false ∧ c.cqEnable = true then false else c.cqFault }) (0x4008 + 0x40 * h.val) 8 v))

/-- For every queue: with nothing to start the event changes nothing; a WAIT with count 0 keeps the command, as does one whose
semaphore a lower engine code can take, otherwise the semaphore is taken; then a failing decode check completes it with its
status (ENG_ABSENT with the error doorbell and the log of its core) and otherwise it runs with its decoded operands, the rest
of the queue, memory and, but for translation caches, households unchanged; a PME command without its landing buffer waits in
order of arrival; a resumed command runs on. NOP ends with OK (with SCHED_VIOLATION where
a schedule check fails); SETGEO writes exactly the slot named by valid fields, and ends with OPERAND_RANGE otherwise.
(R121, R122, R125, R132, R134, R135, R148, R149, R283.) Model choices: log 9. -/
def Obligations.CommandsStart : Prop :=
  (∀ (s : State) (q : QueueId) (e : Entry),
    (nextToStart s q = none → exec (.commandStart q) s = .next s) ∧
    (nextToStart s q = some e → e.phase = .resumed →
      exec (.commandStart q) s = .next (upEntry s q e.hh e.seq fun x => { x with phase := .running })) ∧
    (nextToStart s q = some e → e.phase = .queued → e.t0 = none →
      (takeWait s q e = none ∨ semYields s q e = true → exec (.commandStart q) s = .next s) ∧
      (∀ k en i, q = .cluster k en → siteOf s k = some i → e.cmd.waitEn = true → row1 s q e = true → row2 s q e = true →
        e.cmd.credit = false →
        let n : Fin 16 := ⟨e.cmd.wait % 16, by omega⟩
        let x := (setAt s i e.hh).sems.get n
        takeWait s q e = if x.count = 0 then none
          else some (upSet s i e.hh fun t => { t with sems := t.sems.set n.val { x with count := x.count - 1 } n.isLt })) ∧
      (e.cmd.waitEn = false → takeWait s q e = some s) ∧
      (∀ s1, takeWait s q e = some s1 → semYields s q e = false →
        (∀ st, decode s1 q e = .bad st none → st ≠ stEngAbsent → ∃ t, exec (.commandStart q) s = .next t ∧
          qEnts t q = changed (qEnts s q) e (fun x => { x with phase := .done, status := st, summary := summaryAt x st }) ∧
          t.cellar = s.cellar ∧ t.hhs = s.hhs ∧ t.db = s.db) ∧
        (decode s1 q e = .bad stEngAbsent none → ∃ t, exec (.commandStart q) s = .next t ∧
          qEnts t q = changed (qEnts s q) e (fun x => { x with phase := .done, status := 0x21, summary := summaryAt x 0x21 }) ∧
          t.cellar = s.cellar ∧ t.hhs = s.hhs ∧ t.db = (raise s (256 + 48 * e.hh.val)).db ∧
          ∀ r, e.core = some r → (coreAt t r).rejStatus = 0x21 ∧ (coreAt t r).rejCtx = e.hh.val ∧
            (coreAt t r).rejCount = min ((coreAt s r).rejCount + 1) 65535) ∧
        (∀ a b d, decode s1 q e = .good a b d →
          poolWaits s q e a false = false → poolWaits s q e d true = false →
          ((∀ k en, q = .cluster k en → en.val ≤ 3 → needsLanding e.cmd = true → pmeOwnsLanding s (regionOf k) = true →
            (landingTurn s (regionOf k) (k, e.hh, e.seq)).isSome = true) → ∃ t, exec (.commandStart q) s = .next t ∧
            qEnts t q = changed (qEnts s q) e (fun _ => { e with opA := a, opB := b, opD := d, phase := .running }) ∧
            t.cellar = s.cellar ∧ t.hhs.map noTlb = s.hhs.map noTlb ∧ t.db = s.db) ∧
          (∀ k en, q = .cluster k en → en.val ≤ 3 → noOperands e.cmd = false → needsLanding e.cmd = true →
            pmeOwnsLanding s (regionOf k) = true → landingTurn s (regionOf k) (k, e.hh, e.seq) = none →
            ∃ t, exec (.commandStart q) s = .next t ∧ qEnts t q = qEnts s q ∧ (k, e.hh, e.seq) ∈ (regAt t (regionOf k)).lbWait ∧
              t.cellar = s.cellar ∧ t.hhs = s.hhs ∧ t.db = s.db))))) ∧
  (∀ (s : State) (q : QueueId) (e : Entry), (∀ k en, q = .cluster k en → ∃ i, liveSet s k = some (i, e.hh)) →
    let ends (t : State) (st : Nat) : Prop := qEnts t q = changed (qEnts s q) e (fun x => overWith x st 0 0) ∧
      t.cellar = s.cellar ∧ t.hhs = s.hhs ∧ t.db = s.db
    ((qEnts s q).find? (fun e => e.phase == .running && e.cmd.op == 0) = some e →
      ((e.t0 = none ∨ ∀ c ∈ e.checks, c.produce = true) → ∃ t, exec (.nop q) s = .next t ∧ ends t stOk ∧ ∀ h, qGeo t q h = qGeo s q h) ∧
      (∀ k en i, q = .cluster k en → liveSet s k = some (i, e.hh) → e.t0.isSome = true → checksPass s i e = false →
        ∃ t, exec (.nop q) s = .next t ∧ ends t stSched)) ∧
    ((qEnts s q).find? (fun e => e.phase == .running && e.cmd.op == 31) = some e → e.t0 = none →
      let r := e.cmd
      let field (v lo w : Nat) : Nat := v / 2 ^ lo % 2 ^ w
      let es := field r.opa 0 2
      let s1 := sext 32 (field r.opb 0 32)
      let s2 := sext 32 (field r.opd 0 32)
      let so := sext 32 (field r.opb 32 32)
      let good := 0 < r.mod ∧ r.mod < 16 ∧ es ≠ 3 ∧ 0 < field r.opa 38 18 ∧ field r.opa 38 18 ≤ 131072 ∧ s1 % (2 ^ es : Nat) = 0 ∧
        s2 % (2 ^ es : Nat) = 0 ∧ so % 4 = 0 ∧ field r.opa 56 8 = 0 ∧ field r.opa 2 14 = 0 ∧ field r.opd 32 32 = 0
      (good → ∃ t, exec (.setgeo q) s = .next t ∧ ends t stOk ∧ ∀ n : Fin 16, (qGeo t q e.hh).get n =
        if n.val = r.mod then ⟨false, es, field r.opa 38 18, field r.opa 26 12 + 1, field r.opa 16 10 + 1, s1, s2, so⟩
        else (qGeo s q e.hh).get n) ∧
      (¬ good → ∃ t, exec (.setgeo q) s = .next t ∧ ends t stRange ∧ ∀ h, qGeo t q h = qGeo s q h)))

/-- For every queue, while no pool switches and no image loads: with nothing to complete the event changes nothing. A finished command that owes no summary, of an engine
that does not stand frozen and with room for its word and its hand-off, leaves the queue, with DONE (and LAST) updated; with
OK it hands off its OPD and signals its semaphore (saturating with OVF), and NOTIFY raises source 1; with another status the
queue halts, the error doorbell rises, no semaphore is signalled and the XSQ stops; a command with a translation or
permission fault is suspended with SUSP in its word; with its hand-off queue full the command stays. The other queues of
the cluster stand. (R134, R135, R137, R138, R140, R142, R143.) Model choices: log 9. -/
def Obligations.CommandsComplete : Prop :=
  ∀ (s : State) (q : QueueId) (e : Entry), calm s →
    (completing s q = none → exec (.commandComplete q) s = .next s) ∧
    (completing s q = some e → (∀ k en, q = .cluster k en → ∃ i, liveSet s k = some (i, e.hh)) → queueFrozen s q = false →
      e.worded = false → (hhAt s e.hh).cmd.cqWait = [] →
      ((e.cmd.report = true ∨ e.status ≠ stOk) → (hhAt s e.hh).cmd.cqEnable = true ∧ ringState s e.hh = .free) →
      let word (susp : Nat) : State := if e.cmd.report = true ∨ e.status ≠ stOk then ringPut s e.hh
          (statusWord e.status e.cmd.opcode (qUnit q) (64 * susp + 16 * e.operand + e.hh.val) e.seq e.offset e.recIdx) else s
      let gone (ents : List Entry) : List Entry := ents.filter fun y => !(y.hh == e.hh && y.seq == e.seq)
      let bell (v : State) : State := if e.cmd.notify then raise v (256 + 48 * e.hh.val + 1) else v
      let left (t : State) (halt : Bool) : Prop := qEnts t q = gone (qEnts s q) ∧
        (∀ h, qHalted t q h = if halt = true ∧ h = e.hh then true else qHalted s q h) ∧ match q with
        | .cluster k en => ∀ i, siteOf s k = some i → ∀ j, let x := (setAt s i e.hh).queues.get j
          (setAt t i e.hh).queues.get j = if j = en then
            { x with ents := gone x.ents, halted := x.halted || halt, doneSeq := e.seq, lastStatus := e.status } else x
        | .mve r => (regAt t r).mve.doneSeq = e.seq
        | .larder r => (regAt t r).larder.doneSeq = e.seq
      (e.phase = .done → e.summary = none → e.keyFail = false → e.fromPsq = false →
        (e.status = stOk → (∀ i n f, handoffOf s q e = some (i, n, f) → ((setAt s i e.hh).hqs.get n).length < 16) →
          ∃ t, exec (.commandComplete q) s = .next t ∧ t.cellar = (word 0).cellar ∧ t.hhs = (word 0).hhs ∧ t.db = (bell s).db ∧
            left t false ∧
            (∀ i, siteOf s (waitGl q e.cmd.signal) = some i → ∀ n : Fin 16, let x := (setAt s i e.hh).sems.get n
              (setAt t i e.hh).sems.get n = if e.t0 = none ∧ e.cmd.sigEn = true ∧ n.val = e.cmd.signal % 16 then
                (if x.count ≥ 65535 then ⟨65535, true⟩ else ⟨x.count + 1, x.ovf⟩) else x) ∧
            ∀ i n f, handoffOf s q e = some (i, n, f) → (setAt t i e.hh).hqs.get n = (setAt s i e.hh).hqs.get n ++ [f]) ∧
        (e.status = stOk → (∃ i n f, handoffOf s q e = some (i, n, f) ∧ 16 ≤ ((setAt s i e.hh).hqs.get n).length) →
          ∃ t, exec (.commandComplete q) s = .next t ∧ qEnts t q = qEnts s q ∧ t.cellar = s.cellar ∧ t.hhs = s.hhs ∧ t.db = s.db) ∧
        (e.status ≠ stOk → e.status ≠ stAbft → modeOf s e.hh ≠ 2 → (hhAt s e.hh).tx.opened = false →
          ∃ t, exec (.commandComplete q) s = .next t ∧ t.cellar = (word 0).cellar ∧ t.hhs = (word 0).hhs ∧
            t.db = (raise (bell s) (256 + 48 * e.hh.val)).db ∧ left t true ∧
            ∀ k en i, q = .cluster k en → siteOf s k = some i → (setAt t i e.hh).sems = (setAt s i e.hh).sems ∧
              (setAt t i e.hh).xsq = if en.val < 4 then { (setAt s i e.hh).xsq with run := false, lastStatus := e.status }
                else (setAt s i e.hh).xsq)) ∧
      (e.phase = .faulted → e.status ≠ stOk → modeOf s e.hh ≠ 2 →
        ∃ t, exec (.commandComplete q) s = .next t ∧ t.cellar = (word 1).cellar ∧ t.hhs = (word 1).hhs ∧
          t.db = (raise s (256 + 48 * e.hh.val)).db ∧ qHalted t q e.hh = true ∧
          qEnts t q = changed (qEnts s q) e (fun x => { x with phase := .suspended, worded := false })))

/-- For every household: putting a word advances TAIL and writes exactly its 16 bytes at the tail slot with the phase
bit of the pass; the retry of a held word posts it when the ring is free, and on a ring fault records it once with
agent 10 and raises the error doorbell; with nothing held it changes nothing. (R138, R139.) Model choices: log 9. -/
def Obligations.CompletionRing : Prop :=
  ∀ (s : State) (h : Hh) (p : PageX) (w : List Byte),
    let c := (hhAt s h).cmd
    let pos := c.cqTail % 2 ^ c.cqLog2
    let va := c.cqBase + 16 * pos
    let phase : Nat := (c.cqTail / 2 ^ c.cqLog2 + 1) % 2
    (walk s h va = some p → p.tx = false → p.frame % 65536 = 0 → c.cqBase % 16 = 0 → s.cellar.retired = none →
      spWf 0 s.cellar.mem = true → w.length = 16 →
      (hhAt (ringPut s h w) h).cmd.cqTail = (c.cqTail + 1) % 2 ^ 32 ∧
      (∀ j < 16, cGet (ringPut s h w) (p.frame + va % 65536 + j) =
        if j = 3 then BitVec.ofNat 8 ((w.getD 3 0).toNat % 128 + 128 * phase) else w.getD j 0) ∧
      ∀ a, (a < p.frame + va % 65536 ∨ p.frame + va % 65536 + 16 ≤ a) → cGet (ringPut s h w) a = cGet s a) ∧
    (∀ st op unit flags seq off rec, statusWord st op unit flags seq off rec =
      leBytes 1 st ++ leBytes 1 op ++ leBytes 1 unit ++ leBytes 1 flags ++ leBytes 4 seq ++ leBytes 4 off ++ leBytes 4 rec) ∧
    (c.cqWait = [] → exec (.ringWriteRetry h) s = .next s) ∧
    (∀ x, c.cqWait = [x] → ringState s h = .free → exec (.ringWriteRetry h) s =
      .next (upCmd (ringPut s h x.word) h fun c => { c with cqWait := [], cqFault := false })) ∧
    (∀ x xs st a, c.cqWait = x :: xs → ringState s h = .fault st a → c.cqFault = true → exec (.ringWriteRetry h) s = .next s) ∧
    (∀ x xs st a, c.cqWait = x :: xs → ringState s h = .fault st a → c.cqFault = false → exec (.ringWriteRetry h) s =
      .next (raise (upHh s h fun y => { y with
        cmd := { y.cmd with cqFault := true }
        tr := { y.tr with faultStatus := st, faultAgent := 10, faultVa := a % 2 ^ 48 } }) (256 + 48 * h.val)))

/-- For every agent that reaches the window: RESUME of a cluster queue, a larder or an MVE clears the halt of the
household and makes its suspended command run again (behind the command that a move engine now executes); FLUSH (outside a
transaction group, with nothing waiting for the cluster) clears the halt and removes its queued and suspended commands; a
freeze goes only with the wait behind it; the other queues, memory and households stand. (R137, R144, R151, R238, R283.)
Model choices: logs 9, 16. -/
def Obligations.ResumeAndFlush : Prop :=
  ∀ (s : State) (a : Agent),
    let woken (y : Entry) : Entry := if y.phase = .suspended then { y with phase := .running, status := 0, operand := 0, offset := 0 } else y
    let stays (y : Entry) : Bool := y.phase != .queued && y.phase != .suspended && y.phase != .resumed
    (∀ (k : Gl) (en : Fin 5) (i : Site) (h : Hh), clusterOpen s a k i → liveSet s k = some (i, h) → modeOf s h ≠ 2 →
      let q := (setAt s i h).queues.get en
      let e8 : Fin 8 := ⟨en.val, by omega⟩
      let frozenAs (t : State) : Prop := (siteAt t i).frozen = match (siteAt s i).frozen with
        | some (c, u) => if freezeLasts (setAt t i h) c u then some (c, u) else none
        | none => none
      (∃ t, exec (.clQctlResume a k e8) s = .next t ∧ (siteAt t i).qctl = en.val ∧ frozenAs t ∧
        (∀ j, (setAt t i h).queues.get j = if j = en then { q with halted := false, ents := q.ents.map woken } else (setAt s i h).queues.get j) ∧
        t.cellar = s.cellar ∧ t.hhs = s.hhs ∧ t.db = s.db) ∧
      (calm s → (hhAt s h).tx.opened = false → (∀ y ∈ q.ents, y.hh = h) →
        ∃ t, exec (.clQctlFlush a k e8) s = .next t ∧ (siteAt t i).qctl = en.val ∧ frozenAs t ∧
          (∀ j, (setAt t i h).queues.get j = if j = en then { q with halted := false, ents := q.ents.filter stays } else (setAt s i h).queues.get j) ∧
          t.cellar = s.cellar ∧ t.hhs = s.hhs ∧ t.db = s.db)) ∧
    (∀ (r : Rg) (h : Hh), agentUp s a = true → ownRegion a r = true → calm s → (hhAt s h).tx.opened = false →
      let resumed (q : RQueue) (f : Entry → Entry) : RQueue := { q with
        qctl := h.val, halted := q.halted.set h.val false h.isLt, ents := q.ents.map fun y => if y.hh = h then f y else y }
      let behind (q : RQueue) (y : Entry) : Entry := if y.phase = .suspended ∧
          (∃ x ∈ q.ents, x.phase = .running ∨ x.phase = .done ∨ x.phase = .faulted) then { woken y with phase := .resumed } else woken y
      let ldFlushed (g : RegionSt) : LdRegs := { g.ld with slots := g.ld.slots.map fun x => { x with active := x.active &&
        ((g.larder.ents.filter fun y => y.hh != h || stays y).any fun e => e.hh.val == x.hh && e.seq == x.seq && e.phase != .queued) } }
      let flushed (q : RQueue) : RQueue :=
        let es := q.ents.filter fun y => y.hh != h || stays y
        { q with qctl := h.val, halted := q.halted.set h.val false h.isLt, ents := es, streams := q.streams.filter fun x => es.any fun e => e.hh == x.hh && e.seq == x.seq && e.phase != .queued }
      (regionUp s r = true →
        exec (.mvQctlResume a r h) s = .next (upReg s r fun g => { g with mve := resumed g.mve (behind g.mve) }) ∧
        exec (.mvQctlFlush a r h) s = .next (upReg s r fun g => { g with mve := flushed g.mve })) ∧
      (larderUp s r = true →
        exec (.ldQctlResume a r h) s = .next (upReg s r fun g => { g with larder := resumed g.larder woken }) ∧
        ((∀ y ∈ (regAt s r).larder.ents, ¬ (y.hh = h ∧ y.phase = .suspended ∧ y.cmd.opcode = 0xC1)) →
          exec (.ldQctlFlush a r h) s = .next (upReg s r fun g => { g with larder := flushed g.larder, ld := ldFlushed g }))))

/-- For an MM at work whose operands pass the checks, the seals and the key windows: the sums are the sums of products over the
shared rows, modular, of INT8 or of INT4 operands exactly, of FP8 operands in fixed point and then FP32, of BF16 operands over
the binary tree; they are stored in, or added to, exactly the accumulator entries of the destination, or converted to
exactly the rows of a pantry destination, sealed; queue, counters and events are the only other changes. A sum disturbed
once is found, retried with the same results, and counted with its position and group and its wait; disturbed again in the
retry it ends the command with ABFT_MISMATCH at that position. (R154, R155, R156, R158, R159, R160, R161, R162, R163, R165,
R169, R172.) Model choices: log 12. -/
def Obligations.MatrixMultiply : Prop :=
  ∀ (s : State) (k : Gl) (i : Site) (e : Entry) (l : Lease) (a b : Tensor), AtWork s k 0 0x01 i e →
    (hhAt s e.hh).lease = some l → mmCase s i e = .ok (a, b) → windowsClear s i e →
    let sh := bits e.cmd.mod 30 2
    let fm := bits e.cmd.mod 27 3
    let v := viewOf (siteAt s i)
    mmSeals v a b (fm == 5) = none →
    let m := msetOf s i e.hh e.cmd.mod
    let prime (id : Nat) : Nat := (primeOfId l id).getD 1
    let p := mmPass s i e v a b
    let src (t : Tensor) (r x : Nat) : Nat := leNat (spRead 0 v.bytes (rowAddr t r + x * t.e) t.e)
    let nibble (t : Tensor) (r x : Nat) : Int := sext 4 ((List.range 4).map fun n =>
      b2n ((spGet 0 v.bytes (rowAddr t (r + t.c1 * n) + x / 8)).toNat.testBit (x % 8)) * 2 ^ n).sum
    (∀ base, e.opD = .imm base → ∃ t, exec (.mm k .clean) s = .next t ∧ Ran s t k 0 i e stOk 0 0 id ∧ samePantry s t i ∧
      (∀ x < a.inner, ∀ j < b.inner, let n := accEntry base (2 ^ sh) x j
        spGet 0 (siteAt t i).acc n =
          if bits e.cmd.mod 25 2 = 1 then accAdd fm (spGet 0 (siteAt s i).acc n) (p.sum j x) else p.sum j x) ∧
      ∀ n, (∀ x < a.inner, ∀ j < b.inner, n ≠ accEntry base (2 ^ sh) x j) →
        spGet 0 (siteAt t i).acc n = spGet 0 (siteAt s i).acc n) ∧
    (∀ d f, e.opD = .pantry d f → RowsApart d → (fm ≠ 5 → apartOrSame a d ∧ apartOrSame b d) →
      (fm = 5 → ∀ x, planeCovers a x = true ∨ planeCovers b x = true → covers d x = false) →
      ∃ t, exec (.mm k .clean) s = .next t ∧ Ran s t k 0 i e stOk 0 0 id ∧ sameAcc s t i ∧
        wroteRows s t i d ((List.range b.inner).map fun j => (List.range a.inner).map fun x =>
          accConvert fm (p.sum j x) (prime (m.cols.getD j 0xFF)))) ∧
    (∀ x < a.inner, ∀ j < b.inner,
      (fm = 0 → p.sum j x = (((List.range (rowCount a)).map fun r =>
        (src a r x % prime (m.rows.getD r 0xFF)) * (src b r j % prime (m.cols.getD j 0xFF))).sum) % 2 ^ 80) ∧
      (fm = 1 → (p.sum j x : Int) = (((List.range (rowCount a)).map fun r => sext 8 (src a r x) * sext 8 (src b r j)).sum) % 2 ^ 80) ∧
      (fm = 5 → (p.sum j x : Int) = (((List.range a.c1).map fun r => nibble a r x * nibble b r j).sum) % 2 ^ 80) ∧
      (fm = 2 ∨ fm = 3 → let val (n : Nat) : Option Int := if fm = 2 then e4m3Int n else e5m2Int n
        p.sum j x = if ∃ r < rowCount a, val (src a r x) = none ∨ val (src b r j) = none then canonNan
          else fRoundInt fp32 false ((List.range (rowCount a)).map fun r => (val (src a r x)).getD 0 * (val (src b r j)).getD 0).sum
            (2 * if fm = 2 then -9 else -16)) ∧
      (fm = 4 → p.sum j x = treeSum (8 - sh) ((List.range (2 ^ (8 - sh))).map fun r =>
        if r < rowCount a then bfMul (src a r x) (src b r j) else 0) % 2 ^ 32)) ∧
    (∀ f : SumFault, f.off ≠ 0 → f.pos < a.inner → f.col < 128 * 2 ^ sh →
      (∃ t u, exec (.mm k .clean) s = .next u ∧ exec (.mm k ⟨[f], [], []⟩) s = .next t ∧ Ran s t k 0 i e stOk 0 0 id ∧
        (siteAt t i).pantry = (siteAt u i).pantry ∧ (siteAt t i).acc = (siteAt u i).acc ∧
        (siteAt t i).mx = { (siteAt u i).mx with
          retries := min ((siteAt s i).mx.retries + 1) 65535, lastSeq := e.seq, lastGroup := if fm = 4 then 0 else f.col / 128
          retryPassed := true, lastPos := f.pos, evRetry := true } ∧
        (((siteAt t i).stallLive.get 0).get 0) = (((siteAt u i).stallLive.get 0).get 0 + (32 + (a.inner - f.pos))) % 2 ^ 64 ∧
        t.db = (raise s (16 + i.val)).db ∧ t.fo = (logFault s 0x01 k.val i.val stAbft e.hh.val).fo) ∧
      ∀ g : SumFault, g.off ≠ 0 → f.pos ≤ g.pos → g.pos < a.inner → g.col < 128 * 2 ^ sh →
        ∃ t, exec (.mm k ⟨[f], [g], []⟩) s = .next t ∧
          Ran s t k 0 i e stAbft (4 * match e.opD with
            | .pantry _ _ => g.pos / 1024 * 1024
            | _ => g.pos) 3 id ∧
          (siteAt t i).mx.fails = min ((siteAt s i).mx.fails + 1) 65535 ∧ (siteAt t i).mx.evFail = true ∧
          (siteAt t i).mx.retryPassed = false ∧ (siteAt t i).mx.lastPos = g.pos)

/-- For each command at work with passing checks: KEYIP gives the inner product over digits of both halves, into
accumulators or reduced into pantry rows; ACCZ zeroes exactly its lines; ACCST converts accumulators to the rows of a
destination; MODSET loads exactly its modulus set. While no MM or KEYIP is ready and no timed program runs, the array comes
down its ramp from the step it has reached to rest; that and the end of root-table preparation change only their own
registers. (R159, R160, R171, R174, R175, R179, R180, R181, R186.) Model choices: log 12. -/
def Obligations.KeyProductAndAccumulators : Prop :=
  ∀ (s : State) (k : Gl) (i : Site) (e : Entry) (l : Lease), (hhAt s e.hh).lease = some l →
    let v := viewOf (siteAt s i)
    let m := msetOf s i e.hh e.cmd.mod
    let prime (r : Nat) : Nat := (primeOfId l (m.cols.getD r 0xFF)).getD 1
    let acc (t : State) (n : Nat) : Nat := spGet 0 (siteAt t i).acc n
    (∀ a b, AtWork s k 0 0x03 i e → keyipCase s i e = .ok (a, b) → windowsClear s i e → keyipSeals v a b (cdiv a.inner 256) = none → 0 < a.c1 →
      let src (t : Tensor) (r x : Nat) : Nat := leNat (spRead 0 v.bytes (rowAddr t r + 4 * x) 4)
      let u (c r x : Nat) : Nat := ((List.range a.c2).map fun d =>
        (src a (r + a.c1 * d) x % prime r) * (src b (r + a.c1 * (2 * d + c)) x % prime r)).sum
      (∀ base, e.opD = .imm base → ∃ t, exec (.keyip k .clean) s = .next t ∧ Ran s t k 0 i e stOk 0 0 id ∧ samePantry s t i ∧
        (∀ c < 2, ∀ r < a.c1, ∀ x < a.inner, let n := 128 * base + x + a.inner * (r + a.c1 * c)
          acc t n = if bits e.cmd.mod 25 2 = 1 then (acc s n + u c r x) % 2 ^ 80 else u c r x) ∧
        ∀ n, (n < 128 * base ∨ 128 * base + 2 * a.c1 * a.inner ≤ n) → acc t n = acc s n) ∧
      (∀ d f, e.opD = .pantry d f → RowsApart d → apartOrSame a d → apartOrSame b d →
        ∃ t, exec (.keyip k .clean) s = .next t ∧ Ran s t k 0 i e stOk 0 0 id ∧ sameAcc s t i ∧
          wroteRows s t i d ((List.range (2 * a.c1)).map fun r => (List.range a.inner).map fun x =>
            u (r / a.c1) (r % a.c1) x % prime (r % a.c1)))) ∧
    (∀ base, AtWork s k 0 0x04 i e → e.opA = .imm base → e.opB = .none → e.opD = .none → e.cmd.mod < 2 ^ 12 →
      base + e.cmd.mod < 4096 → ∃ t, exec (.accz k) s = .next t ∧ Ran s t k 0 i e stOk 0 0 id ∧ samePantry s t i ∧
        ∀ n, acc t n = if 128 * base ≤ n ∧ n < 128 * (base + e.cmd.mod + 1) then 0 else acc s n) ∧
    (∀ base d, AtWork s k 0 0x05 i e → accstCase s i e = .ok (base, d) → windowsClear s i e → RowsApart d →
      let lay := bits e.cmd.mod 30 2
      let fm := bits e.cmd.mod 27 3
      ∃ t, exec (.accst k []) s = .next t ∧ Ran s t k 0 i e stOk 0 0 id ∧ sameAcc s t i ∧
        wroteRows s t i d ((List.range (rowCount d)).map fun j => (List.range d.inner).map fun x =>
          accConvert fm (acc s (if lay = 3 then 128 * base + (x + d.inner * j) else accEntry base (2 ^ lay) x j))
            (prime (if lay = 3 then j % d.c1 else j)))) ∧
    (∀ a f, AtWork s k 0 0x02 i e → e.opA = .pantry a f → e.opB = .none → e.opD = .none → a.e = 4 → a.inner = 160 →
      rowCount a = 1 → e.cmd.mod < 8 → windowsClear s i e →
      let ids := (spRead 0 v.bytes a.base 640).map BitVec.toNat
      (∀ x ∈ ids, x < l.primes.length ∨ (64 ≤ x ∧ x < 64 + l.specials.length) ∨ x = 0xFF) →
      ∃ t, exec (.modset k) s = .next t ∧ samePantry s t i ∧ sameAcc s t i ∧ Ran s t k 0 i e stOk 0 0 fun y =>
        { y with msets := y.msets.set (e.cmd.mod % 8) ⟨true, ids.take 512, ids.drop 512⟩ (by omega) }) ∧
    (∀ h, liveSet s k = some (i, h) → let m := (siteAt s i).mx
      let kept := arrayReady s k i h none = true ∨ (modeOf s h = 2 ∧ (setAt s i h).xsq.run = true)
      (kept ∨ (m.rampUp = false ∧ m.rampDown = false ∧ m.step = 0) → exec (.mxaRampDown k) s = .next s) ∧
      (¬ kept → let down (x : MxRegs) : Prop := exec (.mxaRampDown k) s = .next (upSite s i fun c => { c with mx := x })
        (m.rampDown = false → (m.rampUp = true ∨ 0 < m.step) → down { m with rampUp := false, rampDown := true, rampNow := m.ramp }) ∧
        (m.rampDown = true → 0 < m.step → down { m with step := m.step - 1 }) ∧
        (m.rampDown = true → m.step = 0 → down { m with rampDown := false }))) ∧
    (∀ h, liveSet s k = some (i, h) → (hhAt s h).lease.isSome = true →
      exec (.rootTableReady k) s = .next (upSet s i h fun t => { t with roots := true }))

/-- For every ring size up to 2^17, prime q above 2 and psi with psi^N = -1 mod q: the forward transform's word k is
the sum of a_i psi^(i(2 br(k)+1)) mod q; the inverse's word i, times N, is the sum of y_k psi^(-i(2 br(k)+1)) mod q,
with psi^(-1) as psi^(2N-1); the inverse of the forward transform returns every word reduced mod q. (R185.) -/
def Obligations.TransformIsEvaluation : Prop :=
  ∀ (n q psi : Nat) (a : List Nat), n ≤ 17 → 2 < q → q < 2 ^ 32 → (∀ d, d ∣ q → d = 1 ∨ d = q) → psi ^ 2 ^ n % q = q - 1 →
    a.length = 2 ^ n →
    let x := a.map (· % q)
    let root (k : Nat) : Nat := psi ^ (2 * bitRev n k + 1)
    (∀ k < 2 ^ n, (ntt n q psi x).getD k 0 = ((List.range (2 ^ n)).map fun i => a.getD i 0 * root k ^ i).sum % q) ∧
    (∀ i < 2 ^ n, (intt n q psi x).getD i 0 < q ∧ 2 ^ n * (intt n q psi x).getD i 0 % q =
      ((List.range (2 ^ n)).map fun k => a.getD k 0 * (root k ^ (2 ^ (n + 1) - 1)) ^ i).sum % q) ∧
    intt n q psi (ntt n q psi x) = x

/-- For FWD and INV at work with passing operands: the destination rows hold the transform of the source rows, each
reduced by and transformed with the prime and root of its chain position, every other pantry byte and the accumulators
stand; LIMBS_DONE counts the rows. A twiddle mismatch is retried with the same results, logged and counted; a second one ends
the command with ABFT_MISMATCH at its limb; a bad block seal of the source ends it with SEAL_FAULT. (R185, R187, R190, R195,
R200.) Model choices: logs 11, 29. -/
def Obligations.LimbTransforms : Prop :=
  ∀ (s : State) (k : Gl) (i : Site) (e : Entry) (l : Lease) (a d : Tensor) (fa fd : Nat) (rows : List (List Nat)),
    (hhAt s e.hh).lease = some l → windowsClear s i e →
    let pos := bits e.cmd.mod 24 7
    let prime (c : Nat) : Nat := (l.primes ++ l.specials).getD c 1
    let words (r : Nat) : List Nat := (rows.getD r []).map (· % prime (pos + r))
    let root (r : Nat) : Nat := l.roots.getD (pos + r) 0
    e.cmd.mod % 2 ^ 24 = 0 → e.cmd.mod < 2 ^ 31 → e.opA = .pantry a fa → e.opB = .none → e.opD = .pantry d fd →
    a.e = 4 → d.e = 4 → pos + rowCount a ≤ l.primes.length + l.specials.length → a.inner = 2 ^ l.log2n → d.inner = 2 ^ l.log2n →
    d.c1 = a.c1 → d.c2 = a.c2 → rowCount a ≤ 76 →
    let fair : Prop := RowsApart d ∧ apartOrSame a d ∧ pRead (viewOf (siteAt s i)) a (!transposed l) = (rows, none)
    let result (t : State) (tr : Nat → List Nat) : Prop := Ran s t k 1 i e stOk 0 0 id ∧ sameAcc s t i ∧
      (siteAt t i).nt.limbsDone = rowCount a ∧ wroteRows s t i d ((List.range (rowCount a)).map tr)
    (AtWork s k 1 0x21 i e → fair →
      ∃ t, exec (.fwd k .clean) s = .next t ∧ result t fun r => ntt l.log2n (prime (pos + r)) (root r) (words r)) ∧
    (AtWork s k 1 0x22 i e → fair →
      ∃ t, exec (.inv k .clean) s = .next t ∧ result t fun r => intt l.log2n (prime (pos + r)) (root r) (words r)) ∧
    (∀ x < rowCount a, e.retried = false → fair →
      let again (t u : State) : Prop := Ran s t k 1 i e stOk 0 0 id (fun y => { y with retried := true }) ∧
        (siteAt t i).pantry = (siteAt u i).pantry ∧ (siteAt t i).nt = { (siteAt u i).nt with
          retries := min ((siteAt s i).nt.retries + 1) 65535, lastSeq := e.seq, evRetry := true } ∧
        t.db = (raise s (16 + i.val)).db ∧ t.fo = (logFault s 0x01 k.val i.val stAbft e.hh.val).fo
      let ended (t : State) (y : Nat) : Prop := Ran s t k 1 i e stAbft (4 * y * ringN l) 3 id (fun z => { z with retried := true }) ∧
        (siteAt t i).nt.fails = min ((siteAt s i).nt.fails + 1) 65535 ∧ (siteAt t i).nt.evFail = true
      (AtWork s k 1 0x21 i e → ∃ t u, exec (.fwd k .clean) s = .next u ∧ exec (.fwd k ⟨some x, none⟩) s = .next t ∧ again t u) ∧
      (AtWork s k 1 0x22 i e → ∃ t u, exec (.inv k .clean) s = .next u ∧ exec (.inv k ⟨some x, none⟩) s = .next t ∧ again t u) ∧
      ∀ y, x ≤ y → y < rowCount a →
        (AtWork s k 1 0x21 i e → ∃ t, exec (.fwd k ⟨some x, some y⟩) s = .next t ∧ ended t y) ∧
        (AtWork s k 1 0x22 i e → ∃ t, exec (.inv k ⟨some x, some y⟩) s = .next t ∧ ended t y)) ∧
    (∀ r, pRead (viewOf (siteAt s i)) a (!transposed l) = (rows, some r) →
      (AtWork s k 1 0x21 i e → ∃ t, exec (.fwd k .clean) s = .next t ∧ Ran s t k 1 i e stSeal 0 0 id ∧ sameAcc s t i) ∧
      (AtWork s k 1 0x22 i e → ∃ t, exec (.inv k .clean) s = .next t ∧ Ran s t k 1 i e stSeal 0 0 id ∧ sameAcc s t i))

/-- For each descriptor form at work: at its start it clears LIVE in the destination descriptor, holds both descriptors and
asks for its source. Once what it asks for has been read, with a plain destination, every limb of the result still to be
written is the transform, automorphism or rescaled limb of the source, the result descriptor has the level, domain, scale and
LIVE bit of R36 and R37, only the destination's cellar bytes change and the command ends with OK. (R36, R37, R38, R39, R192,
R196, R197, R218.) Model choices: logs 11, 16. -/
def Obligations.CiphertextForms : Prop :=
  ∀ (s : State) (k : Gl) (i : Site) (e : Entry) (l : Lease) (a d : Nat) (src dst : Desc) (limb : Nat → List Nat),
    let total := src.parts * src.slots
    let n := ringN l
    let feed := limbFeed s e.hh l src dst
    let ready (en : Fin 5) : Prop := CipherReady s (.cluster k en) e l a d src dst feed src.slots total total id limb
    let result (t : State) (en : Fin 5) (domain : Nat) (f : Nat → List Nat → List Nat) : Prop :=
      RanCellar s t k en i e ((cipherVas dst n src.slots total).map (cpaOf s e.hh)) ∧
      resultDesc t e.hh d src dst src.level domain src.scale ∧
      ∀ x, e.pos ≤ x → x < total → readLimb t e.hh n dst (x / src.slots) (x % src.slots) =
        .ok ((f (src.slotPos l (x % src.slots)) (limb x)).map (· % 2 ^ 32))
    let fits : Prop := destCheck l dst src.slots = none
    let starts : Prop := CipherStarts s e l a d src dst feed ∧ fits
    let galois : Prop := e.cmd.mod % 2 = 1 ∧ e.cmd.mod < 2 * n ∧ e.cmd.mod < 2 ^ 18
    (AtWork s k 1 0x23 i e → e.cmd.mod = 0 → sourceCheck l src (some 0) = none →
      (starts → ∃ t, exec (.fwdct k .clean) s = .next t ∧ cipherBegun s t k 1 e d src dst) ∧
      (ready 1 → fits → ∃ t, exec (.fwdct k .clean) s = .next t ∧ result t 1 1 (transformLimb l false))) ∧
    (AtWork s k 1 0x24 i e → e.cmd.mod = 0 → sourceCheck l src (some 1) = none →
      (starts → ∃ t, exec (.invct k .clean) s = .next t ∧ cipherBegun s t k 1 e d src dst) ∧
      (ready 1 → fits → ∃ t, exec (.invct k .clean) s = .next t ∧ result t 1 0 (transformLimb l true))) ∧
    (AtWork s k 2 0x42 i e → galois → sourceCheck l src none = none →
      (starts → ∃ t, exec (.autoct k) s = .next t ∧ cipherBegun s t k 2 e d src dst) ∧
      (ready 2 → fits → ∃ t, exec (.autoct k) s = .next t ∧ result t 2 src.domain (autoLimb l (src.domain == 1) e.cmd.mod))) ∧
    (∀ m, AtWork s k 3 0x65 i e → e.cmd.mod < 2 → m = e.cmd.mod + 1 → sourceCheck l src (some 0) = none → m < src.level →
      src.special = 0 → destCheck l dst (src.level - m) = none →
      let out := src.level - m
      let parts := partFeed s e.hh l src dst m
      (CipherStarts s e l a d src dst parts → ∃ t, exec (.rescalect k) s = .next t ∧ cipherBegun s t k 3 e d src dst) ∧
      (CipherReady s (.cluster k 3) e l a d src dst parts out (src.parts * out) total (fun x => x / src.slots * out) limb →
        ∃ t, exec (.rescalect k) s = .next t ∧ RanCellar s t k 3 i e ((cipherVas dst n out (src.parts * out)).map (cpaOf s e.hh)) ∧
          resultDesc t e.hh d src dst out 0
            (wrapTo 32 ((src.scale : Int) - (((List.range m).map fun j => l.decs.getD (out + j) 0).sum : Nat))) ∧
          ∀ p, e.pos ≤ p → p < src.parts → ∀ x < out, readLimb t e.hh n dst p x = .ok
            ((((if m = 2 then dropOne l (dropOne l ((List.range src.level).map fun j => limb (p * src.slots + j)))
              else dropOne l ((List.range src.level).map fun j => limb (p * src.slots + j)))).getD x []).map (· % 2 ^ 32))))

/-- For each command at work with passing operands: AUTO puts coefficient j at j*g mod N with its sign, or permutes
the evaluations, and records LAST_G; GATHER reads element idx[x] to x; SCATTER writes element x to idx[x], later
writes over earlier, other elements standing, and ends with SEAL_FAULT where a block of those does not verify; the landing
buffer is released; nothing else changes. (R25, R149, R191, R197, R198, R199.) Model choices: log 11. -/
def Obligations.Permutations : Prop :=
  ∀ (s : State) (k : Gl) (i : Site) (e : Entry) (l : Lease) (a d : Tensor) (fa fd : Nat) (rows : List (List Nat)),
    (hhAt s e.hh).lease = some l → l.log2n ≤ 17 → e.opA = .pantry a fa → e.opD = .pantry d fd → RowsApart d →
    windowsClear s i e → apartOrSame a d → pRead (viewOf (siteAt s i)) a true = (rows, none) →
    let m := 2 ^ l.log2n
    (∀ g pos : Nat, ∀ eval : Bool, AtWork s k 2 0x41 i e → e.opB = .none → e.cmd.mod = g + pos * 2 ^ 24 + (if eval then 2 ^ 31 else 0) →
      g % 2 = 1 → g < 2 * m → g < 2 ^ 18 → pos < 128 → a.e = 4 → d.e = 4 → pos + rowCount a ≤ l.primes.length + l.specials.length →
      a.inner = m → d.inner = m → d.c1 = a.c1 → d.c2 = a.c2 → rowCount a ≤ 76 →
      let q (r : Nat) : Nat := (l.primes ++ l.specials).getD (pos + r) 1
      ∃ t out, exec (.auto k) s = .next t ∧ Ran s t k 2 i e stOk 0 0 id ∧ sameAcc s t i ∧ (siteAt t i).pm.lastG = g ∧
        wroteRows s t i d out ∧ out.length = rowCount a ∧
        ∀ r < rowCount a, (out.getD r []).length = m ∧ ∀ j < m, let w := (rows.getD r []).getD j 0 % q r
          if eval then ∀ u < m, (2 * bitRev l.log2n u + 1) * g % (2 * m) = 2 * bitRev l.log2n j + 1 → (out.getD r []).getD u 0 = w
          else (out.getD r []).getD (j * g % m) 0 = if j * g % (2 * m) < m then w else (q r - w) % q r) ∧
    (∀ b fb idx, (e.opB = .pantry b fb ∧ pRead (viewOf (siteAt s i)) b true = (idx, none) ∧ apartOrSame b d ∨
        ∃ sb raw, e.opB = .cellar b sb ∧ modeOf s e.hh ≠ 2 ∧ e.pos = 0 ∧ e.held = [] ∧ hReadTensor s e.hh b sb = .ok raw ∧ idx = raw.map (elems 4)) →
      e.cmd.mod = 0 → pmeOwnsLanding s (regionOf k) = true → b.e = 4 → a.e = d.e → elemCount b ≤ 131072 →
      (d.e = 1 ∨ d.e = 2 ∨ d.e = 4) → (∀ x ∈ qEnts s (.cluster k 2), x.seq = e.seq → x.hh = e.hh) →
      let src := rows.flatten
      let old := ((List.range (rowCount d)).map fun r => elems d.e (spRead 0 (siteAt s i).pantry (rowAddr d r) (rowBytes d))).flatten
      let ix := idx.flatten
      (AtWork s k 2 0x43 i e → elemCount d = elemCount b → (∀ x ∈ ix, x < elemCount a) →
        ∃ t, exec (.gather k) s = .next t ∧ sameAcc s t i ∧
          Ran s { t with regions := s.regions } k 2 i e stOk 0 0 id ∧ t.regions = (freeLandingOf s k).regions ∧
          wroteRows s t i d ((List.range (rowCount d)).map fun r => (List.range d.inner).map fun x =>
            src.getD (ix.getD (r * d.inner + x) 0) 0)) ∧
      (AtWork s k 2 0x44 i e → elemCount a = elemCount b → (∀ x ∈ ix, x < elemCount d) →
        let bad (n : Nat) : Bool := scatterBad (viewOf (siteAt s i)) d ix (n / rowBlocks d) (n % rowBlocks d)
        ((∀ n < blockCount d, bad n = false) → ∃ t, exec (.scatter k) s = .next t ∧ sameAcc s t i ∧
          Ran s { t with regions := s.regions } k 2 i e stOk 0 0 id ∧ t.regions = (freeLandingOf s k).regions ∧
          ∀ r < rowCount d, ∀ x < d.inner,
            leNat (spRead 0 (siteAt t i).pantry (rowAddr d r + x * d.e) d.e) =
              (((List.range ix.length).filter fun y => ix.getD y 0 == r * d.inner + x).getLast?.elim
                (old.getD (r * d.inner + x) 0) fun y => src.getD y 0) % 2 ^ (8 * d.e)) ∧
        (∀ n < blockCount d, bad n = true → ∃ t, exec (.scatter k) s = .next t ∧ sameAcc s t i ∧
          Ran s { t with regions := s.regions } k 2 i e stSeal 0 0 id ∧ t.regions = (freeLandingOf s k).regions)))

/-- For a chain at work with passing checks: each destination element is what the program stores for it from the A, B,
accumulator and constant values, reduced or formatted; the command's summary is that of its reduce micro-op when SUMEN
asks for it; a program that adds or multiplies A and B gives the sum or product modulo the prime; only the destination
rows, registers and queue change. (R202, R203, R204, R205, R206, R207, R210, R211, R212, R213, R217.) Model choices:
log 12. -/
def Obligations.VectorChains : Prop :=
  ∀ (s : State) (k : Gl) (i : Site) (e : Entry) (isAcc : Bool) (x : ChainMod) (l : Lease) (d : Tensor) (lay base : Nat)
    (ar br : List (List Nat)), AtWork s k 3 (if isAcc then 0x62 else 0x61) i e → windowsClear s i e →
    chainCase s i e isAcc = .ok (x, l, d, lay, base) → RowsApart d → (d.e = 1 ∨ d.e = 2 ∨ d.e = 4) →
    (∀ a f, e.opA = .pantry a f → apartOrSame a d) → (∀ b f, e.opB = .pantry b f → apartOrSame b d) →
    (isAcc = false → chainSource (viewOf (siteAt s i)) e.opA x.infmt (rowCount d) = (ar, none)) →
    chainSource (viewOf (siteAt s i)) e.opB x.infmt (rowCount d) = (br, none) →
    let ops := progOps ((setAt s i e.hh).progs.get x.slot).words
    let q (r : Nat) : Option Nat := (rowPrime s i e.hh l x r).map Prod.fst
    let red (r v : Nat) : Nat := match q r with
      | some m => v % m
      | none => v
    let wordA (r c : Nat) : Nat :=
      if isAcc then accLoad x (q r) (spGet 0 (siteAt s i).acc
        (if lay = 3 then 128 * base + (r * d.inner + c) else accEntry base (2 ^ lay) c r))
      else red r (srcWord ar r c)
    let lane (r c : Nat) : Lane := runLane
      ⟨q r, ((rowPrime s i e.hh l x r).bind fun y => constsAt s i e.hh y.2).getD [], wordA r c, red r (srcWord br r c), c,
        min 512 (d.inner - c / 512 * 512), s.fresh, r * d.inner + c⟩ ops
    let out (r c : Nat) : Nat := match q r with
      | some m => (lane r c).st % m
      | none => fmtWrite d.e x.outfmt (lane r c).st
    let sums := ((List.range (rowCount d)).flatMap fun r => (List.range d.inner).filterMap fun c => (lane r c).sum)
    let kind := (ops.find? fun w => uopCode w == 0x30).elim 0 fun w => w % 4
    let result (t : State) : Prop := sameAcc s t i ∧
      wroteRows s t i d ((List.range (rowCount d)).map fun r => (List.range d.inner).map fun c => out r c) ∧
      Ran s t k 3 i e stOk 0 0 id fun y => { y with summary := if x.sumen then some (summaryOf kind sums) else y.summary }
    (isAcc = false → ∃ t, exec (.chain k) s = .next t ∧ result t) ∧
    (isAcc = true → ∃ t, exec (.chacc k []) s = .next t ∧ result t) ∧
    (∀ m r c, q r = some m → 0 < m → ops = [0x04800000, 0x09000000, 0x20140000, 0xC4000000] →
      out r c = (wordA r c + red r (srcWord br r c)) % m) ∧
    (∀ m r c, q r = some m → 0 < m → ops = [0x04800000, 0x09000000, 0x28140000, 0xC4000000] →
      out r c = wordA r c * red r (srcWord br r c) % m)

/-- For each command at work: CHLOAD makes exactly its slot valid with the words when the program is well formed, and
OPERAND_RANGE otherwise; KLOAD fills exactly its positions; a finished command's summary enters the summary queue of
the core that pushed it, raises the household's source at the threshold, and on a full queue sets FULL and counts the
stall once. (R115, R116, R206, R207, R208, R209, R213, R216.) Model choices: log 12. -/
def Obligations.VectorStateAndSummaries : Prop :=
  ∀ (s : State) (k : Gl) (i : Site) (e : Entry),
    (∀ a f rows, e.opA = .pantry a f → e.opB = .none → e.opD = .none → a.e = 4 → windowsClear s i e →
      pRead (viewOf (siteAt s i)) a true = (rows, none) →
      (AtWork s k 3 0x63 i e → e.cmd.mod < 16 → a.inner ≤ 32 → rowCount a = 1 →
        let ws := rows.flatten ++ List.replicate (32 - a.inner) 0
        (progOk ws = true → ∃ t, exec (.chload k) s = .next t ∧ samePantry s t i ∧ sameAcc s t i ∧
          Ran s t k 3 i e stOk 0 0 fun y => { y with progs := y.progs.set (e.cmd.mod % 16) ⟨true, ws⟩ (by omega) }) ∧
        (progOk ws = false → ∃ t, exec (.chload k) s = .next t ∧ samePantry s t i ∧ Ran s t k 3 i e stRange 0 0 id)) ∧
      (∀ pos l, AtWork s k 3 0x64 i e → (hhAt s e.hh).lease = some l → e.cmd.mod = pos * 2 ^ 23 → pos < 128 → a.inner = 16 →
        pos + rowCount a ≤ l.primes.length + l.specials.length →
        ∃ t cs, exec (.kload k) s = .next t ∧ samePantry s t i ∧ sameAcc s t i ∧
          Ran s t k 3 i e stOk 0 0 (fun y => { y with consts := cs }) ∧
          ∀ x : Fin 76, cs.get x = if pos ≤ x.val ∧ x.val < pos + rowCount a then some (rows.getD (x.val - pos) [])
            else (setAt s i e.hh).consts.get x)) ∧
    (∀ h, liveSet s k = some (i, h) → frozenFor s i 3 = false → (qEnts s (.cluster k 3)).find? owesSummary = some e →
      let r := e.core.getD (regionOf k)
      let q := (coreAt s r).sumqs.get e.hh
      let entry (f : Entry → Entry) (t : State) : Prop := qEnts t (.cluster k 3) =
        (qEnts s (.cluster k 3)).map fun x => if x.hh = e.hh ∧ x.seq = e.seq then f x else x
      let item : Summary := ⟨if e.status = stOk then e.summary.getD 0 else 0, e.seq, k.val, e.cmd.mod % 256, e.status⟩
      (q.ents.length < 32 → ∃ t, exec (.summaryDeliver k) s = .next t ∧
        (coreAt t r).sumqs.get e.hh = { q with ents := q.ents ++ [item] } ∧
        (siteAt t i).vx = { (siteAt s i).vx with sent := ((siteAt s i).vx.sent + 1) % 2 ^ 32 } ∧
        entry (fun x => { x with summary := none, sumStalled := false }) t ∧
        t.db = (if q.ents.length + 1 = q.thresh then (raise s (256 + 48 * e.hh.val + (8 + r.val))).db else s.db) ∧
        t.hhs = s.hhs ∧ t.cellar = s.cellar ∧ samePantry s t i) ∧
      (32 ≤ q.ents.length → e.sumStalled = false → ∃ t, exec (.summaryDeliver k) s = .next t ∧
        (coreAt t r).sumqs.get e.hh = { q with full := true } ∧ entry (fun x => { x with sumStalled := true }) t ∧
        (siteAt t i).vx = { (siteAt s i).vx with stalls := satInc 16 (siteAt s i).vx.stalls, evSumStall := true } ∧
        t.db = (raise (raise s (16 + i.val)) (64 + r.val)).db) ∧
      (32 ≤ q.ents.length → e.sumStalled = true → exec (.summaryDeliver k) s = .next s))

/-- For each command in execution with matching shapes, once its requests are made: LOAD writes the verified cellar rows, sealed,
to the pantry destination and ends with OK, and waits where its next block has not been read; STORE writes the verified pantry
rows and their seals to a plain cellar destination, and ends with OK once no write is left to be acknowledged; every other byte
of pantry and cellar stands. (R229, R230, R249.) Model choices: log 16. -/
def Obligations.LoadAndStore : Prop :=
  ∀ (s : State) (k : Gl) (i : Site) (e : Entry) (a d : Tensor), liveSet s k = some (i, e.hh) → siteMemOk (siteAt s i) = true →
    e.cmd.mod < 2 ^ 16 → e.opB = .none → e.pos = 0 → a.inner = d.inner → a.c1 = d.c1 → a.c2 = d.c2 → a.e = d.e → 0 < d.e →
    let q : QueueId := .cluster k 4
    let upTo (n : Nat) (x : Entry) : Entry := { x with pos := n }
    (∀ sb f rows, stuEntry s k (fun r => r.opcode == 0x81) = some (i, e) → e.opA = .cellar a sb → e.opD = .pantry d f →
      hitsWindow (setAt s i e.hh) (.pantry d f) = false → RowsApart d → (∀ r < rowCount d, rowAddr d r + rowBytes d ≤ pantrySize) →
      hReadTensor s e.hh a sb = .ok rows →
      let read (b : Nat) : Bool := blockRead s q e (tensorFeed s e.hh .read a sb) b
      ((∀ b < blockCount a, read b = true) →
        ∃ t, exec (.load k) s = .next t ∧ RanStu s t k i e (upTo (blockCount d)) id ∧ t.cellar = s.cellar ∧
          wroteRows s t i d (rows.map (elems d.e)) ∧ (siteAt t i).st.streams = (siteAt s i).st.streams) ∧
      (0 < blockCount a → read 0 = false → ∃ t, exec (.load k) s = .next t ∧ t.cellar = s.cellar ∧ samePantry s t i ∧ sameAcc s t i ∧
        qEnts t q = changed (qEnts s q) e (upTo 0))) ∧
    (∀ sb f (rows : Nat → List Byte), stuEntry s k (fun r => r.opcode == 0x82) = some (i, e) → e.opA = .pantry a f →
      e.opD = .cellar d sb → e.status = stOk → e.offset = 0 → e.operand = 0 →
      (∀ r < rowCount a, rowAddr a r + rowBytes a ≤ pantrySize ∧
        pReadRow (viewOf (siteAt s i)) (rowAddr a r) (rowBytes a) true true = some (rows r)) →
      PlainDest s e.hh (tensorVas d sb) → (∀ b < blockCount d, blockIssued s q e (tensorFeed s e.hh .write d sb) b = true) →
      ∃ t, exec (.store k) s = .next t ∧ samePantry s t i ∧ sameAcc s t i ∧
        (writesOut s q e = false → RanStu s t k i e (upTo (blockCount d)) id) ∧
        (writesOut s q e = true → qEnts t q = changed (qEnts s q) e (upTo (blockCount d))) ∧
        hReadTensor t e.hh d sb = .ok ((List.range (rowCount d)).map rows) ∧
        ∀ b, b ∉ (tensorVas d sb).map (cpaOf s e.hh) → cGet t b = cGet s b ∧ poisoned t b = poisoned s b)

/-- For each command in execution with passing fields: KWIN on a CLOSED window makes it OPEN with the descriptor's
tag, level and Galois element over its range; on a window in use it ends with OPERAND_RANGE; CLOSE makes a window that
is not BOUND CLOSED, and ends with OPERAND_RANGE on one that is; the other windows, memory, the pantry and everything else
stand. (R233, R250.) Model choices: log 9. -/
def Obligations.KeyWindows : Prop :=
  ∀ (s : State) (k : Gl) (i : Site) (e : Entry), liveSet s k = some (i, e.hh) →
    let w : Fin 4 := ⟨e.cmd.mod % 4, by omega⟩
    let wins := (setAt s i e.hh).wins
    let ran (t : State) (st : Nat) (f : HSet → HSet) : Prop :=
      RanStu s t k i e id f st ∧ t.cellar = s.cellar ∧ samePantry s t i ∧ (siteAt t i).st = (siteAt s i).st
    (∀ va g d f l bs, stuEntry s k (fun r => r.opcode == 0x83 && !r.mod.testBit 31) = some (i, e) → e.cmd.mod < 4 →
      e.opA = .desc va → e.opB = .imm g → e.opD = .pantry d f → (hhAt s e.hh).lease = some l → g % 2 = 1 → g < 2 ^ (l.log2n + 1) →
      g < 2 ^ 18 → va % 64 = 0 → hRead s e.hh true .read va 64 = .ok bs → sourceCheck l ⟨va, bs⟩ none = none →
      wholeRange d = true → (∀ j, j ≠ w → winOpen (wins.get j) = true → winHits (wins.get j) d = false) →
      ((wins.get w).state = .closed → ∃ t, exec (.kwin k) s = .next t ∧ ran t stOk fun y =>
        { y with wins := y.wins.set w.val ⟨.opened, 0, leAt bs 8 8, l.log2n, leAt bs 2 1, g, d.base, elemCount d / 1024, 0, []⟩ w.isLt }) ∧
      ((wins.get w).state ≠ .closed → ∃ t, exec (.kwin k) s = .next t ∧ ran t stRange id)) ∧
    (stuEntry s k (fun r => r.opcode == 0x83 && r.mod.testBit 31) = some (i, e) → e.cmd.mod % 2 ^ 31 < 4 → e.opA = .none →
      e.opB = .none → e.opD = .none →
      ((wins.get w).state ≠ .bound → ∃ t, exec (.kwinClose k) s = .next t ∧ ran t stOk fun y =>
        { y with wins := y.wins.set w.val KWin.shut w.isLt }) ∧
      ((wins.get w).state = .bound → ∃ t, exec (.kwinClose k) s = .next t ∧ ran t stRange id))

/-- For every queue: of the streams of its unit that can issue (a tag free in the unit and in the command's share, the household
served), the one whose next deadline falls in the earliest 64-ACLK bin, in a tie the one started first, then the first in
the queue, issues its next request; where none can, nothing changes. A clean or corrected reply retires the request it answers,
the first that covers it, and a write acknowledgement the oldest write. The command whose deadline passes first is marked and
counted, once. (R223, R225, R226, R228, R231, R293.) Model choices: log 16. -/
def Obligations.StreamRequests : Prop :=
  ∀ (s : State) (q : QueueId),
    let xs := qStreams s q
    let named (w x : Strm) : Prop := x.hh = w.hh ∧ x.seq = w.seq ∧ x.eng = w.eng ∧ x.write = w.write
    let may (x : Strm) (r : Request) : Prop := (∃ rs, x.left = r :: rs) ∧
      ((xs.flatMap fun y => y.out.map fun z => (z.bytes + 1023) / 1024).sum + (r.bytes + 1023) / 1024 ≤ tagLimit q) ∧
      (x.out.map fun z => (z.bytes + 1023) / 1024).sum + (r.bytes + 1023) / 1024 ≤ tagShare q x ∧ strmServed s q x = true
    let bin (x : Strm) (r : Request) : Nat := (x.start + (x.window * (r.rank + 1) + (max 1 x.total - 1)) / max 1 x.total) / 64
    let before (x y : Strm) (r z : Request) : Prop := bin x r < bin y z ∨ bin x r = bin y z ∧ x.start < y.start
    (∀ pre w r post, xs = pre ++ w :: post → may w r → (∀ y ∈ pre, ∀ z, may y z → before w y r z) →
      (∀ y ∈ post, ∀ z, may y z → ¬ before y w z r) →
      exec (.streamRequestIssue q) s = .next (upStreams s q fun xs => xs.map fun x =>
        if named w x then { x with left := x.left.drop 1, out := x.out ++ x.left.take 1 } else x)) ∧
    ((∀ w ∈ xs, ∀ r, ¬ may w r) → exec (.streamRequestIssue q) s = .next s) ∧
    (∀ cpa pre x post r, calm s → s.cellar.second = none → cpa < 2 ^ 39 → xs = pre ++ x :: post →
      (∀ y ∈ pre, y.write = false → y.eng = qEng q → ∀ z ∈ y.out, cpa < z.cpa ∨ z.cpa + z.bytes ≤ cpa) →
      x.write = false → x.eng = qEng q → x.out.find? (fun z => z.cpa ≤ cpa && cpa < z.cpa + z.bytes) = some r →
      s.cellar.poison.contains (place s cpa / 64 * 64 / 64) = false →
      let u := upStreams s q fun ys => ys.map fun y => if named x y then { y with out := y.out.erase r } else y
      exec (.cellarReadReturn q cpa .clean) s = .next u ∧
      exec (.cellarReadReturn q cpa .onDie) s = .next (let ch := chanOf (place s cpa / 64 * 64 / 256)
        upChan u ⟨ch / 32 % 8, by omega⟩ ⟨ch % 32, by omega⟩ fun c => { c with odc := satInc 16 c.odc })) ∧
    (calm s → (∀ x, xs.find? (fun x => x.write && x.eng == qEng q && !x.out.isEmpty) = some x →
      exec (.cellarWriteAck q none) s = .next (upStreams s q fun ys => ys.map fun y =>
        if named x y then { y with out := y.out.drop 1 } else y)) ∧
      (xs.find? (fun x => x.write && x.eng == qEng q && !x.out.isEmpty) = none → exec (.cellarWriteAck q none) s = .next s)) ∧
    (∀ e, missing s q = some e → modeOf s e.hh ≠ 2 →
      exec (.deadlineMiss q) s = .next (
        let u := upEntry s q e.hh e.seq fun x => { x with missed := true }
        match q with
        | .cluster k _ => match siteOf s k with
          | some i => upSite u i fun c => { c with st := { c.st with dlSeq := e.seq, dlCount := satInc 16 c.st.dlCount } }
          | none => u
        | .larder r => upReg u r fun g => { g with ld := { g.ld with dlMiss := satInc 9 g.ld.dlMiss } }
        | .mve _ => u)) ∧
    (missing s q = none → exec (.deadlineMiss q) s = .next s)

/-- For a STREAM at work whose fields pass: once its header has been read and every subscriber's window is OPEN, served and
agrees with it, the windows become BOUND and the body is asked for; once the body has been read, every bound window becomes
FILLED and holds the key's blocks, stored or regenerated from the seed, with their seals, each bound cluster takes its
hand-off entry and the command ends with OK, or waits where a hand-off queue is full; every other byte and site stands. PREX
adds its announcement while fewer than 8 exist; an expansion writes every regenerated half-limb and its seals to its area,
counts it and raises the region's doorbell, or drops the announcement where the area is not writable. (R44, R236, R239, R240,
R243, R245, R251, R252, R253.) Model choices: log 16. -/
def Obligations.KeyStreams : Prop :=
  (∀ (s : State) (r : Rg) (e : Entry) (l : Lease) (va iv f : Nat) (d : Tensor) (bs : List Byte) (blk : Nat → List Byte),
    runningEntry s (.larder r) 0xC1 = some e → (hhAt s e.hh).lease = some l → 10 ≤ l.log2n → e.opA = .desc va → e.opB = .imm iv →
    e.opD = .pantry d f →
    let c := e.cmd.mod
    let w : Fin 4 := ⟨c / 2 ^ 26 % 4, by omega⟩
    let pos0 := c / 2 ^ 14 % 2 ^ 7
    let posN := c / 2 ^ 7 % 2 ^ 7
    let lv := iv % 2 ^ 7
    let k : KeyHdr := ⟨bs⟩
    let subs := ownedSubs s r e
    let digits := cdiv lv k.alpha
    let nb := 2 ^ l.log2n / 1024
    let total := digits * 2 * posN * nb
    let feed := bodyFeed s r e l va k
    let window (s : State) (i : Site) : KWin := (setAt s i e.hh).wins.get w
    let slots (t : State) (f : LdSlot → LdSlot) : Prop := (regAt t r).ld.slots = (regAt s r).ld.slots.map fun x =>
      if x.active = true ∧ x.hh = e.hh.val ∧ x.seq = e.seq then f x else x
    c % 2 ^ 7 = 0 → c / 2 ^ 21 % 2 ^ 5 = 0 → iv / 2 ^ 7 % 2 ^ 9 = 0 → c / 2 ^ 28 % 16 ≠ 0 → subs.length = popCount 4 (c / 2 ^ 28 % 16) →
    0 < lv → lv ≤ l.primes.length → 0 < posN → pos0 + posN ≤ lv + l.specials.length → bs.length = 256 → wholeRange d = true →
    (subs.map fun x => x.2.2).Nodup → (∀ x ∈ subs, serves s x.2.2 e.hh = true ∧ siteMemOk (siteAt s x.2.2) = true) →
    -- the header is read and the subscribers are bound
    (e.held = [] → e.pos = 0 → hRead s e.hh true .read va 256 = .ok bs → blockRead s (.larder r) e (headerFeed s e.hh va) 0 = true →
      keyCheck l va k (some lv) = none → d.inner = 2 ^ l.log2n → d.c1 = posN → d.c2 = 2 * digits →
      (∀ x ∈ subs, let y := window s x.2.2
        y.state = .opened ∧ y.base = d.base ∧ y.blocks = elemCount d / 1024 ∧ y.tag = k.tag ∧ y.g = k.galois ∧ y.level = lv) →
      ∃ t m, exec (.stream r) s = .next t ∧ t.cellar = s.cellar ∧ m = maskOf 4 (fun j => subs.any fun y => y.1.val == j) ∧
        (regAt t r).larder.ents = changed (regAt s r).larder.ents e (fun x => { x with held := bs ++ leBytes 1 m }) ∧
        slots t (fun x => { x with bound := m, left := total }) ∧
        (∀ x ∈ subs, window t x.2.2 = { window s x.2.2 with state := .bound, fill := 0 } ∧ samePantry s t x.2.2) ∧
        (∀ i, (∀ x ∈ subs, x.2.2 ≠ i) → siteAt t i = siteAt s i) ∧
        ∃ x, strmOf t (.larder r) e false = some x ∧ x.out = [] ∧ ((∀ b < total, feed.ok b = true) → x.upto = total)) ∧
    -- the body goes to them
    (∀ m, e.held = bs ++ leBytes 1 m → m < 16 → e.pos = 0 → 0 < total → (∀ b < total, blockRead s (.larder r) e feed b = true) →
      (∀ b < total, let row := b / nb
        let dg := row / posN / 2
        let half := row / posN % 2
        let p := pos0 + row % posN
        let limb := if p < lv then p else 64 + (p - lv)
        match keySrc (2 ^ l.log2n) k (preExpanded s r e.hh va k) dg half (if p < lv then p else k.limbs + p - lv) (b % nb) with
        | .stored a sl => hReadBlock s e.hh a 4096 sl = .ok (blk b)
        | .regen => blk b = unElems 4 (((regenLimb k.seed dg limb ((primeOfId l limb).getD 2) (2 ^ l.log2n)).drop (1024 * (b % nb))).take 1024) ∧
            (blk b).length = 4096) →
      let bound := subs.filter fun x => m.testBit x.1.val
      (∀ j : Fin 4, m.testBit j.val = true → ∃ x ∈ subs, x.1 = j) →
      (∀ x ∈ bound, (window s x.2.2).state = .bound ∧ (window s x.2.2).fill = 0) →
      let n : Fin 8 := ⟨e.cmd.hq % 8, by omega⟩
      let full : Prop := e.cmd.handoff = true ∧ ∃ x ∈ bound, 16 ≤ ((setAt s x.2.2 e.hh).hqs.get n).length
      ∃ t, exec (.stream r) s = .next t ∧ t.cellar = s.cellar ∧
        (full → (regAt t r).larder.ents = changed (regAt s r).larder.ents e (fun x => { x with pos := total })) ∧
        (¬ full → (regAt t r).larder.ents = changed (regAt s r).larder.ents e (fun x => overWith { x with pos := total } stOk 0 0)) ∧
        slots t (fun x => { x with left := 0 }) ∧
        (∀ x ∈ bound, window t x.2.2 = { window s x.2.2 with state := .filled, fill := total, seen := [] } ∧
          (setAt t x.2.2 e.hh).hqs.get n = (setAt s x.2.2 e.hh).hqs.get n ++ (if e.cmd.handoff = true ∧ ¬ full then [f] else []) ∧
          (∀ b < total, spRead 0 (siteAt t x.2.2).pantry (d.base + 4096 * b) 4096 = blk b ∧
            spGet 0 (siteAt t x.2.2).seals ((d.base + 4096 * b) / 128) = blockSeal (blk b)) ∧
          ∀ y, (y < d.base ∨ d.base + 4096 * total ≤ y) → spGet 0 (siteAt t x.2.2).pantry y = spGet 0 (siteAt s x.2.2).pantry y) ∧
        ∀ i, (∀ x ∈ bound, x.2.2 ≠ i) → siteAt t i = siteAt s i)) ∧
  (∀ (s : State) (r : Rg) (h : Hh) (l : Lease), (hhAt s h).lease = some l →
    (∀ e va d sb bs, runningEntry s (.larder r) 0xC2 = some e → e.hh = h → e.opA = .desc va → e.opB = .none → e.opD = .cellar d sb →
      e.cmd.mod = 0 → hRead s h true .read va 256 = .ok bs → keyCheck l va ⟨bs⟩ none = none → KeyHdr.compressed ⟨bs⟩ = true →
      let ends (st : Nat) (es : List Entry) : List Entry := es.map fun x => if x.hh = h ∧ x.seq = e.seq then overWith x st 0 0 else x
      ((regAt s r).ld.ann.length < 8 → exec (.prex r) s = .next (upReg s r fun g => { g with
        ld := { g.ld with ann := g.ld.ann ++ [⟨h, bs, 0, va, d.base, false⟩] }, larder := { g.larder with ents := ends stOk g.larder.ents } })) ∧
      (8 ≤ (regAt s r).ld.ann.length → exec (.prex r) s = .next (upReg s r fun g => { g with
        larder := { g.larder with ents := ends stRange g.larder.ents } }))) ∧
    (∀ a, expansionOn s r = true → (regAt s r).ld.ann.find? (fun a => !a.done) = some a → a.hh = h →
      let k : KeyHdr := ⟨a.header⟩
      let n := 2 ^ l.log2n
      let rows := k.digits * k.positions
      let seals := a.area + rows * 4 * n
      let bad := areaBad s h a.area (rows * 4 * n) || areaBad s h seals (rows * (n / 256))
      let half (row : Nat) : List Nat := let i := row % k.positions
        let id := if i < k.limbs then i else 64 + (i - k.limbs)
        regenLimb k.seed (row / k.positions) id ((primeOfId l id).getD 2) n
      let W := vaRange a.area (rows * 4 * n) ++ vaRange seals (4 * (rows * (n / 1024)))
      (bad = true → exec (.prexExpansion r) s = .next (raise (upReg s r fun g => { g with
        ld := { g.ld with ann := g.ld.ann.erase a, evPrexDrop := true } }) (64 + r.val))) ∧
      (bad = false → PlainDest s h W → 10 ≤ l.log2n →
        ∃ t, exec (.prexExpansion r) s = .next t ∧ t.db = (raise s (64 + r.val)).db ∧ t.sites = s.sites ∧ t.hhs = s.hhs ∧
          (regAt t r).ld = { (regAt s r).ld with
            evPrexDone := true
            regenKw := ((regAt s r).ld.regenKw + rows * (n / 1024)) % 2 ^ 32
            ann := (regAt s r).ld.ann.map fun x => if x = a then { x with done := true } else x } ∧
          (∀ row < rows, (half row).length = n → ∀ j < n / 1024, hReadBlock t h ((a.area + row * 4 * n + 4096 * j) % 2 ^ 64) 4096
            ((seals + 4 * (row * (n / 1024) + j)) % 2 ^ 64) = .ok (unElems 4 (((half row).drop (1024 * j)).take 1024))) ∧
          ∀ b, b ∉ W.map (cpaOf s h) → cGet t b = cGet s b ∧ poisoned t b = poisoned s b)) ∧
    (expansionOn s r = false → exec (.prexExpansion r) s = .next s))

/-- For a cluster in service: a trigger takes one count and fetches the job record, unless an engine command can take the
semaphore; COMBINE fails a job that does not pass its checks, and otherwise writes exactly the combined elements of the limb
and appends the limb's records to the MXA queue; a job whose last MM has completed signals the done semaphore, reports and
notifies as its record says and moves on; SKIP and RESUME clear a failure or suspension, a resumed job starting at limb 0.
Fetches fill only translation caches. (R258, R261, R262, R263, R264, R265.) Model choices: log 18. -/
def Obligations.PolynomialSequencer : Prop :=
  ∀ (s : State) (a : Agent) (k : Gl) (i : Site) (h : Hh), liveSet s k = some (i, h) →
    let p := (setAt s i h).psq
    let j : Job := ⟨p.jobRec⟩
    let put (f : Psq → Psq) : State := upSet s i h fun t => { t with psq := f t.psq }
    let anew (p : Psq) : Psq := { p with
      limb := 0, issued := 0, allIssued := false, worded := false, checked := false, expanded := false, lastDone := false }
    let trig : Fin 16 := ⟨p.trigSem % 16, by omega⟩
    let done : Fin 16 := ⟨p.doneSem % 16, by omega⟩
    -- t is u apart from translation caches
    let reaches (c : Instr) (u : State) : Prop := ∃ t, exec c s = .next t ∧ t = { u with hhs := t.hhs } ∧ t.hhs.map noTlb = u.hhs.map noTlb
    (p.enable = true → p.busy = false → p.failed = false → (siteAt s i).inReset = false → stopping s k = false →
      modeOf s h ≠ 2 → (hhAt s h).tx.committing = false → 0 < ((setAt s i h).sems.get trig).count →
      (∀ bs, (∀ q ∈ semQueues k, semTaker s q ≠ some (k, trig, h)) → hRead s h true .read ((p.base + 64 * p.next) % 2 ^ 64) 64 = .ok bs →
        reaches (.psqTrigger k) (upSet s i h fun t => { t with
          sems := vmod t.sems trig fun x => { x with count := x.count - 1 }
          psq := { anew t.psq with busy := true, job := p.next, jobRec := bs, suspended := false } })) ∧
      ((∃ q ∈ semQueues k, semTaker s q = some (k, trig, h)) → exec (.psqTrigger k) s = .next s)) ∧
    (∀ l, (hhAt s h).lease = some l → p.busy = true → p.suspended = false → p.allIssued = false → p.jobRec ≠ [] →
      (siteAt s i).inReset = false → siteMemOk (siteAt s i) = true → stopping s k = false →
      (∀ st, p.checked = false → jobCheck (siteAt s i) (setAt s i h) l j = some st → ∃ t, exec (.combine k) s = .next t ∧
        (setAt t i h).psq = { p with busy := false, suspended := false, failed := true, lastStatus := st, worded := false, evFail := true } ∧
        (setAt t i h).queues = (setAt s i h).queues ∧ samePantry s t i) ∧
      (jobCheck (siteAt s i) (setAt s i h) l j = none →
        p.expanded = false → p.issued = 0 →
        let q0 := (setAt s i h).queues.get 0
        bufferBusy q0.ents j p.limb = false → q0.ents.length + j.records ≤ 64 → q0.next < 2 ^ 32 →
        let buf := j.scratch + p.limb % 2 * 0x10280
        let q : Nat := (l.primes ++ l.specials).getD (j.chainPos + p.limb) 1
        let last := decide (p.limb + 1 ≥ j.limbs)
        ∃ t, exec (.combine k) s = .next t ∧
          (∀ r < j.rows, ∀ b < j.cols, leNat (spRead 0 (siteAt t i).pantry (buf + r * (cdiv (4 * j.cols) 128 * 128) + 4 * b) 4) =
            (jobElem (siteAt s i) j r b % (q : Int)).toNat % 2 ^ 32) ∧
          (∀ x, (x < buf ∨ buf + 0x10280 ≤ x) → spGet 0 (siteAt t i).pantry x = spGet 0 (siteAt s i).pantry x) ∧
          ((setAt t i h).queues.get 0).ents = q0.ents ++ (List.range j.records).map (fun n =>
            { newEntry s h (jobRecord j p.limb n) none 0xFFFFFFFF false with
                fromPsq := true, handle := false, late := false, seq := (q0.next + n) % 2 ^ 32 }) ∧
          (setAt t i h).psq = { p with
            checked := true, expanded := false, lastSeq := (q0.next + j.records + 2 ^ 32 - 1) % 2 ^ 32
            issued := 0, limb := if last then p.limb else p.limb + 1, allIssued := last } ∧
          t.cellar = s.cellar ∧ t.hhs = s.hhs ∧ t.db = s.db)) ∧
    (p.busy = true → p.allIssued = true → p.lastDone = true → (hhAt s h).cmd.cqEnable = true →
      (hhAt s h).cmd.cqWait = [] → ringState s h = .free → p.worded = false →
      let u := if j.report then ringPut s h (statusWord stOk 0xFE k.val h.val p.job p.limb 0xFFFFFFFF) else s
      let t := upSet u i h fun t => { t with
        sems := vmod t.sems done fun x => if x.count ≥ 0xFFFF then ⟨0xFFFF, true⟩ else ⟨x.count + 1, x.ovf⟩
        psq := { t.psq with busy := false, worded := false, lastStatus := stOk, next := (p.next + 1) % 2 ^ 32, allIssued := false } }
      exec (.psqJobComplete k) s = .next (if j.notify then raise t (256 + 48 * h.val + 1) else t)) ∧
    (p.lastDone = false ∨ p.allIssued = false → exec (.psqJobComplete k) s = .next s) ∧
    (clusterOpen s a k i → p.failed = true →
      exec (.psSkip a k) s = .next (put fun p => { p with failed := false, next := (p.next + 1) % 2 ^ 32 }) ∧
      (p.suspended = false → p.jobRec ≠ [] → exec (.psResume a k) s = .next (put fun p => { anew p with failed := false, busy := true }))) ∧
    (∀ bs, clusterOpen s a k i → p.suspended = true → hRead s h true .read ((p.base + 64 * p.job) % 2 ^ 64) 64 = .ok bs →
      reaches (.psResume a k) (put fun p => { anew p with suspended := false, jobRec := bs }))

/-- For an agent that reaches the window of a cluster in service: START of a stopped XSQ clears its state, waits for its first
line and, in timed mode, begins the array's ramp at step 0, and otherwise only records ENTRY; STOP ends it, in timed mode with
the array's ramp-down; RESUME ends a suspension; a fill of a missing line puts its 1,024 bytes in the cache, and on a
translation or permission fault suspends the XSQ with agent 1 and the error doorbell. Only stall counts and translation caches
change besides. (R143, R144, R145, R148, R152, R175.) Model choices: logs 10, 32. -/
def Obligations.SequencerControl : Prop :=
  ∀ (s : State) (a : Agent) (k : Gl) (i : Site) (h : Hh), liveSet s k = some (i, h) →
    let x := (setAt s i h).xsq
    let timed := modeOf s h == 2
    -- t is u apart from the stall counts of the site, counters of free values and translation caches
    let near (u t : State) : Prop := t = { upSite u i (fun c => { c with stallLive := (siteAt t i).stallLive }) with
      fresh := t.fresh, hhs := t.hhs } ∧ t.hhs.map noTlb = u.hhs.map noTlb
    let still (u : State) (c : SiteSt) : Option (FreezeCause × Nat) := match c.frozen with
      | some (b, n) => if freezeLasts (setAt u i h) b n then some (b, n) else none
      | none => none
    let rampsDown (m : MxRegs) : MxRegs := if m.rampUp = true ∨ m.rampDown = true ∨ m.step ≠ 0 then
      { m with rampUp := false, rampDown := true, rampNow := m.ramp } else m
    (clusterOpen s a k i →
      (∀ entry, x.run = false → x.suspended = false → x.halting = false → x.due = none → modeOf s h ≠ 0 →
        (hhAt s h).lease.isSome = true →
        let t := upXsq s i h fun x => { x with
          entry := entry, run := true, pc := entry, checks := 0, processed := 0, loops := [], pend := [], cache := []
          tPrev := 0, accept := .replicate 5 0, gen := .replicate 64 0, adv := [] }
        ∃ u, exec (.xsqStart a k entry) s = .next u ∧ near (if timed then upSite t i fun c => { c with
          inflight := [], accFly := [], frozen := some (.cacheMiss, 5)
          mx := { c.mx with step := 0, rampUp := true, rampDown := false, rampNow := c.mx.ramp } } else t) u) ∧
      (∀ entry, x.run = true ∨ x.suspended = true ∨ modeOf s h = 0 →
        exec (.xsqStart a k entry) s = .next (upXsq s i h fun x => { x with entry := entry })) ∧
      (calm s → x.halting = false →
        let t := upXsq s i h fun x => { x with run := false, suspended := false, pend := [], loops := [] }
        exec (.xsqStop a k) s = .next (upSite t i fun c => { c with
          mx := if timed = true ∧ (x.run = true ∨ x.suspended = true) then rampsDown c.mx else c.mx, frozen := still t c })) ∧
      (calm s → x.halting = true → exec (.xsqStop a k) s = .next s) ∧
      (x.suspended = true → exec (.xsqResume a k) s = .next (upXsq s i h fun x => { x with suspended := false })) ∧
      (x.suspended = false → exec (.xsqResume a k) s = .next s)) ∧
    (x.run = true → x.suspended = false → x.due = none → frozenFor s i 5 = false →
      (∀ l ∈ x.cache, l.1 ≠ (x.base + 32 * x.pc) % 2 ^ 64 / 1024) →
      let line := (x.base + 32 * x.pc) % 2 ^ 64 / 1024
      let va := 1024 * line
      (∀ bs, hRead s h true .read va 1024 = .ok bs → x.cache.length < 64 → ∃ u, exec (.xsqCacheFill k) s = .next u ∧
        near (setFrozen (upXsq s i h fun x => { x with cache := (line, bs) :: x.cache }) i none) u) ∧
      (∀ st a, hRead s h true .read va 1024 = .error (.fault st a) → (hhAt s h).cmd.cqEnable = false →
        let t := upXsq (raise (upTr s h fun t => { t with
          faultStatus := st, faultAgent := 1, faultVa := a % 2 ^ 48 }) (256 + 48 * h.val)) i h fun x => { x with
            suspended := true, lastStatus := st }
        ∃ u, exec (.xsqCacheFill k) s = .next u ∧ near (if timed then setFrozen t i (some (.fault, 5)) else t) u))

/-- For an XSQ in execution at a record of each kind with legal fields whose next record is cached: it moves on, loops, pushes a
word to a hand-off queue, arms a check, issues the record to its engine queue with its timed start, or halts with its word and
source 3, in timed mode with the array's ramp-down; the first record of a timed program ends the start ramp; a halted compute
queue stops it; a token advance adds one to its generation in order of time. (R142, R143, R145, R148, R460.) Model choices:
logs 10, 32. -/
def Obligations.SequencerRecords : Prop :=
  ∀ (s : State) (k : Gl) (i : Site) (h : Hh), liveSet s k = some (i, h) →
    let x := (setAt s i h).xsq
    let timed := modeOf s h == 2
    let kept (pc : Nat) : Prop := (xsqBytes x pc).isSome = true
    let up : State := if timed = true ∧ (siteAt s i).mx.rampUp = true then
      upSite s i fun c => { c with mx := { c.mx with rampUp := false, step := 7 } } else s
    (∀ r : Record, xsqNext s k = some (i, h, r) → modeOf s h ≠ 0 → (timed = true ↔ r.delta ≠ 0) →
      (∀ w ∈ (hhAt s h).cmd.cqWait, ∀ n, w.owner ≠ some (.cluster k 0, 2 ^ 32 + n)) →
      let went (loops : List Loop) (pc : Nat) : State := upXsq up i h fun x => { x with
        pc := pc, loops := loops, processed := (x.processed + 1) % 2 ^ 32, lastStatus := stOk, tPrev := x.tPrev + r.delta }
      let bare := r.ctrl = 0 ∧ r.opa = 0 ∧ r.opb = 0 ∧ r.opd = 0
      (r.opcode = 0xE0 → bare → r.mod = 0 → kept (x.pc + 1) → exec (.xsqNop k) s = .next (went x.loops (x.pc + 1))) ∧
      (r.opcode = 0xE1 → bare → r.mod < 65536 → x.loops.length < 4 → kept (x.pc + 1) →
        exec (.loop k) s = .next (went (⟨x.pc + 1, r.mod⟩ :: x.loops) (x.pc + 1))) ∧
      (r.opcode = 0xE2 → bare → r.mod = 0 → ∀ l ls, x.loops = l :: ls →
        (l.left = 0 → kept (x.pc + 1) → exec (.endloop k) s = .next (went ls (x.pc + 1))) ∧
        (0 < l.left → kept l.body → exec (.endloop k) s = .next (went (⟨l.body, l.left - 1⟩ :: ls) l.body))) ∧
      (r.opcode = 0xE5 → bare → r.mod = 0 → xsqInflight (setAt s i h) = false → (hhAt s h).cmd.cqWait = [] →
        (hhAt s h).cmd.cqEnable = true → ringState s h = .free → x.worded = false →
        let t := ringPut (upXsq up i h fun x => { x with
            run := false, halting := false, worded := false, loops := [], pend := [], pc := x.pc + 1
            processed := (x.processed + 1) % 2 ^ 32, lastStatus := stOk, tPrev := x.tPrev + r.delta }) h
          (statusWord stOk 0xE5 k.val h.val ((x.processed + 1) % 2 ^ 32) 0 x.pc)
        exec (.halt k) s = .next (raise (upSite t i fun c => { c with
          mx := if timed = true ∧ (c.mx.rampUp = true ∨ c.mx.rampDown = true ∨ c.mx.step ≠ 0) then
            { c.mx with rampUp := false, rampDown := true, rampNow := c.mx.ramp } else c.mx
          frozen := match c.frozen with
            | some (b, n) => if freezeLasts (setAt t i h) b n then some (b, n) else none
            | none => none }) (256 + 48 * h.val + 3))) ∧
      (∀ (n : Fin 8) (v : Nat), r.opcode = 0xE3 → r.ctrl = 32 + n.val → 6 ≤ n.val →
        r.opa = 5 * 2 ^ 61 + v → v < 2 ^ 32 →
        r.opb = 0 → r.opd = 0 → r.mod = 0 → ((setAt s i h).hqs.get n).length < 16 → kept (x.pc + 1) →
        exec (.hqpush k) s = .next (upSet (setFrozen up i none) i h fun t => { t with
          hqs := t.hqs.set n.val (t.hqs.get n ++ [r.opa]) n.isLt
          xsq := { t.xsq with pc := x.pc + 1, processed := (x.processed + 1) % 2 ^ 32, lastStatus := stOk
                              tPrev := x.tPrev + r.delta } })) ∧
      (∀ en : Fin 5, r.opcode / 32 = en.val → r.opcode < 128 → (∀ j : Fin 5, j.val < 4 → ((setAt s i h).queues.get j).halted = false) →
        ((setAt s i h).queues.get en).ents.length < 64 →
        (en = 0 → (setAt s i h).psq.busy = false ∨ (setAt s i h).psq.allIssued = true) → kept (x.pc + 1) →
        (noOperands r = true ∨ ∀ f ∈ [r.opa, r.opb, r.opd], f / 2 ^ 61 ≠ 6) →
        exec (.xsqRecordIssue k) s = .next (upSet (setFrozen up i none) i h fun t => { t with
          xsq := { t.xsq with pc := x.pc + 1, processed := (x.processed + 1) % 2 ^ 32, pend := []
                              tPrev := x.tPrev + r.delta }
          queues := t.queues.set en.val { t.queues.get en with
            ents := (t.queues.get en).ents ++ [{ newEntry s h r none x.pc true with
              checks := x.pend, seq := (t.queues.get en).next, t0 := if timed then some (x.tPrev + r.delta) else none }]
            next := ((t.queues.get en).next + 1) % 2 ^ 32 } en.isLt })) ∧
      (∀ j : Fin 5, r.opcode < 128 → j.val < 4 → ((setAt s i h).queues.get j).halted = true →
        exec (.xsqRecordIssue k) s = .next (upXsq s i h fun x => { x with run := false }))) ∧
    (∀ r : Record, xsqNext s k = some (i, h, r) → r.opcode = 0xE4 → kept (x.pc + 1) →
      (∀ w ∈ (hhAt s h).cmd.cqWait, ∀ n, w.owner ≠ some (.cluster k 0, 2 ^ 32 + n)) →
      (schedOn s h = false → exec (.check k) s = .next (upXsq up i h fun x => { x with
        pc := x.pc + 1, processed := (x.processed + 1) % 2 ^ 32 })) ∧
      (schedOn s h = true → r.ctrl = 0 → r.delta = 0 → r.opa = 0 → r.opb = 0 → r.opd = 0 →
        ∀ p g n, n < 64 → g < 256 → r.mod = b2n p * 2 ^ 15 + n * 2 ^ 8 + g →
        exec (.check k) s = .next (upXsq up i h fun x => { x with
          pc := x.pc + 1, processed := (x.processed + 1) % 2 ^ 32, lastStatus := stOk
          checks := if x.checks + 1 < 2 ^ 16 then x.checks + 1 else 2 ^ 16 - 1, pend := x.pend ++ [⟨p, n, g⟩] }))) ∧
    (∀ t n pre post, x.adv = pre ++ (t, n, false) :: post → n < 64 → (∀ a ∈ pre, a.2.2 = true ∨ t < a.1) →
      (∀ a ∈ post, a.2.2 = true ∨ t ≤ a.1) → exec (.tokenAdvance k) s = .next (upXsq s i h fun x => { x with
        gen := Vector.ofFn fun m => if m.val = n then (x.gen.get m + 1) % 256 else x.gen.get m
        adv := pre ++ (t, n, true) :: post }))

/-- For a COPY at work with matching shapes between pantries of clusters held exclusively or a cellar range, once its source has
been read and its writes are issued: the destination holds the verified source rows, sealed, every other byte stands, and only
the MVE's queue and the hallway counter change besides; it ends with OK once no write is left to be acknowledged. (R284, R285,
R286.) Model choices: log 17. -/
def Obligations.CopyMovesTensor : Prop :=
  ∀ (s : State) (r : Rg) (e : Entry) (x y : Fin 4) (a d : Tensor) (rows : List (List Nat)), runningEntry s (.mve r) 0xA1 = some e →
    e.opB = .none → e.pos = 0 → e.status = stOk → e.offset = 0 → e.operand = 0 →
    a.inner = d.inner → a.c1 = d.c1 → a.c2 = d.c2 → a.e = d.e → d.e ∈ [1, 2, 4] →
    let q : QueueId := .mve r
    let into (z : Fin 4) (i : Site) : Prop := siteOf s (clusterOf r z) = some i ∧ holdsExcl s e.hh (clusterOf r z) = true
    let free (i : Site) (t : Tensor) : Prop := ∀ w ∈ (setAt s i e.hh).wins.toList, winHits w t = true → w.state = .closed
    let read : Prop := (∃ j f, e.opA = .pantry a f ∧ into x j ∧ free j a ∧ pRead (viewOf (siteAt s j)) a true = (rows, none) ∧
        strmOf s q e false = none ∧
        (∀ r < rowCount a, rowAddr a r + rowBytes a ≤ pantrySize) ∧
        ∀ i f, e.opD = .pantry d f → siteOf s (clusterOf r y) = some i → i = j → ∀ u, covers a u = true → covers d u = false) ∨
      (∃ sb bs, x = 0 ∧ e.opA = .cellar a sb ∧ hReadTensor s e.hh a sb = .ok bs ∧ rows = bs.map (elems a.e) ∧
        (∀ z, strmOf s q e false = some z → z.left = [] ∧ z.out = [] ∧ blockCount a ≤ z.upto) ∧
        ∀ sd, e.opD = .cellar d sd → ∀ u, covers a u = true → covers d u = false)
    let moved (t : State) (f : Entry → Entry) : Prop := t = { upReg (upSite s (siteOf s (clusterOf r y) |>.getD 0) fun _ =>
          siteAt t (siteOf s (clusterOf r y) |>.getD 0)) r fun _ => regAt t r with
        fresh := t.fresh, cellar := { s.cellar with mem := t.cellar.mem, poison := t.cellar.poison } } ∧
      ∃ n st, regAt t r = { regAt s r with
        ld := { (regAt s r).ld with hwBlocks := n }
        mvStall := st
        mve := { (regAt s r).mve with ents := changed (qEnts s q) e f } }
    let done (t : State) : Prop := moved t fun z => overWith { z with pos := blockCount d } stOk 0 0
    e.cmd.mod = x.val * 2 ^ 30 + y.val * 2 ^ 28 → read →
    (∀ i f, e.opD = .pantry d f → into y i → free i d → siteMemOk (siteAt s i) = true → RowsApart d → rowBytes d % 4096 = 0 →
      (∀ r < rowCount d, rowAddr d r + rowBytes d ≤ pantrySize) → strmOf s q e true = none →
      ∃ t, exec (.copy r) s = .next t ∧ done t ∧ wroteRows s t i d rows ∧ t.cellar = s.cellar ∧
        siteAt t i = { siteAt s i with pantry := (siteAt t i).pantry, seals := (siteAt t i).seals, recent := (siteAt t i).recent }) ∧
    (∀ sb, y = 0 → e.opD = .cellar d sb → PlainDest s e.hh (tensorVas d sb) →
      (∀ b < blockCount d, blockIssued s q e (tensorFeed s e.hh .write d sb) b = true) →
      ∃ t, exec (.copy r) s = .next t ∧ t.sites = s.sites ∧
        (writesOut s q e = false → done t) ∧ (writesOut s q e = true → moved t fun z => { z with pos := blockCount d }) ∧
        hReadTensor t e.hh d sb = .ok (rows.map (unElems d.e)) ∧
        ∀ b, b ∉ (tensorVas d sb).map (cpaOf s e.hh) → cGet t b = cGet s b ∧ poisoned t b = poisoned s b)

/-- For every site: the end of a wake zeroes exactly its shelf and turns it ON; the end of zeroing clears the ON
shelves and the accumulators, counts and raises the site's doorbell; an aperture access by the house or the physical
function reads or writes exactly its bytes on an ON shelf of a cluster that serves nobody, and is discarded and
counted otherwise. (R280, R281, R282.) Model choices: log 30. -/
def Obligations.PantryShelvesAndAperture : Prop :=
  ∀ (s : State) (i : Site), siteMemOk (siteAt s i) = true →
    let c := siteAt s i
    let at' (t : State) (x : Nat) : Byte := spGet 0 (siteAt t i).pantry x
    let slot (t : State) (x : Nat) : Nat := spGet 0 (siteAt t i).seals x
    (calm s → ∀ j : Fin 4,
      (c.shelves.get j = .waking → ∃ t, exec (.shelfWakeDone i j) s = .next t ∧ t = upSite s i (fun _ => siteAt t i) ∧
        siteAt t i = { c with
          shelves := c.shelves.set j.val .on j.isLt, pantry := (siteAt t i).pantry, seals := (siteAt t i).seals } ∧
        (∀ x, at' t x = if x / 3145728 = j.val then 0 else at' s x) ∧
        ∀ x, slot t x = if x / 24576 = j.val then 0 else slot s x) ∧
      (c.shelves.get j ≠ .waking → exec (.shelfWakeDone i j) s = .next s)) ∧
    (calm s → (c.pn.zeroBusy = true → ∃ t, exec (.pantryZeroing i) s = .next t ∧
        t = { upSite s i (fun _ => siteAt t i) with db := (raise s (16 + i.val)).db } ∧
        siteAt t i = { c with
          acc := [], accLines := [], recent := [], pantry := (siteAt t i).pantry, seals := (siteAt t i).seals
          pn := { c.pn with zeroBusy := false, zeroCount := min (c.pn.zeroCount + 1) 65535, evZeroDone := true } } ∧
        (∀ j : Fin 4, ∀ x, x / 3145728 = j.val → at' t x = if c.shelves.get j = .on then 0 else at' s x) ∧
        ∀ j : Fin 4, ∀ x, x / 24576 = j.val → slot t x = if c.shelves.get j = .on then 0 else slot s x) ∧
      (c.pn.zeroBusy = false → exec (.pantryZeroing i) s = .next s)) ∧
    (∀ (a : Agent) (k : Gl) (off size v : Nat), pfOrHouse a = true → siteOf s k = some i → siteWritable s i = true →
      (size = 4 ∨ size = 8) → off % size = 0 → off < 0x20000 →
      let p := c.pn.apBase * 0x20000 + off
      let d (t : State) : State := { t with
        discFunc := if a = .pf then 0 else 0xFFFF, discCount := min (s.discCount + 1) 65535 }
      (c.served = none → ∀ j : Fin 4, p / 3145728 = j.val → c.shelves.get j = .on →
        (∃ t, exec (.pantryApertureAccess a k off size (some v)) s = .next t ∧
          t = upSite s i (fun c => { c with pantry := (siteAt t i).pantry }) ∧
          ∀ x, at' t x = if p ≤ x ∧ x < p + size then BitVec.ofNat 8 (v / 256 ^ (x - p)) else at' s x) ∧
        exec (.pantryApertureAccess a k off size none) s = .next { s with
          bus := (List.range size).foldr (fun n acc => (at' s (p + n)).toNat + 256 * acc) 0 }) ∧
      (c.served = none → ∀ j : Fin 4, p / 3145728 = j.val → c.shelves.get j ≠ .on →
        let u := raise (upSite s i fun c => { c with pn := { c.pn with evShelfRef := true } }) (16 + i.val)
        exec (.pantryApertureAccess a k off size (some v)) s = .next (d u) ∧
        exec (.pantryApertureAccess a k off size none) s = .next { d u with bus := 0 }) ∧
      (c.served.isSome = true → exec (.pantryApertureAccess a k off size (some v)) s = .next (d s) ∧
        exec (.pantryApertureAccess a k off size none) s = .next { d s with bus := 0 }))

/-- For every channel: a scrub read counts the corrected, on-die or uncorrectable error it finds, with its time among those of the
last second, and poisons the unit in the last case; a retirement starts by register or by a limit; a second channel over its
limit makes a die fault; after a migration every byte below the reserve reads as before, and no unit is poisoned that was not
or was not found uncorrectable; a generator run starts with its registers and, when it writes, changes only bytes of its
channel. (R291, R293, R295, R296, R297, R298, R299, R300.) Model choices: log 15. -/
def Obligations.CellarControllers : Prop :=
  ∀ (s : State) (k : StackId) (c : Fin 32), (∀ d, s.cellar.second ≠ some (d, false)) →
    let ch : Nat := 32 * k.val + c.val
    let x := chanAt s ch
    let st := s.cellar.stackSts.get k
    let recent (ts : List Nat) : List Nat := ts.filter fun t => s.us < t + 1000000
    let aged : State := upChan s k c fun x => { x with ceTimes := recent x.ceTimes, ueTimes := recent x.ueTimes }
    let limit : Prop := st.ceLimit < (recent x.ceTimes).length ∨ st.ueLimit ≤ (recent x.ueTimes).length
    let limited : State := raise (upStack aged k fun y => { y with evLimit := true }) (8 + k.val)
    (∀ (u : Nat) (cf : Fin 256), cf.val = ch → u < 2 ^ 25 →
      let g := granuleOf ch (u / 4)
      let done (t : State) : State := if u + 1 = 2 ^ 25 then upChan t k c fun x => { x with scrubs := min (x.scrubs + 1) 65535 } else t
      s.cellar.poison.contains (4 * g + u % 4) = false →
      exec (.scrubRead cf u .clean) s = .next (done s) ∧
      exec (.scrubRead cf u .onDie) s = .next (done (upChan s k c fun x => { x with odc := min (x.odc + 1) 65535 })) ∧
      ((recent x.ceTimes).length < st.ceLimit → (recent x.ueTimes).length < st.ueLimit →
        exec (.scrubRead cf u .corrected) s = .next (done (upChan aged k c fun y => { y with
          ce := min (y.ce + 1) 65535, lastUe := false, lastGr := g, ceTimes := s.us :: y.ceTimes }))) ∧
      ((recent x.ceTimes).length ≤ st.ceLimit → (recent x.ueTimes).length + 1 < st.ueLimit →
        exec (.scrubRead cf u .uncorrectable) s = .next (done (raise (upStack (upChan
          { aged with cellar := { aged.cellar with poison := insNat s.cellar.poison (4 * g + u % 4) } } k c fun y => { y with
            ue := min (y.ue + 1) 65535, lastUe := true, lastGr := g, ueTimes := s.us :: y.ueTimes })
          k fun y => { y with evUe := true }) (8 + k.val))))) ∧
    (∀ cf : Fin 256, cf.val = ch →
      let begun (s : State) : State := raise (logFault (upStack { s with cellar := { s.cellar with retired := some (cf, false) } } k
        fun y => { y with state := 1, channel := c.val, progress := 0 }) 0x04 ch 0x3F 0 0) 0
      (∀ a, agentUp s a = true → pfOrHouse a = true → domainIsOn s (50 + k.val) = true → s.cellar.retired = none →
        exec (.channelRetireStart (some a) k c) s = .next (begun s)) ∧
      (limit → s.cellar.retired = none → exec (.channelRetireStart none k c) s = .next (if st.auto then begun limited else limited)) ∧
      (¬ limit → exec (.channelRetireStart none k c) s = .next aged) ∧
      (∀ d b, limit → st.auto = true → s.cellar.retired = some (d, b) → d ≠ cf → s.cellar.second = none → s.pw.role ≠ .primary →
        ∃ t, exec (.channelRetireStart none k c) s = .next t ∧ t.pw.role = .deposed ∧ t.cellar.second.map Prod.snd = some true)) ∧
    (∀ (cf : Fin 256) (found : List (Nat × Ecc)), cf.val = ch → s.cellar.retired = some (cf, false) → spWf 0 s.cellar.mem = true →
      ∃ t, exec (.channelMigrationDone found) s = .next t ∧ t.cellar.retired = some (cf, true) ∧
        (t.cellar.stackSts.get k).state = 2 ∧ (t.cellar.stackSts.get k).progress = 8355840 ∧
        (t.cellar.stackSts.get k).evRetired = true ∧ t.sites = s.sites ∧ t.hhs = s.hhs ∧
        ∀ a, a < 0x7F80000000 → cGet t a = cGet s a ∧ (poisoned s a = true → poisoned t a = true) ∧
          (poisoned t a = true → poisoned s a = true ∨ ∃ z ∈ found, z.2 = .uncorrectable ∧
            a / 64 = 4 * granuleOf ch (z.1 / 4) + z.1 % 4)) ∧
    (∀ (a : Agent) (v : Nat), agentUp s a = true → (∀ h, a ≠ .vf h) → domainIsOn s (50 + k.val) = true → x.tgBusy = false →
      (v / 2 ^ 58 % 4 = 0 ∨ v / 2 ^ 58 % 4 ≤ 2 ∧ tgWriteOk s ch = true) →
      exec (.trafficGeneratorGo a k c v) s = .next (upChan s k c fun x => { x with
        tgPattern := v / 2 ^ 60 % 4, tgMix := v / 2 ^ 58 % 4, tgLength := v % 2 ^ 32, tgBusy := true, tgErrors := 0
        tgRunMix := v / 2 ^ 58 % 4, tgRunLength := v % 2 ^ 32 })) ∧
    (∀ errors, x.tgBusy = true →
      let ended (x : ChanSt) : ChanSt := { x with tgBusy := false, tgErrors := if x.tgRunMix = 1 then 0 else min errors 65535 }
      (x.tgRunMix = 0 → exec (.trafficGeneratorDone k c errors) s = .next (upChan s k c ended)) ∧
      (x.tgRunMix ≠ 0 → spWf 0 s.cellar.mem = true → ∃ t, exec (.trafficGeneratorDone k c errors) s = .next t ∧
        t = { upChan s k c ended with fresh := s.fresh + 1, cellar := t.cellar } ∧
        chanAt t ch = ended x ∧ (∀ d, d ≠ ch → d < 256 → chanAt t d = chanAt s d) ∧
        ∀ p, chanOf (p / 256) ≠ ch → spGet 0 t.cellar.mem p = spGet 0 s.cellar.mem p))

/-- For every household and agent that reaches its registers: an invalidation starts and, once no request is outstanding, ends
without the entries it names; OPEN writes the OPEN header and the registers, or reports nesting; COMMIT waits for the
household's commands and then flips exactly the selector bits of the write set, writes the header and raises source 2; ABORT
empties the household's queues and stops its sequencers, with shadow pages open; every other byte and household stands. A
paired primary mirrors each register write. (R310, R314, R317, R318, R322, R336, R347.) Model choices: logs 14, 21. -/
def Obligations.TransactionGroups : Prop :=
  ∀ (s : State) (a : Agent) (h : Hh), hhOpen s a h → spWf 0 s.cellar.mem = true → s.cellar.retired = none →
    let x := (hhAt s h).tx
    let header (t : State) (n count seq : Nat) : Prop := ∀ j < 4096, cGet t (x.journal + j) =
      (leBytes 4 n ++ leBytes 4 count ++ leBytes 4 seq).getD j 0
    let inHeader (b : Nat) : Prop := x.journal ≤ b ∧ b < x.journal + 4096
    let cellarOf (u t : State) : State := { u with cellar := { s.cellar with mem := t.cellar.mem, poison := t.cellar.poison } }
    let seq := (x.seq + 1) % 2 ^ 32
    let ctrl (u : State) (v : Nat) : State := mirrored u (0x6018 + 0x80 * h.val) 4 v
    (∀ v, exec (.tlbinvGo a h v) s = .next (mirrored (upTr s h fun t => { t with
        tlbSpan := v / 2 ^ 48 % 32, tlbVa := v / 2 ^ 16 % 2 ^ 32 * 65536, tlbBusy := true }) (0x6008 + 0x80 * h.val) 8 (v ||| 2 ^ 63))) ∧
    (let tr := (hhAt s h).tr
     let named (e : TlbEnt) : Bool := tr.tlbSpan == 31 || (decide (tr.tlbVa / 65536 ≤ e.page) && decide (e.page < tr.tlbVa / 65536 + 2 ^ tr.tlbSpan))
     (tr.tlbBusy = false ∨ requestsOut s h = true ∧ (∃ e ∈ tr.tlb, named e = true) → exec (.tlbinvDone h) s = .next s) ∧
     ((hhAt s h).cmd.cqWait = [] → tr.tlbBusy = true → (requestsOut s h = false ∨ ∀ e ∈ tr.tlb, named e = false) →
      exec (.tlbinvDone h) s = .next (upTr s h fun t => { t with tlbBusy := false, tlb := t.tlb.filter fun e => !named e }))) ∧
    (∀ replay, let v := 2 ^ 31 + b2n replay * 2 ^ 28
      (s.loader.waits ≠ some h →
        (x.opened = true → exec (.txOpen a h replay) s = .next (ctrl (upTx s h fun t => { t with result := 0x63 }) v)) ∧
        (x.opened = false → x.journal ≠ 0 → ∃ u, exec (.txOpen a h replay) s = .next (ctrl u v) ∧
          u = cellarOf (upTx s h fun t => { t with opened := true, replay := replay, result := 0, writeSet := [] }) u ∧
          header u 1 0 seq ∧ ∀ b, ¬ inHeader b → cGet u b = cGet s b)) ∧
      (s.loader.waits = some h →
        exec (.txOpen a h replay) s = .next (ctrl (upTx s h fun t => { t with waitOpen := t.waitOpen ++ [replay] }) v))) ∧
    exec (.txCommit a h) s = .next (ctrl (upTx s h fun t => if x.opened = false then { t with result := stTxAbort }
      else if x.committing then { t with result := 0x63 } else { t with committing := true }) (2 ^ 30)) ∧
    (x.opened = true → x.committing = true → commitWaits s h = true → exec (.commitApply h) s = .next s) ∧
    (x.opened = true → x.committing = true → commitWaits s h = false → prevSent s h = true → s.pw.role ≠ .primary → x.journal ≠ 0 →
      (x.writeSet.map Prod.fst).Nodup → (∀ e ∈ x.writeSet, ¬ inHeader (s.selBase + e.1 / 8)) →
      ∃ t, exec (.commitApply h) s = .next t ∧
        t = { cellarOf (upSb (releaseLate (upTx s h fun t => { t with
            opened := false, committing := false, writeSet := [], seq := seq, result := 0 }) h) h fun y => { y with late := false }) t with
          db := (raise s (256 + 48 * h.val + 2)).db } ∧
        header t 3 x.writeSet.length seq ∧ (∀ e ∈ x.writeSet, selector t e.1 = e.2) ∧
        (∀ p, (∀ e ∈ x.writeSet, e.1 ≠ p) → ¬ inHeader (s.selBase + p / 8) → selector t p = selector s p) ∧
        ∀ b, ¬ inHeader b → (∀ e ∈ x.writeSet, b ≠ s.selBase + e.1 / 8) → cGet t b = cGet s b) ∧
    (x.opened = false → exec (.txAbort a h) s = .next (ctrl (upTx s h fun t => { t with result := stTxAbort }) (2 ^ 29))) ∧
    (x.opened = true → calm s → x.journal ≠ 0 → (hhAt s h).cmd.cqEnable = false → (hhAt s h).sb.pending = false →
      (∀ o, s.sb.cur = some o → o.owner ≠ .hh h) →
      ∃ u, exec (.txAbort a h) s = .next (ctrl u (2 ^ 29)) ∧
        (hhAt u h).tx = { x with
          opened := false, committing := false, aborted := true, writeSet := [], cause := stTxAbort
          result := if x.committing then stTxAbort else 0 } ∧
        (∀ i j, ((setAt u i h).queues.get j).ents = [] ∧ ((setAt u i h).queues.get j).halted = false) ∧
        (∀ i, (setAt u i h).xsq.run = false ∧ (setAt u i h).psq.busy = false ∧ ∀ w, ((setAt u i h).wins.get w).state = .closed) ∧
        (∀ i g, g ≠ h → setAt u i g = setAt s i g) ∧ (∀ g, g ≠ h → hhAt u g = hhAt s g) ∧ u.db = (raise s (256 + 48 * h.val)).db ∧
        ((∀ i, ∀ y ∈ setEntries (setAt s i h), descForm y.cmd.opcode = true → y.phase = .queued ∨ y.phase = .done) →
          ∀ b, ¬ inHeader b → (∀ e ∈ x.writeSet, b / 65536 ≠ 2 * e.1 ∧ b / 65536 ≠ 2 * e.1 + 1) → cGet u b = cGet s b))

/-- For a pool with no switch in progress: a quantum ends when it has run out. The member served keeps the pool while its
weight gives it quanta and it has work, or when no other member is ready; otherwise the next ready member in turn comes in,
the clusters stopping while a command must complete and zeroing otherwise. A member whose 10 us without work are over gives
the pool up to a ready member, and a pool that serves none takes the first that is ready. (R329, R330, R331.) Model
choices: logs 19, 20. -/
def Obligations.PoolQuanta : Prop :=
  ∀ (s : State) (i : Fin 8) (d : PoolDef), calm s → poolDef s i = some d →
    let p := s.pools.get i
    let turn (b : Nat) (g : Hh) : Prop := memberReady s i g = true ∧ ∀ j, (j.val + 15 - b) % 16 < (g.val + 15 - b) % 16 →
      memberReady s i j = false
    let sites := ((poolSites s i).map fun x => x.2.2).filter fun z => !(siteAt s z).dead
    let switched (t : State) (g : Hh) : Prop := (t.pools.get i).next = some g ∧ (t.pools.get i).running = p.running ∧
      (∀ j, j ≠ i → t.pools.get j = s.pools.get j) ∧
      ((∃ z ∈ sites, ∃ h, p.running = some h ∧ mustComplete s z h = true) →
        (t.pools.get i).stage = .stopping ∧ t.sites = s.sites ∧ t.cellar = s.cellar) ∧
      ((∀ z ∈ sites, ∀ h, p.running = some h → mustComplete s z h = false) → sites ≠ [] → (t.pools.get i).stage = .zeroing ∧
        ∀ z ∈ sites, (siteAt t z).served = none ∧ (siteAt t z).pn.zeroBusy = true)
    (∀ h, p.running = some h →
      let again (n : Nat) : State := upPool s i fun p => { p with left := d.quantum * 10, given := n, last := some h, idle := 0 }
      (p.left ≠ 0 → exec (.quantumEnd i) s = .next s) ∧
      (p.left = 0 → (hhAt s h).nextLease = none → p.given < d.weights.get h → memberReady s i h = true →
        exec (.quantumEnd i) s = .next (again (p.given + 1))) ∧
      (p.left = 0 → (hhAt s h).nextLease = none → (p.given ≥ d.weights.get h ∨ memberReady s i h = false) →
        (∀ g, g ≠ h → memberReady s i g = false) → exec (.quantumEnd i) s = .next (again 1)) ∧
      (∀ g, p.left = 0 → g ≠ h → turn h.val g → (p.given ≥ d.weights.get h ∨ memberReady s i h = false) →
        ∃ t, exec (.quantumEnd i) s = .next t ∧ switched t g) ∧
      ((pendingWork s i h = true ∨ p.idle = 0) → exec (.quantumIdleEnd i) s = .next s) ∧
      ((∀ g, g ≠ h → memberReady s i g = false) → exec (.quantumIdleEnd i) s = .next s) ∧
      (∀ g, g ≠ h → turn h.val g → pendingWork s i h = false → p.idle ≠ 0 →
        ∃ t, exec (.quantumIdleEnd i) s = .next t ∧ switched t g)) ∧
    (p.running = none → exec (.quantumEnd i) s = .next s ∧
      ((∀ g, memberReady s i g = false) → exec (.quantumIdleEnd i) s = .next s) ∧
      (∀ g, turn (p.last.elim 15 Fin.val) g → ∃ t, exec (.quantumIdleEnd i) s = .next t ∧ switched t g))

/-- For the house or the physical function with the loader free and the package out of reset: a first deed or a new lease
whose checks pass comes in force (a lease once its clusters are zeroed and none is lost), a failing check reports status,
reason, section and offset and leaves deed, leases and floor; an image that passes checks 1 to 7 waits for a Strongbox that
works; a retire empties the household's queues, zeroes its clusters and removes the lease; a busy loader sets OVERRUN.
(R82, R83, R88, R90, R92, R93.) Model choices: logs 20, 31. -/
def Obligations.ImageLoads : Prop :=
  ∀ (s : State) (a : Agent) (h : Hh) (bs : List Byte), pfOrHouse a = true → alive s = true → (∀ i, (s.pools.get i).stage = .none) →
    let ok := s.loader.addr % 64 = 0 ∧ 512 ≤ s.loader.len ∧ s.loader.len ≤ 2 ^ 20 ∧ s.loader.len % 64 = 0 ∧ bs.length = s.loader.len
    let ended (t : State) (e : ImgErr) : Prop := t.loader.busy = false ∧ t.loader.done = true ∧ t.loader.job = none ∧
      t.loader.status = e.status ∧ t.loader.reason = e.reason ∧ t.loader.sect = e.sect ∧ t.loader.offset = e.offset ∧
      dbPending t 1 = true
    let good : ImgErr := ⟨stOk, 0, 0xFF, 0⟩
    (s.loader.busy = true → exec (.loadDeed a (some bs)) s = .next { s with loader := { s.loader with overrun := true } } ∧
      exec (.loadLease a h (some bs)) s = .next { s with loader := { s.loader with overrun := true } } ∧
      exec (.retireLease a h) s = .next { s with loader := { s.loader with overrun := true } }) ∧
    (s.loader.busy = false → s.loader.waits = none → s.loader.job = none →
      (s.deed = none → ok → s.sb.cur = none → ∃ t, exec (.loadDeed a (some bs)) s = .next t ∧ t.hhs = s.hhs ∧ t.cellar = s.cellar ∧
        t.attic = s.attic ∧ match checkDeed s bs s.loader.len with
        | .error e => t.deed = none ∧ t.deedFloor = s.deedFloor ∧ t.sites = s.sites ∧ ended t e
        | .ok d => t.deed = some d ∧ t.pools = .replicate 8 PoolSt.init ∧ ended t good ∧
            t.deedFloor = if d.raiseFloor then max s.deedFloor d.sequence else s.deedFloor) ∧
      (s.deed = none → ok → s.sb.cur.isSome = true → deedEarly s bs s.loader.len = none →
        exec (.loadDeed a (some bs)) s = .next { s with loader := { s.loader with
          busy := true, op := 0, job := some (.verify none bs) } }) ∧
      (s.deed.isSome = true → ∃ t, exec (.loadDeed a (some bs)) s = .next t ∧ ended t ⟨stImgConf, 0x28, 0xFF, 0⟩ ∧ t.deed = s.deed ∧
        t.hhs = s.hhs ∧ t.deedFloor = s.deedFloor) ∧
      (∀ d, s.deed = some d → (d.grants.get h).enabled = true → s.pw.role ≠ .standby → s.pw.role ≠ .deposed → s.boot.stage = 15 →
        (hhAt s h).lease = none → ok →
        (s.sb.cur = none → ∃ t, exec (.loadLease a h (some bs)) s = .next t ∧ t.deed = s.deed ∧ t.cellar = s.cellar ∧
          match checkLease s d h bs s.loader.len none with
          | .error e => ended t e ∧ t.hhs = s.hhs ∧ t.sites = s.sites
          | .ok l => if sitesOfMask s l.excl = [] then (hhAt t h).lease = some l ∧ (hhAt t h).vfOn = true
            else t.loader.job = some (.create h l) ∧ t.loader.busy = true ∧ t.hhs = s.hhs ∧
              ∀ z ∈ sitesOfMask s l.excl, (siteAt t z.2).pn.zeroBusy = true) ∧
        (s.sb.cur.isSome = true → leaseEarly s d h bs s.loader.len none = none →
          exec (.loadLease a h (some bs)) s = .next { s with loader := { s.loader with
            busy := true, op := 1, hh := h.val, job := some (.verify (some h) bs) } })) ∧
      (∀ d, s.deed = some d → (s.pw.role = .standby ∨ s.pw.role = .deposed ∨ s.boot.stage ≠ 15) →
        ∃ t, exec (.loadLease a h (some bs)) s = .next t ∧ ended t ⟨stImgConf, 0x28, 0xFF, 0⟩ ∧ t.hhs = s.hhs ∧ t.sites = s.sites) ∧
      (∀ d l, s.deed = some d → (d.grants.get h).enabled = true → (hhAt s h).lease = some l →
        ∃ t, exec (.retireLease a h) s = .next t ∧ t.deed = s.deed ∧ (∀ g, g ≠ h → hhAt t g = hhAt s g) ∧
          (hhAt t h).tx.opened = false ∧ (∀ i j, ((setAt t i h).queues.get j).ents = []) ∧
          (∀ i, (setAt t i h).xsq.run = false ∧ (setAt t i h).psq.busy = false) ∧
          (sitesOfMask s l.excl ≠ [] → t.loader.job = some (.retire h) ∧ t.loader.busy = true ∧
            ∀ z ∈ sitesOfMask s l.excl, (siteAt t z.2).pn.zeroBusy = true ∧ (siteAt t z.2).served ≠ some h) ∧
          (sitesOfMask s l.excl = [] → (hhAt t h).lease = none ∧ (hhAt t h).vfOn = false ∧ ended t good))) ∧
    (∀ (z : Site) (l : Lease), (siteAt s z).pn.zeroBusy = true → (∀ y, y ≠ z → s.loader.watch.testBit y.val = true →
        (siteAt s y).pn.zeroBusy = false) →
      (s.loader.job = some (.create h l) → lostCluster s s.loader.needs = false → ∃ t, exec (.pantryZeroing z) s = .next t ∧
        (hhAt t h).lease = some l ∧ (hhAt t h).vfOn = true ∧ ∀ w, (hhAt t h).cmd.dtValid.get w = 0) ∧
      (s.loader.job = some (.create h l) → lostCluster s s.loader.needs = true → s.loader.waits = none →
        ∃ t, exec (.pantryZeroing z) s = .next t ∧ ended t ⟨stImgConf, 0x2B, 0xFF, 0⟩ ∧ t.hhs = s.hhs) ∧
      (s.loader.job = some (.retire h) → s.loader.waits = none → ∃ t, exec (.pantryZeroing z) s = .next t ∧
        (hhAt t h).lease = none ∧ (hhAt t h).vfOn = false ∧ ended t good))

/-- For every state: a retire or a critical error marks the cluster dead and drops its household's commands; the
replacement maps its number to the reserve of its half or to none, logs it and raises the fault doorbell, and an unused
reserve that failed is retired; a region error resets the region; porch, Strongbox and terrace errors reset those blocks; a
die fault and a yield depose the package, stop every household's queues, disable the virtual functions and assert the fault
output where a pin carries it. (R339, R340, R341, R344, R345, R353.) Model choices: logs 22, 23. -/
def Obligations.LossOfClusterRegionDie : Prop :=
  ∀ (s : State),
    let last (t : State) : LogEnt := t.fo.log.get ⟨(t.fo.head + 63) % 64, by omega⟩
    let offMem (u t : State) : State := { u with cellar := { s.cellar with mem := t.cellar.mem, poison := t.cellar.poison } }
    let noForms (i : Site) (k : Gl) : Prop := ∀ h ∈ runsOn s k, ∀ y ∈ setEntries (setAt s i h), descForm y.cmd.opcode = true →
      y.phase = .queued ∨ y.phase = .done
    (∀ (a : Agent) (k : Fin 32) (g : Gl) (i : Site), pfOrHouse a = true → agentUp s a = true → g.val = k.val → siteOf s g = some i → globalOf s i = some g →
      (siteAt s i).retired = false → (siteAt s i).dead = false →
      ∃ t, exec (.foRetire a k) s = .next t ∧ t = offMem { upSite s i (fun _ => siteAt t i) with fo := { s.fo with cluster := k.val } } t ∧
        (noForms i g → t.cellar = s.cellar) ∧
        (siteAt t i).dead = true ∧ (siteAt t i).failStatus = 0 ∧ (siteAt t i).pantry = (siteAt s i).pantry ∧
        ∀ h, holdsExcl s h g = true → (∀ j, ((setAt t i h).queues.get j).ents = []) ∧ (setAt t i h).xsq.run = false) ∧
    (∀ (i : Site) (same : Bool) (k : Gl), (siteAt s i).dead = true → (siteAt s i).retired = false → globalOf s i = some k → k.val < 32 → calm s →
      let r : Site := ⟨32 + k.val / 16 % 2, by omega⟩
      let got : Bool := reserveAvail s ⟨k.val / 16 % 2, by omega⟩ && !(same && yieldsReserve s k)
      ∃ t, exec (.clusterReplacement i same) s = .next t ∧ (siteAt t i).retired = true ∧ (siteAt t i).served = none ∧ dbPending t 0 = true ∧
        (got = true → t.map.get k = r.val ∧ t.lastSite.get k = r ∧
          (siteAt t r).served = (siteAt s i).served ∧ t.fo.replaced = min (s.fo.replaced + 1) 65535 ∧
          (last t).event = 2 ∧ (last t).unit = k.val ∧ (last t).phys = i.val) ∧
        (got = false → t.map.get k = 0x3F ∧ t.lastSite.get k = i ∧ t.fo.degraded = true ∧
          (s.fo.degrade = false → (last t).event = 3 ∧ (last t).unit = k.val ∧ (last t).phys = i.val))) ∧
    (∀ (i : Site) (same : Bool), (siteAt s i).dead = false → exec (.clusterReplacement i same) s = .next s) ∧
    (∀ (i : Site) (same : Bool) (k : Gl), (siteAt s i).dead = true → (siteAt s i).retired = false → globalOf s i = some k → 32 ≤ k.val →
      ∃ t, exec (.clusterReplacement i same) s = .next t ∧ (siteAt t i).retired = true ∧ (siteAt t i).testOk = false ∧
        (last t).event = 3 ∧ (last t).unit = k.val ∧ (last t).phys = i.val ∧ t.map = s.map ∧ t.hhs = s.hhs) ∧
    (s.rst.active = none →
      (∀ i : Site, fusedSite s i = false → (siteAt s i).retired = false → (siteAt s i).dead = false →
        ∃ t, exec (.clusterCriticalError i) s = .next t ∧ (siteAt t i).dead = true ∧
          t = offMem { upSite s i (fun _ => siteAt t i) with rst := { s.rst with cluster := true } } t ∧
          ∀ g, globalOf s i = some g → noForms i g → t.cellar = s.cellar) ∧
      (∀ r : Rg, calm s → ∃ t, exec (.regionCriticalError r) s = .next t ∧ t.rst.region = true ∧
        t.fo.regionFaults = min (s.fo.regionFaults + 1) 255 ∧
        (s.fo.regionFaults = 0 → regAt t r = { RegionSt.init with inReset := (regAt s r).inReset } ∧ t.pw.role = s.pw.role ∧
          (∀ c i h w, siteOf s (clusterOf r c) = some i → ((setAt t i h).wins.get w).state = .closed) ∧
          (∀ h, inRegion s h r = true → (hhAt t h).tx.opened = false ∧ dbPending t (256 + 48 * h.val) = true) ∧
          (last t).event = 6 ∧ (last t).unit = 0x80 + r.val) ∧
        (1 ≤ s.fo.regionFaults → s.pw.role = .primary → t.pw.role = .deposed)) ∧
      (exec (.criticalStateError .porch) s = .next { s with
        porch := PorchSt.init, rst := { s.rst with porch := true }
        hhs := s.hhs.map fun x => { x with vfOn := false, vfWin := 0 } }) ∧
      (s.sb.cur = none → calm s → exec (.criticalStateError .strongbox) s = .next { s with sb := { s.sb with
        cmdAddr := 0, overrun := false, elapsed := 0, lost := 0, curves := .replicate 5 none } }) ∧
      (∀ h : Fin 2, ∃ t, exec (.criticalStateError (.terraceHalf h)) s = .next t ∧ (∀ p : PortId, p.val / 8 = h.val →
        portAt t p = { Port.init with state := if portEnabled s p then .training else .off, neighbour := 0xFFFF }) ∧
        ∀ p : PortId, p.val / 8 ≠ h.val → portEnabled s p = true → (portAt s p).state ≠ .off → portAt t p = portAt s p)) ∧
    (s.pw.role ≠ .deposed →
      let gone (t : State) : Prop := t.pw.role = .deposed ∧ t.pw.evDeposed = true ∧ (∀ h, (hhAt t h).vfOn = false) ∧
        dbPending t 0 = true ∧ dbPending t 4 = true ∧ (last t).event = 0x0A ∧
        (∀ h, (hhAt s h).lease.isSome = true → ∀ i j, ((setAt t i h).queues.get j).ents = []) ∧
        (s.pw.role = .primary → s.pw.linkUp = true → wallUp s = true → .yield (shippedSeqs s) ∈ t.sent) ∧
        (pinHas s 9 = true → t.pw.faultOut = true)
      (∀ d, ∃ t, exec (.dieFault d) s = .next t ∧ gone t) ∧
      (∀ a, pfOrHouse a = true → agentUp s a = true → (s.pw.role = .primary → ∃ t, exec (.foYield a) s = .next t ∧ gone t) ∧
        (s.pw.role ≠ .primary → exec (.foYield a) s = .next s)))

/-- With a deed in force and no takeover under way: a heartbeat leaves with its fields by every ACTIVE party-wall port; one
received clears the misses, acknowledges what was sent on its port and pairs matching roles or flags a failure; the third
miss marks the link down, a partition, or a takeover by the standby; YIELD and PW_TAKEOVER let a standby become the survivor,
after fencing where ports are up; a resync by a survivor that has heard a matching standby pairs again and sends its state,
and SYNCED follows its delivery. (R351, R352, R354, R357.) Model choices: log 22. -/
def Obligations.HeartbeatsAndTakeover : Prop :=
  ∀ (s : State) (d : Deed), s.deed = some d → s.pw.take = .none →
    let still : Prop := s.pw.bulkBusy = false ∧ s.pw.syncing = false ∧ ∀ h, s.pw.ship.get h = none
    (wallTalks s = true → still → exec .heartbeatPeriod s = .next { s with
      pw := { s.pw with
        quiet := s.pw.quiet + 1, pinAlive := s.pw.pinAlive && decide (s.pw.quiet + 1 < 3)
        aliveOut := if pinHas s 7 then !s.pw.aliveOut else s.pw.aliveOut }
      sent := List.replicate (b2n (portActive s 16) + b2n (portActive s 17)) (Emit.heartbeat ⟨roleCode s.pw.role, s.pw.paired,
        s.hhs.map fun x => x.mirrored, digest16 d.pairDigest, s.selBase, d.twinId, d.terraceId⟩) ++
          (if pinHas s 7 then [Emit.alive] else []) ++ s.sent }) ∧
    exec .twinAliveInput s = .next (if pinHas s 8 then { s with pw := { s.pw with quiet := 0, pinAlive := true } } else s) ∧
    (s.pw.role ≠ .solo → s.pw.role ≠ .deposed →
      (s.pw.missed < 2 → exec .heartbeatMissed s = .next { s with pw := { s.pw with missed := s.pw.missed + 1 } }) ∧
      (s.pw.missed = 2 → (s.pw.role ≠ .standby ∨ s.pw.paired = false) → wallUp s = false →
        exec .heartbeatMissed s = .next (raise { s with pw := { s.pw with missed := 3, linkUp := false, evLinkDown := true } } 4)) ∧
      (2 ≤ s.pw.missed → s.pw.role = .standby → s.pw.paired = true → pinHas s 8 = true → s.pw.pinAlive = true →
        ∃ t, exec .heartbeatMissed s = .next t ∧ t.pw.role = .standby ∧ t.pw.evPartition = true ∧ t.pw.take = .none) ∧
      (2 ≤ s.pw.missed → s.pw.role = .standby → s.pw.paired = true → (pinHas s 8 = false ∨ s.pw.pinAlive = false) →
        ∃ t, exec .heartbeatMissed s = .next t ∧ (t.pw.role = .survivor ∨ t.pw.take ≠ .none))) ∧
    (∀ (p : Fin 2) (m : Heartbeat), s.pw.role ≠ .solo → portActive s (16 + p.val) = true →
      let heard : State := { linkAcked s ⟨16 + p.val, by omega⟩ with pw := { s.pw with missed := 0, linkUp := true, twinId := m.id } }
      (still →
        ((s.pw.paired = true ∨ rolesPair s.pw.role m.role = false) → (s.pw.role ≠ .survivor ∨ m.role ≠ 2) →
          exec (.heartbeat p m) s = .next heard) ∧
        (s.pw.paired = false → rolesPair s.pw.role m.role = true → pairBad s d m = true → s.pw.evPairFail = false →
          exec (.heartbeat p m) s = .next (raise { heard with pw := { heard.pw with evPairFail := true } } 4)) ∧
        (s.pw.paired = false → rolesPair s.pw.role m.role = true → pairBad s d m = false →
          let u := logFault { heard with pw := { heard.pw with paired := true } } 0x0D 0xFF 0x3F 0 0
          exec (.heartbeat p m) s = .next (if s.pw.role = .primary then sendWall u 0 (.regs (.deed d.image)) else u)) ∧
        (s.pw.role = .survivor → m.role = 2 → pairBad s d m = false →
          exec (.heartbeat p m) s = .next { heard with pw := { heard.pw with candidate := true } }) ∧
        (s.pw.role = .survivor → m.role = 2 → pairBad s d m = true → s.pw.evPairFail = false →
          exec (.heartbeat p m) s = .next (raise { heard with pw := { heard.pw with evPairFail := true } } 4))) ∧
      (s.pw.syncing = true → (∀ h, s.pw.ship.get h = none) → (∀ q : PortId, 16 ≤ q.val → q.val ≠ 16 + p.val → (portAt s q).replay = []) →
        ∃ t, exec (.heartbeat p m) s = .next t ∧ t.pw.synced = true)) ∧
    (∀ (a : Agent) (q : Vector Nat 16), pfOrHouse a = true → agentUp s a = true →
      (s.pw.role ≠ .standby → exec (.pwTakeover a) s = .next s ∧ exec (.yield q) s = .next s) ∧
      (s.pw.role = .standby → ∃ t, exec (.pwTakeover a) s = .next t ∧ exec (.yield q) s = .next t ∧ t.pw.frames = [] ∧
        ((∀ n < 16, portActive s n = false) → t.pw.role = .survivor ∧ t.pw.take = .none ∧ t.pw.paired = false ∧
          t.pw.evTakeover = true ∧ t.terr.claimed = some (ownTwin s) ∧ dbPending t 0 = true ∧ dbPending t 4 = true) ∧
        (∀ n, n < 16 → portActive s n = true →
          t.pw.take = .fencing (ownTwin s) ((List.range 16).filter fun m => portActive s m) ∧
          .packet n (linkPacket s 0x11 (ownTwin s % 65536 + 65536 * (ownId s % 65536))) ∈ t.sent))) ∧
    ((s.pw.role ≠ .survivor ∨ wallUp s = false ∨ s.pw.linkUp = false ∨ s.pw.candidate = false) → exec .standbyResync s = .next s) ∧
    (s.pw.role = .survivor → wallUp s = true → s.pw.linkUp = true → s.pw.candidate = true →
      ∃ t, exec .standbyResync s = .next t ∧ t.pw.role = .primary ∧ t.pw.paired = true ∧ t.pw.syncing = true ∧ t.cellar = s.cellar ∧
        .regs (.deed d.image) ∈ t.sent ∧ (∀ h l, (hhAt s h).lease = some l → .regs (.lease h l.image) ∈ t.sent) ∧
        (∀ n < 8, .bulk (s.selBase + 65536 * n) (cRead s (s.selBase + 65536 * n) 65536) ∈ t.sent))

/-- For every household: a package that does not mirror ignores the messages; a mirroring standby writes exactly the
shadow copy, the bulk frame or the register; a commit mark that agrees with its frames writes the standby's own journal,
flips their selectors and is acknowledged, and otherwise sets PAIR_FAIL; a primary records the acknowledged sequence and
discards the set; PW_BULK sends the frames it names and is busy until they are delivered. (R349, R350, R360.) Model choices:
log 22. -/
def Obligations.MirroredSets : Prop :=
  ∀ (s : State) (h : Hh), spWf 0 s.cellar.mem = true → s.cellar.retired = none →
    let offMem (u t : State) : State := { u with cellar := { s.cellar with mem := t.cellar.mem, poison := t.cellar.poison } }
    let setOf (seq : Nat) := s.pw.frames.filter fun f => f.hh == h.val && f.seq == seq
    (mirrors s = false → ∀ seq pair new data cpa m count dg, exec (.frame h seq pair new data) s = .next s ∧
      exec (.bulk cpa data) s = .next s ∧ exec (.regs m) s = .next s ∧ exec (.commitMark h seq count dg) s = .next s) ∧
    (mirrors s = true →
      (∀ seq pair new data, data.length = 65536 →
        let a := pair * 131072 + if selector s pair then 0 else 65536
        ∃ t, exec (.frame h seq pair new data) s = .next t ∧ t = offMem { s with pw := { s.pw with frames :=
            if (s.pw.frames.any fun f => f.hh == h.val && f.seq == seq && f.pair == pair) = true then s.pw.frames
            else s.pw.frames ++ [⟨h.val, seq, pair, new⟩] } } t ∧
          (∀ j < 65536, cGet t (a + j) = data.getD j 0) ∧ ∀ b, b < a ∨ a + 65536 ≤ b → cGet t b = cGet s b) ∧
      (∀ cpa data, cpa + 65536 ≤ 2 ^ 39 → data.length = 65536 → ∃ t, exec (.bulk cpa data) s = .next t ∧ t = offMem s t ∧
        (∀ j < 65536, cGet t (cpa + j) = data.getD j 0) ∧ ∀ b, b < cpa ∨ cpa + 65536 ≤ b → cGet t b = cGet s b) ∧
      (∀ img, exec (.regs (.deed img)) s = .next { s with pw := { s.pw with mirDeed := some img } } ∧
        exec (.regs (.lease h img)) s = .next { s with pw := { s.pw with mirLease := s.pw.mirLease.set h.val (some img) h.isLt } }) ∧
      (∀ v, exec (.regs (.reg (0x4018 + 0x40 * h.val) 8 v)) s =
        .next (upCmd s h fun c => { c with dtBase := v / 2 ^ 12 % 2 ^ 36 * 4096 })) ∧
      (∀ seq, let fs := (setOf seq).map fun f => (f.pair, f.new)
        let j := (hhAt s h).tx.journal
        let inJournal (b : Nat) : Prop := j ≤ b ∧ b < j + 4096 + 8 * fs.length
        j ≠ 0 → fs.length < 2 ^ 32 → (fs.map Prod.fst).Nodup → (∀ e ∈ fs, ¬ inJournal (s.selBase + e.1 / 8)) →
        ∃ t, exec (.commitMark h seq fs.length (setDigest fs)) s = .next t ∧
          t = offMem (sendWall { upHh s h (fun y => { y with mirrored := seq }) with
            pw := { s.pw with frames := s.pw.frames.filter fun f => !(f.hh == h.val && f.seq == seq) } } 0 (.ack h.val seq)) t ∧
          (∀ e ∈ fs, selector t e.1 = e.2) ∧
          leNat (cRead t j 4) = 3 ∧ leNat (cRead t (j + 4) 4) = fs.length ∧
          (∀ n (e : Nat × Bool), fs[n]? = some e → e.1 < 2 ^ 46 → leNat (cRead t (j + 4096 + 8 * n) 8) = e.1 * 131072 + b2n e.2) ∧
          ∀ b, ¬ inJournal b → (∀ e ∈ fs, b ≠ s.selBase + e.1 / 8) → cGet t b = cGet s b) ∧
      (∀ seq count dg, (setOf seq).length ≠ count → exec (.commitMark h seq count dg) s = .next (raise { s with pw := { s.pw with
        frames := s.pw.frames.filter fun f => !(f.hh == h.val && f.seq == seq), evPairFail := true } } 4))) ∧
    (∀ seq, (s.pw.role ≠ .primary → exec (.pwAck h seq) s = .next s) ∧
      (s.pw.role = .primary → exec (.pwAck h seq) s = .next { upHh s h (fun y => { y with mirrored := seq }) with
        pw := { s.pw with ship := if (s.pw.ship.get h).any (fun x => x.seq == seq) then s.pw.ship.set h.val none h.isLt else s.pw.ship } })) ∧
    (∀ (a : Agent) (v : Nat), pfOrHouse a = true → agentUp s a = true → s.pw.role = .primary → s.pw.bulkBusy = false →
      (∀ h, s.pw.ship.get h = none) → s.pw.syncing = false →
      let n := v / 2 ^ 42 % 2 ^ 20
      let b := v / 2 ^ 16 % 2 ^ 23 * 65536
      (wallUp s = false → exec (.pwBulkGo a v) s = .next { s with pw := { s.pw with
        bulkFrames := n, bulkBase := b, bulkBusy := true, bulkSent := false } }) ∧
      (wallUp s = true → quiescing s 0x54 = false → ∃ t, exec (.pwBulkGo a v) s = .next t ∧ t.pw = { s.pw with
          bulkFrames := n, bulkBase := b, bulkBusy := true, bulkSent := true } ∧ t.cellar = s.cellar ∧ t.hhs = s.hhs ∧
        t.sent = ((List.range (n + 1)).map fun m => Emit.bulk (b + 65536 * m) (cRead s (b + 65536 * m) 65536)).reverse ++ s.sent))

/-- For every state: power-on and power loss leave everything but the attic and the deed floor at its reset value; of the
sources of one SCLK cycle the widest takes effect and every one sets its cause: power-on, a thermal trip, then the warm
resets (RESET_N, a house error, a watchdog, PERST_N under a porch strap), which keep the cellar, its poison, the retained
household fields, TX_SEL_BASE, the strap and the pair identity; a porch reset changes only the porch and the virtual
functions; a package held in reset takes power-on alone. (R361, R362, R363, R364.) Model choices: log 23. -/
def Obligations.ResetsKeepAndClear : Prop :=
  ∀ (s : State),
    let kept (t : State) : Prop := t.pending = s.pending ∧ t.attic = s.attic ∧ t.deedFloor = s.deedFloor ∧ t.deed = none ∧
      t.sites = State.reset.sites ∧ t.regions = State.reset.regions ∧ t.sb = State.reset.sb ∧ t.terr = State.reset.terr ∧ t.boot.stage = 1
    let cold (t : State) : Prop := kept t ∧ t.cellar.mem = [] ∧ t.selBase = 0 ∧ t.hhs = .replicate 16 HhSt.init ∧ t.boot.pairId = none ∧
      t.boot.measure = true
    let serving : Bool := s.pw.role == .primary || s.pw.role == .survivor
    let causes (on : Bool) : RstSt := { RstSt.init with
      por := s.rst.por, porch := s.rst.porch, region := s.rst.region, cluster := s.rst.cluster, block := s.rst.block
      thermtrip := s.rst.thermtrip, houseCrit := s.rst.houseCrit, watchdog := s.rst.watchdog, perst := s.rst.perst
      resetPin := s.rst.resetPin, cellarKept := on, wasServing := on && serving }
    let warm (t : State) : Prop := kept t ∧ t.cellar.mem = s.cellar.mem ∧ t.cellar.poison = s.cellar.poison ∧ t.selBase = s.selBase ∧
      t.boot.strap = s.boot.strap ∧ t.boot.warm = true ∧
      t.boot.pairId = (match s.deed with
        | some d => some ⟨d.terraceId, d.twinId, d.pwEnable⟩
        | none => s.boot.pairId) ∧
      ∀ h, (hhAt t h).lease = none ∧ (hhAt t h).tr.root = (hhAt s h).tr.root ∧ (hhAt t h).tr.valid = (hhAt s h).tr.valid ∧
        (hhAt t h).tx.journal = (hhAt s h).tx.journal ∧ (hhAt t h).pool.save = (hhAt s h).pool.save
    let taken (t : State) (m : Nat) : Prop := if m.testBit 4 then cold t ∧ t.rst = addCauses { RstSt.init with por := true } m ∧
        t.boot.powered = true
      else if m.testBit 9 then cold t ∧ t.boot.tripped = true ∧ t.rst = addCauses (causes false) m
      else warm t ∧ t.rst = addCauses (causes true) m ∧ t.boot.measure = (m.testBit 5 || m.testBit 6 || s.boot.measure)
    (∀ also, ∃ t, exec (.powerOn also) s = .next t ∧ taken t (setBit also 4)) ∧
    (∃ t, exec .powerLoss s = .next t ∧ cold t ∧ t.boot.powered = false) ∧
    exec .jtagTrst s = .next s ∧
    (alive s = false → ∀ (also : Nat) c w z f, also.testBit 4 = false → exec (.resetPin also) s = .next s ∧
      exec (.houseCriticalError also) s = .next s ∧ exec (.thermalTrip also) s = .next s ∧ exec (.watchdogExpiry also) s = .next s ∧
      exec (.porchReset c also) s = .next s ∧ exec (.porchLinkUp w z f) s = .next s) ∧
    (alive s = true → ∀ also : Nat,
      (∃ t, exec (.resetPin also) s = .next t ∧ taken t (setBit also 5)) ∧
      (∃ t, exec (.houseCriticalError also) s = .next t ∧ taken t (setBit also 8)) ∧
      (∃ t, exec (.thermalTrip also) s = .next t ∧ taken t (setBit also 9)) ∧
      (∀ d, s.deed = some d → (∃ x ∈ d.timers, x.func = 1) → ∃ t, exec (.watchdogExpiry also) s = .next t ∧ taken t (setBit also 7)) ∧
      ((∀ d, s.deed = some d → ∀ x ∈ d.timers, x.func ≠ 1) → exec (.watchdogExpiry also) s = .next s) ∧
      (porchStrap s = true → ∃ t, exec (.porchReset .perst also) s = .next t ∧ taken t (setBit also 6)) ∧
      (∀ c, c ≠ .perst ∨ porchStrap s = false → also / 16 % 64 ≠ 0 →
        ∃ t, exec (.porchReset c also) s = .next t ∧ taken t (setBit also 3)) ∧
      (∀ c, c ≠ .perst ∨ porchStrap s = false → also / 16 % 64 = 0 → exec (.porchReset c also) s = .next { s with
        porch := if c = .pfFlr then { PorchSt.init with
            up := s.porch.up, flit := s.porch.flit, speed := s.porch.speed, width := s.porch.width } else PorchSt.init
        hhs := s.hhs.map fun x => { x with vfOn := false, vfWin := 0 }
        rst := { addCauses s.rst also with porch := true } }) ∧
      (∀ speed width flit, exec (.porchLinkUp speed width flit) s = .next { s with porch := { s.porch with
        up := true, speed := speed % 16, width := width % 32, flit := flit } }))

/-- With nothing waiting for clusters: a GO starts, forces, refuses or overruns; the quiesce timeout forces and an
idle block within its time ends the reset clean, with its duration, count and doorbell and the block's state cleared, a
cellar controller's as a die fault; a function-level reset stops a household and clears its table bits; a self-test end
zeroes a passing cluster and kills a failing one. (R339, R366, R367, R368, R412.) Model choices: log 23. -/
def Obligations.BlockResets : Prop :=
  ∀ (s : State), calm s →
    let ended (t : State) (code : Nat) (forced : Bool) : Prop := t.rst.active = none ∧ t.rst.block = true ∧ t.rst.forced = forced ∧
      t.rst.lastBlock = code ∧ dbPending t 6 = true ∧
      t.rst.forcedCount = (if forced then min (s.rst.forcedCount + 1) 65535 else s.rst.forcedCount) ∧
      (∀ i, blockOf code = some (.cluster i) → (siteAt t i).acc = [] ∧ (siteAt t i).accLines = []) ∧
      (∀ r, blockOf code = some (.region r) → coreAt t r = Core.init ∧ (regAt t r).mve = RQueue.init) ∧
      (∀ r, blockOf code = some (.larder r) → (regAt t r).larder = RQueue.init) ∧
      (blockOf code = some .strongbox → t.sb.curves = .replicate 5 none ∧ t.sb.cur = none ∧ t.sb.overrun = false ∧ t.sb.lost = 0) ∧
      (blockOf code = some .wall → t.pw.lost = 0) ∧ (∀ k, blockOf code = some (.stack k) → t.pw.role = .deposed)
    (∀ (a : Agent) (v : Nat), pfOrHouse a = true → agentUp s a = true →
      (s.rst.active = none → blockRefused s (v % 256) = false → v.testBit 30 = false →
        exec (.rstReqGo a v) s = .next { s with rst := { s.rst with reqBlock := v % 256, active := some ⟨v % 256, false⟩ } }) ∧
      (s.rst.active = none → blockRefused s (v % 256) = false → v.testBit 30 = true →
        ∃ t, exec (.rstReqGo a v) s = .next t ∧ ended t (v % 256) true) ∧
      (s.rst.active = none → blockRefused s (v % 256) = true →
        exec (.rstReqGo a v) s = .next { s with rst := { s.rst with reqBlock := v % 256, refused := true } }) ∧
      (s.rst.active.isSome = true →
        exec (.rstReqGo a v) s = .next { s with rst := { s.rst with reqBlock := v % 256, overrun := true } })) ∧
    (∀ (b : BlockReset) (x : Block), s.rst.active = some b → blockOf b.block = some x →
      (∃ t, exec .resetQuiesceTimeout s = .next t ∧ ended t b.block true) ∧
      (∀ us, blockIdle s x = true → us ≤ s.rst.timeout →
        ∃ t, exec (.blockResetIdle us) s = .next t ∧ ended t b.block false ∧ t.rst.lastUs = min us 65535) ∧
      (∀ us, blockIdle s x = false ∨ s.rst.timeout < us → exec (.blockResetIdle us) s = .next s)) ∧
    (∀ h : Hh,
      ((hhAt s h).lease = none → exec (.vfFunctionLevelReset h) s = .next s) ∧
      ((hhAt s h).lease.isSome = true → ∃ t, exec (.vfFunctionLevelReset h) s = .next t ∧ (hhAt t h).lease = (hhAt s h).lease ∧
        (hhAt t h).cmd.cqEnable = false ∧ (hhAt t h).cmd.cqWait = [] ∧ (∀ w, (hhAt t h).cmd.dtValid.get w = 0) ∧
        (hhAt t h).tx.opened = false ∧ (∀ i j, ((setAt t i h).queues.get j).ents = []) ∧
        ∀ i g, g ≠ h → setAt t i g = setAt s i g)) ∧
    (∀ i : Site,
      ((siteAt s i).testing = false → ∀ pass, exec (.clusterSelfTestEnd i pass) s = .next s) ∧
      ((siteAt s i).testing = true → (siteAt s i).retired = false → (siteAt s i).dead = false →
        (∃ t, exec (.clusterSelfTestEnd i true) s = .next t ∧ t = upSite s i (fun _ => siteAt t i) ∧ (siteAt t i).testing = false ∧
          (siteAt t i).pn.zeroBusy = true ∧ (siteAt t i).testOk = (siteAt s i).testOk) ∧
        ∃ t, exec (.clusterSelfTestEnd i false) s = .next t ∧ t = { upSite s i (fun _ => siteAt t i) with cellar :=
            { s.cellar with mem := t.cellar.mem, poison := t.cellar.poison } } ∧ (siteAt t i).testing = false ∧
          (siteAt t i).dead = true ∧ (siteAt t i).testOk = false))

/-- For a package out of reset that is not deposed, at every stage from 1 to 11: strap measurement, firmware, power
domains, self-tests and cellar training, journal recovery, deed, pairing and READY have the outcome of their rows for the
inputs given; GO of BOOT_FW_CTRL is taken only where a firmware image is awaited. (R320, R370, R371, R372, R374, R376.)
Model choices: log 24. -/
def Obligations.StartUpSteps : Prop :=
  ∀ (s : State) (x : BootInput), alive s = true → s.pw.role ≠ .deposed →
    let b := s.boot
    let i : Instr := .bootStageAdvance x
    let ready (t : State) : State := { t with boot := { t.boot with stage := 15, timeUs := s.us }, db := (raise t 0).db }
    let copy1 := flashCopy x 0x0C x.fw1
    let copy2 := flashCopy x 0x14 x.fw2
    let trusted (c : Option (List Byte)) : Option (List Byte) := c.filter fun bs => (firmwareErr s bs).isNone
    let why (c : Option (List Byte)) : Nat := match c with
      | some bs => (firmwareErr s bs).getD 0
      | none => stImgForm
    let started (bs : List Byte) : BootSt := { b with fwOk := true, fwSeq := leAt bs 0x0C 4, error := 0 }
    (b.stage = 1 → exec i s = .next { s with boot := { b with stage := 2 } }) ∧
    (b.stage = 2 → b.error = 0 → b.measure = true → x.samples.length = 8 →
      (∀ n, 1 ≤ n → n ≤ 12 → (∀ v ∈ x.samples, 100 * n ≤ v + 30 ∧ v ≤ 100 * n + 30) → exec i s = .next { s with
        boot := { b with strap := ⟨true, false, n, x.samples.sum / 8⟩, measure := false, stage := 3 }
        pw := { s.pw with role := if n % 3 = 1 then .solo else if n % 3 = 2 then .primary else .standby } }) ∧
      ((∃ v ∈ x.samples, ∃ w ∈ x.samples, v + 60 < w ∧ v < 1470) → ∃ t, exec i s = .next t ∧ t.boot.error = 1 ∧ t.boot.stage = 2 ∧
        t.boot.strap.ambiguous = true ∧ t.pw = s.pw)) ∧
    (b.stage = 3 → b.error = 0 → b.fwOk = false → b.fwWait = none → b.status = 0 → strapSource b.strap = 0 → s.sb.cur = none →
      (∃ t, exec i s = .next t ∧ t.boot = match trusted copy1, trusted copy2 with
        | some bs, _ => { started bs with stage := 4 }
        | none, some bs => { started bs with status := why copy1, stage := 4 }
        | none, none => { b with status := why copy2, error := 2 }) ∧
      (trusted copy1 = none → trusted copy2 = none → exec i s = .next { s with boot := { b with status := why copy2, error := 2 } })) ∧
    (b.stage = 4 → ∃ t, exec i s = .next t ∧ t.boot = { b with stage := 5 } ∧
      ∀ d : Fin 64, (∀ j : Site, j.val = d.val → fusedSite s j = false) → domainIsOn t d.val = true) ∧
    (b.stage = 5 →
      (x.trainFail = [] → x.chanFail = [] → x.testFail = [] → ∃ t, exec i s = .next t ∧ t = { s with
          sites := t.sites, boot := { b with stage := 6 }
          cellar := { s.cellar with
            stackSts := s.cellar.stackSts.map fun k => { k with trained := true }
            mem := if b.warm then s.cellar.mem else [], poison := if b.warm then s.cellar.poison else [] } } ∧
        ∀ j n, (siteAt t j).shelves.get n = if (siteAt s j).shelves.get n = .waking then .on else (siteAt s j).shelves.get n) ∧
      (x.trainFail ≠ [] → x.testFail = [] → ∃ t, exec i s = .next t ∧ t.boot = { b with error := 3 } ∧ t.pw.role = .deposed) ∧
      (∀ c : Fin 256, x.trainFail = [] → x.testFail = [] → x.chanFail = [c.val] → b.warm = false → s.cellar.retired = none →
        ∃ t, exec i s = .next t ∧ t.boot = { b with stage := 6 } ∧ t.cellar.retired = some (c, true) ∧ t.cellar.mem = []) ∧
      (∀ k : Site, x.trainFail = [] → x.chanFail = [] → x.testFail = [k.val] → fusedSite s k = false → (siteAt s k).retired = false →
        (siteAt s k).dead = false → calm s → ∃ t, exec i s = .next t ∧ t.boot = { b with stage := 6 } ∧ (siteAt t k).retired = true)) ∧
    (b.stage = 6 → exec i s = .next { s with boot := { b with stage := 7 } }) ∧
    (b.stage = 7 → exec i s = .next { s with boot := { b with stage := if b.warm then 8 else 9 } }) ∧
    (b.stage = 8 → s.rst.wasServing = false → ((∀ h, (hhAt s h).tx.journal = 0) → exec i s = .next { s with
        hhs := s.hhs.map fun y => { y with
          tr := { y.tr with root := 0, valid := false }, tx := { y.tx with journal := 0 }, pool := { y.pool with save := 0 } }
        selBase := 0, boot := { b with stage := 9 } }) ∧
      (∀ h, let j := (hhAt s h).tx.journal
        let e := leNat (cRead s (j + 4096) 8)
        let p := e / 2 ^ 17 % 2 ^ 22
        let a := s.selBase + p / 8
        j ≠ 0 → (∀ g, g ≠ h → (hhAt s g).tx.journal = 0) → leNat (cRead s j 4) = 2 → leNat (cRead s (j + 4) 4) = 1 →
        spWf 0 s.cellar.mem = true → s.cellar.retired = none → (a < j ∨ j + 4 ≤ a) →
        ∃ t, exec i s = .next t ∧ t.boot.stage = 9 ∧ leNat (cRead t j 4) = 3 ∧ (cGet t a).toNat.testBit (p % 8) = e.testBit 0 ∧
          ∀ c, c ≠ a → (c < j ∨ j + 4 ≤ c) → cGet t c = cGet s c)) ∧
    (b.stage = 9 →
      (s.deed.isSome = true → exec i s = .next { s with boot := { b with stage := 10, error := 0 } }) ∧
      (s.deed = none → (s.loader.busy = true ∨ strapSource b.strap = 1 ∨ b.fwHost = true) → exec i s = .next s) ∧
      (s.deed = none → s.loader.busy = false → strapSource b.strap = 0 → b.fwHost = false → s.loader.done = false →
        flashCopy x 0x1C x.deed = none → ∃ t, exec i s = .next t ∧ t.boot = { b with status := stImgForm, error := 4 } ∧ t.deed = none)) ∧
    (b.stage = 10 → s.pw.role = .solo → exec i s = .next (ready s)) ∧
    (b.stage = 10 → s.pw.role ≠ .solo → x.twin = none → exec i s = .next { s with boot := { b with stage := 11 } }) ∧
    (b.stage = 11 → x.twin = none → exec i s = .next (if s.pw.role = .primary then
      ready (raise { s with pw := { s.pw with evLinkDown := true } } 4) else s)) ∧
    (b.stage = 11 ∨ (b.stage = 10 ∧ s.pw.role ≠ .solo) → ∀ r, x.twin = some r →
      (x.twinStarting = false → (r = 1 ∨ r = 4) →
        exec i s = .next (ready { s with pw := { s.pw with twinId := x.twinId, role := .standby } })) ∧
      (x.twinStarting = true → r = roleCode s.pw.role →
        exec i s = .next (ready { s with pw := { s.pw with
          twinId := x.twinId, role := if ownId s < x.twinId then .primary else .standby } }))) ∧
    (11 < b.stage → exec i s = .next s) ∧
    (∀ (a : Agent) (v : Nat) (bs : List Byte), agentUp s a = true → (∀ h, a ≠ .vf h) →
      let hosted (l : Nat) : State → Prop := fun t => match firmwareErr s bs with
        | none => t.boot = { started bs with fwLen := l, fwBusy := false, fwWait := none, fwHost := true }
        | some st => t.boot = { b with fwLen := l, fwBusy := false, fwWait := none, status := st, error := 2 }
      (b.stage ≠ 3 → exec (.bootFwGo a v (some bs)) s = .next s) ∧
      (b.stage = 3 → (fwAwaited s = false ∨ b.fwBusy = true) →
        exec (.bootFwGo a v (some bs)) s = .next { s with boot := { b with fwLen := v % 2 ^ 23 } }) ∧
      (b.stage = 3 → fwAwaited s = true → b.fwBusy = false → b.fwAddr % 64 = 0 → 512 ≤ bs.length → bs.length ≤ 2 ^ 22 →
        v % 2 ^ 23 = bs.length →
        (s.sb.cur = none → ∃ t, exec (.bootFwGo a v (some bs)) s = .next t ∧ hosted bs.length t) ∧
        (s.sb.cur.isSome = true → exec (.bootFwGo a v (some bs)) s = .next { s with boot := { b with
          fwLen := bs.length, fwBusy := true, fwWait := some bs } })) ∧
      (b.stage = 3 → b.fwOk = false → b.fwWait = some bs → s.sb.cur = none → ∃ t, exec i s = .next t ∧
        t.boot = match firmwareErr s bs with
          | none => { started bs with fwBusy := false, fwWait := none, fwHost := true, stage := 4 }
          | some st => { b with fwBusy := false, fwWait := none, status := st, error := 2 }))

/-- For every port: training ends in HELLO or, at its timeout, in FAILED; a well-formed HELLO with another identity makes a
terrace port ACTIVE, the own identity fails it, and a party-wall port takes only the twin's; the third missed HELLO and a
link fault fail an ACTIVE port, whose replay buffer is discarded, the frames of the party wall leaving again by its other
port; replays and periods count and send; nothing else changes. (R384, R386.) Model choices: log 22. -/
def Obligations.TerracePorts : Prop :=
  ∀ (s : State) (p : PortId),
    let x := portAt s p
    let to' (f : Port → Port) : State := upPort s p f
    let failed (y : Port) (dup : Bool) (t : State) : Prop :=
      portAt t p = { y with state := .failed, neighbour := 0xFFFF, missed := 0, dup := y.dup || dup, replay := [] } ∧
      t.terr.evPortFail = true ∧ dbPending t 5 = true ∧ (∀ q, q ≠ p → (p.val < 16 ∨ q.val < 16) → portAt t q = portAt s q) ∧
      (p.val < 16 → t.sent = s.sent ∧ t.pw = s.pw) ∧
      (16 ≤ p.val → (∀ q, 16 ≤ q.val → q ≠ p → (portAt s q).state ≠ .active) → t.sent = s.sent ∧ t.pw = { s.pw with
        ship := s.pw.ship.map fun o => o.map fun z => { z with sent := true }, bulkSent := false, syncing := false }) ∧
      (∀ q, 16 ≤ p.val → 16 ≤ q.val → q ≠ p → (portAt s q).state = .active → t.pw = s.pw ∧
        (∀ m ∈ y.replay, (isBulk m = true ∨ ∃ h n, isFrameOf h n m = true) → m ∈ t.sent))
    (exec (.portTrainingDone p) s = .next (if x.state = .training then to' fun y => { y with state := .hello } else s)) ∧
    (exec (.portRetrainDelay p) s = .next (if x.state = .failed then to' fun y => { y with state := .training } else s)) ∧
    (x.state = .training → ∃ t, exec (.portTrainingTimeout p) s = .next t ∧ failed x false t) ∧
    (x.state ≠ .training → exec (.portTrainingTimeout p) s = .next s) ∧
    (x.state = .hello → ∃ t, exec (.helloWaitTimeout p) s = .next t ∧ failed x false t) ∧
    (x.state ≠ .hello → exec (.helloWaitTimeout p) s = .next s) ∧
    (x.state = .active → x.missed < 2 → exec (.helloMissed p) s = .next (to' fun y => { y with missed := y.missed + 1 })) ∧
    (x.state = .active → 2 ≤ x.missed → ∃ t, exec (.helloMissed p) s = .next t ∧ failed x false t) ∧
    (x.state ≠ .active → exec (.helloMissed p) s = .next s) ∧
    (exec (.crcErrorReplay p false) s = .next (if x.state = .active then to' fun y => { y with replays := min (y.replays + 1) 65535 } else s)) ∧
    (x.state = .active → ∃ t, exec (.crcErrorReplay p true) s = .next t ∧ failed { x with replays := min (x.replays + 1) 65535 } false t) ∧
    (x.state ≠ .active → exec (.crcErrorReplay p true) s = .next s) ∧
    (exec (.helloPeriod p) s = .next (if (x.state = .hello ∨ x.state = .active) ∧ (s.pw.role ≠ .deposed ∨ 16 ≤ p.val) then
      { s with sent := .hello p.val ⟨ownId s, p.val, ownTwin s, roleCode s.pw.role⟩ :: s.sent } else s)) ∧
    (∀ (pk : Packet) (m : Hello),
      ((x.state = .off ∨ x.state = .training ∨ x.state = .failed) → exec (.hello p m pk) s = .next s) ∧
      (x.state = .hello ∨ x.state = .active →
        (packetOk pk 0x10 = false → exec (.hello p m pk) s = .next (to' fun y => { y with bad := min (y.bad + 1) 255 })) ∧
        (packetOk pk 0x10 = true → fenced s pk.src = true → exec (.hello p m pk) s = .next s) ∧
        (packetOk pk 0x10 = true → fenced s pk.src = false →
          let up : State := linkHeard (to' fun y => { y with state := .active, neighbour := m.id, missed := 0, dup := false }) p
          (m.id = ownId s → ∃ t, exec (.hello p m pk) s = .next t ∧ failed x true t) ∧
          (m.id ≠ ownId s → m.id ≤ 0x0FFF → p.val < 16 → exec (.hello p m pk) s = .next up) ∧
          (m.id ≠ ownId s → 0x0FFF < m.id → p.val < 16 → exec (.hello p m pk) s = .next s) ∧
          (m.id ≠ ownId s → 16 ≤ p.val → m.id ≠ ownTwin s → exec (.hello p m pk) s = .next (raise { to' (fun y => { y with
            state := .hello, missed := 0 }) with pw := { s.pw with evPairFail := true } } 4)) ∧
          (m.id ≠ ownId s → m.id ≤ 0x0FFF → 16 ≤ p.val → m.id = ownTwin s →
            (s.pw.oweYield = none → exec (.hello p m pk) s = .next up) ∧
            ∀ v, s.pw.oweYield = some v →
              exec (.hello p m pk) s = .next (sendOn { up with pw := { up.pw with oweYield := none } } p (.yield v))))))

/-- For an ACTIVE port whose half takes work: a malformed packet counts as bad, one from a fenced package is dropped, one for
another package is forwarded with one hop less by its port or a detour, or dropped and counted; a WRITE for this package
stores its payload and is acknowledged, or refused with its status; a new FENCE or ROUTE_CLAIM is forwarded to the other
ports and acts, a known one only answers; the last FENCE_ACK ends a takeover. (R382, R385, R388, R392.) Model choices:
log 22. -/
def Obligations.TerraceRouting : Prop :=
  ∀ (s : State) (p : Fin 16) (pk : Packet) (x y : Nat), portActive s p.val = true → portHeld s p.val = false → s.pw.role ≠ .deposed →
    let good (ty : Nat) : Prop := packetOk pk ty = true ∧ fenced s pk.src = false
    let h : Hh := ⟨pk.dstHh % 16, by omega⟩
    let u := linkHeard s ⟨p.val, by omega⟩
    let dropped : State := { u with terr := { u.terr with drops := min (u.terr.drops + 1) 65535 } }
    let leaves (v : State) (n : Nat) (q : Packet) : State := sendOn v ⟨n % 16, by omega⟩ (.packet (n % 16) q)
    let e := spGet 0 s.terr.routes pk.dst
    let n := e / 2 ^ 16 % 16
    let onward : Packet := { pk with hops := pk.hops - 1 }
    let arrival (ty : Nat) (out : Host.Outcome State Fault Refusal) : Prop :=
      (packetOk pk ty = false → out = .next (upPort s ⟨p.val, by omega⟩ fun x => { x with bad := min (x.bad + 1) 255 })) ∧
      (packetOk pk ty = true → fenced s pk.src = true → out = .next s) ∧
      (good ty → mine s pk.dst = false →
        ((pk.hops = 0 ∨ e.testBit 31 = false) → out = .next dropped) ∧
        (0 < pk.hops → e.testBit 31 = true → portActive s n = true → out = .next (if n = p.val then dropped else leaves u n onward)) ∧
        (∀ q, 0 < pk.hops → e.testBit 31 = true → portActive s n = false → q < 16 → e.testBit q = true → portActive s q = true →
          (∀ r < q, e.testBit r = false ∨ portActive s r = false) → out = .next (if q = p.val then dropped
            else upPort (leaves u q onward) ⟨q % 16, by omega⟩ fun x => { x with detours := min (x.detours + 1) 65535 })) ∧
        (e.testBit 31 = true → portActive s n = false → (∀ q < 16, e.testBit q = false ∨ portActive s q = false) → out = .next dropped))
    let link (ty : Nat) (out : Host.Outcome State Fault Refusal) : Prop :=
      (packetOk pk ty = false → out = .next (upPort s ⟨p.val, by omega⟩ fun x => { x with bad := min (x.bad + 1) 255 })) ∧
      (packetOk pk ty = true → fenced s pk.src = true → out = .next s)
    (∀ fail, arrival 1 (exec (.trWrite p pk fail) s)) ∧ arrival 2 (exec (.trAck p pk) s) ∧ arrival 3 (exec (.trNotify p pk) s) ∧
    link 0x11 (exec (.fence p x y pk) s) ∧ link 0x12 (exec (.fenceAck p x y pk) s) ∧ link 0x13 (exec (.routeClaim p x y pk) s) ∧
    (good 3 → mine s pk.dst = true → exec (.trNotify p pk) s = .next (if rxAccepts s h pk.src then raise u (256 + 48 * h.val + 5) else u)) ∧
    (good 1 → mine s pk.dst = true →
      let b := spGet 0 s.terr.routes pk.src
      let back := b / 2 ^ 16 % 16
      b.testBit 31 = true → portActive s back = true →
      (rxAccepts s h pk.src = true → pk.flags = 0 → PlainDest s h (vaRange pk.addr pk.length) →
        (∃ t, exec (.trWrite p pk none) s = .next t ∧
          t = { leaves u back (ackOf s pk stOk 0) with cellar := { s.cellar with mem := t.cellar.mem, poison := t.cellar.poison } } ∧
          (∀ j < pk.length, cGet t (cpaOf s h ((pk.addr + j) % 2 ^ 64)) = pk.payload.getD j 0) ∧
          ∀ b, b ∉ (vaRange pk.addr pk.length).map (cpaOf s h) → cGet t b = cGet s b) ∧
        ∀ o < pk.length, ∃ t, exec (.trWrite p pk (some o)) s = .next t ∧ (hhAt t h).terr.rxLast = stPartial ∧
          t.sent = .packet back (ackOf s pk stPartial o) :: u.sent ∧
          (∀ j < o, cGet t (cpaOf s h ((pk.addr + j) % 2 ^ 64)) = pk.payload.getD j 0) ∧
          ∀ b, b ∉ (vaRange pk.addr pk.length).map (cpaOf s h) → cGet t b = cGet s b) ∧
      (rxAccepts s h pk.src = false → exec (.trWrite p pk none) s = .next (leaves
        (upTerr u h fun y => { y with rxLast := stPerm, rxFaults := min (y.rxFaults + 1) 65535 }) back (ackOf s pk stPerm 0)))) ∧
    ((good 0x11 →
        (knownFlood s false x y = true → exec (.fence p x y pk) s = .next (leaves u p.val (linkPacket s 0x12 0))) ∧
        (knownFlood s false x y = false → ∃ t, exec (.fence p x y pk) s = .next t ∧ knownFlood t false x y = true ∧ t.terr.evFenced = true ∧
          .packet p.val (linkPacket s 0x12 0) ∈ t.sent ∧ t.terr.routes = s.terr.routes ∧
          (∀ n < 16, n ≠ p.val → portActive s n = true → .packet n (linkPacket s 0x11 (x + 65536 * y)) ∈ t.sent) ∧
          t.pw.role = if s.deed.isSome ∧ x = ownId s then .deposed else s.pw.role)) ∧
      (good 0x13 →
        (knownFlood s true x y = true → exec (.routeClaim p x y pk) s = .next u) ∧
        (knownFlood s true x y = false → spWf 0 s.terr.routes = true → ∃ t, exec (.routeClaim p x y pk) s = .next t ∧
          knownFlood t true x y = true ∧
          (∀ d, spGet 0 t.terr.routes d = spGet 0 s.terr.routes (if d = x then y else d)) ∧
          ∀ n < 16, n ≠ p.val → portActive s n = true → .packet n (linkPacket s 0x13 (x + 65536 * y)) ∈ t.sent))) ∧
    (∀ (claim : Bool) (x y : Nat), ∃ t, exec (.fenceLapse x y claim) s = .next t ∧ t = { s with terr := { s.terr with floods := t.terr.floods } } ∧
      ∀ f, f ∈ t.terr.floods ↔ f ∈ s.terr.floods ∧ ¬ (f.claim = claim ∧ f.fenced = x ∧ f.claimant = y)) ∧
    (good 0x12 →
      (s.pw.take = .none → exec (.fenceAck p x y pk) s = .next u) ∧
      (∀ x ports m, s.pw.take = .fencing x ports → m ∈ ports → m ≠ p.val → portActive s m = true →
        exec (.fenceAck p x y pk) s = .next { u with pw := { u.pw with take := .fencing x (ports.filter fun n => n != p.val && portActive s n) } }) ∧
      (∀ x ports, s.pw.take = .fencing x ports → (∀ m ∈ ports, m = p.val) → ∃ t, exec (.fenceAck p x y pk) s = .next t ∧
        t.pw.role = .survivor ∧ t.pw.take = .none ∧ t.terr.claimed = some x ∧ t.pw.evTakeover = true)) ∧
    (∀ (a : Agent) (d : Fin 4096) (v : Nat), pfOrHouse a = true → agentUp s a = true →
      exec (.trRouteWrite a d v true) s = .next (raise { s with terr := { s.terr with evRouteLost := true } } 5) ∧
      (spWf 0 s.terr.routes = true → ∃ t, exec (.trRouteWrite a d v false) s = .next t ∧
        t = { s with terr := { s.terr with routes := t.terr.routes } } ∧
        ∀ e, spGet 0 t.terr.routes e = if e = d.val then v % 2 ^ 20 + (if v.testBit 31 then 2 ^ 31 else 0) else spGet 0 s.terr.routes e))

/-- For every household: TAIL is taken within the ring, RESUME ends a halt; a one-packet descriptor that passes its
checks is sent with the next tag to the port of its route, one that fails halts the queue with the error doorbell; an
OK acknowledgement of its last packet completes it, another status or a missing one halts the queue. (R390.) Model choices: log 22. -/
def Obligations.SendQueues : Prop :=
  ∀ (s : State) (h : Hh),
    let x := (hhAt s h).terr
    (∀ (a : Agent) (v : Nat), hhOpen s a h →
      (exec (.trSqTailWrite a h v) s = .next (if (v % 65536 + 65536 - x.sqHead % 65536) % 65536 > 2 ^ x.sqLog2 then s
        else upTerr s h fun x => { x with sqTail := v % 65536 })) ∧
      (x.sqHalted = false → exec (.trSqResume a h) s = .next s) ∧
      (x.sqHalted = true → (∀ d ∈ x.out, d.packets ≤ d.next) →
        exec (.trSqResume a h) s = .next (upTerr s h fun x => { x with sqHalted := false }))) ∧
    (nextDesc s h = none → exec (.sqWrite h) s = .next s ∧ exec (.sqWriteSealed h) s = .next s) ∧
    (∀ raw data, nextDesc s h = some (.ok raw) → x.out = [] → outstandingAll s < 1024 →
      let d : SendDesc := ⟨x.sqHead, raw, 0, []⟩
      let e := spGet 0 s.terr.routes (leAt raw 4 2)
      let o := e / 2 ^ 16 % 16
      let went : State := sendOn (upTerr s h fun x => { x with
          sqHead := (x.sqHead + 1) % 2 ^ 32, nextTag := (x.nextTag + 1) % 2 ^ 32
          out := [{ d with next := 1, out := [⟨x.nextTag, 0⟩] }] }) ⟨o, by omega⟩
        (.packet o (ownPacket s h d 1 x.nextTag (leAt raw 0x10 8) (if d.kind = 2 then leAt raw 0x28 8 else 0)
          (if d.kind = 2 then 0x80 else 0) data))
      let stopped : State := raise (upTerr s h fun x => { x with sqHead := (x.sqHead + 1) % 2 ^ 32, sqHalted := true }) (256 + 48 * h.val)
      let fit : Prop := d.ok = true ∧ d.packets = 1 ∧ e.testBit 31 = true ∧ portActive s o = true ∧ portHeld s o = false ∧
        packetData s h d = .ok data
      (d.kind ≠ 2 → exec (.sqWriteSealed h) s = .next s ∧ (fit → exec (.sqWrite h) s = .next went) ∧
        (d.ok = false → (hhAt s h).cmd.cqEnable = false → exec (.sqWrite h) s = .next stopped)) ∧
      (d.kind = 2 → exec (.sqWrite h) s = .next s ∧ (fit → exec (.sqWriteSealed h) s = .next went) ∧
        (d.ok = false → (hhAt s h).cmd.cqEnable = false → exec (.sqWriteSealed h) s = .next stopped))) ∧
    (∀ (tag : Nat) (d : SendDesc) (q : OutPkt), x.out = [d] → d.out = [q] → q.tag = tag → (hhAt s h).cmd.cqEnable = false →
      exec (.ackTimeout h tag) s = .next (raise (upTerr s h fun x => { x with sqHalted := true, out := [] }) (256 + 48 * h.val)) ∧
      ∀ (p : Fin 16) (pk : Packet), portActive s p.val = true → portHeld s p.val = false → s.pw.role ≠ .deposed → packetOk pk 2 = true → fenced s pk.src = false →
        mine s pk.dst = true → pk.dstHh = h.val → pk.tag = tag →
        let u := linkHeard s ⟨p.val, by omega⟩
        (pk.status = stOk → d.packets ≤ d.next → d.notify = false → exec (.trAck p pk) s = .next (upTerr u h fun x => { x with out := [] })) ∧
        (pk.status ≠ stOk → exec (.trAck p pk) s = .next (raise (upTerr u h fun x => { x with
          sqHalted := true, out := [] }) (256 + 48 * h.val)))) ∧
    (∀ tag, (∀ d ∈ x.out, ∀ q ∈ d.out, q.tag ≠ tag) → exec (.ackTimeout h tag) s = .next s ∧
      ∀ (p : Fin 16) (pk : Packet), portActive s p.val = true → portHeld s p.val = false → s.pw.role ≠ .deposed → packetOk pk 2 = true →
        fenced s pk.src = false → mine s pk.dst = true → pk.dstHh = h.val → pk.tag = tag →
        exec (.trAck p pk) s = .next (linkHeard s ⟨p.val, by omega⟩))

/-- For every state: a BAR2 read of the physical function gives the cellar bytes and one of a live virtual function
the translated bytes, faults and ranges counting as Completer Abort or Unsupported Request; writes change exactly
their bytes or count as discarded; configuration writes set MSI-X and VF state; SMBus reads the allowed registers and
writes are discarded. (R328, R395, R450.) Model choices: logs 5, 14, 25, 30. -/
def Obligations.PorchAndManagement : Prop :=
  ∀ (s : State),
    let low (p n : Nat) : Prop := p + n ≤ 0x7F80000000
    let num (f : Nat → Byte) (n : Nat) : Nat := (List.range n).foldr (fun j acc => (f j).toNat + 256 * acc) 0
    let ur : State := { s with porch := { s.porch with ur := min (s.porch.ur + 1) 65535 } }
    (∀ off n, off < 2 ^ 36 →
      let c := s.porch.pfWin * 2 ^ 36 + off
      (agentUp s .pf = true → low c n → (∀ j < n, poisoned s (c + j) = false) →
        exec (.porchBar2Read .pf off n) s = .next { s with bus := num (fun j => cGet s (c + j)) n }) ∧
      (agentUp s .pf = true → ¬ low c n → exec (.porchBar2Read .pf off n) s = .next { s with porch := { s.porch with ca := min (s.porch.ca + 1) 65535 } }) ∧
      (∀ h bs, agentUp s (.vf h) = true → hRead s h false .read ((hhAt s h).vfWin * 2 ^ 36 + off) n = .ok bs →
        ∃ t, exec (.porchBar2Read (.vf h) off n) s = .next t ∧
          offTlb t = offTlb { s with bus := num (fun j => bs.getD j 0) bs.length }) ∧
      (∀ h st va, agentUp s (.vf h) = true → hRead s h false .read ((hhAt s h).vfWin * 2 ^ 36 + off) n = .error (.fault st va) →
        exec (.porchBar2Read (.vf h) off n) s = .next { upTr s h (fun t => { t with
            faultStatus := st, faultAgent := 8, faultVa := va % 2 ^ 48 }) with
          porch := { s.porch with ca := min (s.porch.ca + 1) 65535 } }) ∧
      (∀ h, alive s = true → quiescing s 0x51 = false → vfLive s h = false → exec (.porchBar2Read (.vf h) off n) s = .next ur)) ∧
    (∀ off data, off < 2 ^ 36 → spWf 0 s.cellar.mem = true → s.cellar.retired = none →
      let c := s.porch.pfWin * 2 ^ 36 + off
      let wrote (t : State) (m : Nat) (at' : Nat → Nat) : Prop :=
        (∀ j < m, cGet t (at' j) = data.getD j 0) ∧ ∀ b, (∀ j < data.length, b ≠ at' j) → cGet t b = cGet s b
      (agentUp s .pf = true → low c data.length →
        (∃ t, exec (.porchBar2Write .pf off data none) s = .next t ∧ wrote t data.length (fun j => c + j) ∧
          t = { s with cellar := { s.cellar with mem := t.cellar.mem, poison := t.cellar.poison } }) ∧
        ∀ o < data.length, ∃ t, exec (.porchBar2Write .pf off data (some o)) s = .next t ∧ wrote t o (fun j => c + j) ∧
          t.porch = { s.porch with ca := min (s.porch.ca + 1) 65535 }) ∧
      (agentUp s .pf = true → ¬ low c data.length → ∀ fail, exec (.porchBar2Write .pf off data fail) s = .next { s with porch := { s.porch with
        discarded := min (s.porch.discarded + 1) 65535 } }) ∧
      (∀ h, agentUp s (.vf h) = true → PlainDest s h (vaRange ((hhAt s h).vfWin * 2 ^ 36 + off) data.length) →
        let at' (j : Nat) : Nat := cpaOf s h (((hhAt s h).vfWin * 2 ^ 36 + off + j) % 2 ^ 64)
        (∃ t, exec (.porchBar2Write (.vf h) off data none) s = .next t ∧ wrote t data.length at' ∧
          offTlb t = offTlb { s with cellar := { s.cellar with mem := t.cellar.mem, poison := t.cellar.poison } }) ∧
        ∀ o < data.length, ∃ t, exec (.porchBar2Write (.vf h) off data (some o)) s = .next t ∧ wrote t o at' ∧
          t.porch = { s.porch with ca := min (s.porch.ca + 1) 65535 } ∧ (hhAt t h).tr.faultStatus = stPartial ∧
          (hhAt t h).tr.faultAgent = 8 ∧ (hhAt t h).tr.faultVa = ((hhAt s h).vfWin * 2 ^ 36 + off + o) % 2 ^ 48) ∧
      (∀ h, alive s = true → quiescing s 0x51 = false → vfLive s h = false → ∀ fail, exec (.porchBar2Write (.vf h) off data fail) s = .next ur)) ∧
    (exec (.porchAtomicOp .pf) s = .next ur ∧ ∀ h, exec (.porchAtomicOp (.vf h)) s = .next ur) ∧
    (s.porch.up = false → ∀ c, exec (.porchConfigurationWrite c) s = .next s) ∧
    (s.porch.up = true →
      (∀ f on, exec (.porchConfigurationWrite (.msixEnable f on)) s = .next { s with porch := { s.porch with
        msixOn := s.porch.msixOn.set f.val on f.isLt } }) ∧
      (∀ f on, exec (.porchConfigurationWrite (.funcMask f on)) s = .next { s with porch := { s.porch with
        funcMask := s.porch.funcMask.set f.val on f.isLt } }) ∧
      (∀ f n on, ∃ t, exec (.porchConfigurationWrite (.vectorMask f n on)) s = .next t ∧
        t = { s with porch := { s.porch with vecMask := t.porch.vecMask } } ∧
        ∀ k, k ∈ t.porch.vecMask ↔ (k ∈ s.porch.vecMask ∧ (k ≠ 64 * f.val + n.val)) ∨ (on = true ∧ k = 64 * f.val + n.val)) ∧
      (∀ on, exec (.porchConfigurationWrite (.vfEnable on)) s = .next { s with
        porch := { s.porch with vfEnable := on }
        hhs := s.hhs.map fun y => { y with vfOn := on && y.lease.isSome && s.pw.role != .deposed } })) ∧
    (∀ off n, s.boot.stage < 2 → exec (.smbusBlockRead off n) s = .next s) ∧
    (2 ≤ s.boot.stage → exec (.smbusBlockRead 0 4) s = .next { s with bus := devId s % 2 ^ 32 } ∧
      ∀ h : Hh, exec (.smbusBlockRead (0x4008 + 0x40 * h.val) 8) s = .next { s with bus := 0 }) ∧
    (∀ off, exec (.smbusWrite off) s = .next { s with discFunc := 0xFFFE, discCount := min (s.discCount + 1) 65535 })

/-- For every state: raising a clear source sets its bit, a pending one only counts a merge; delivery takes the lowest
source with a free target, the next target after its last, makes it busy and signals it (an MSI-X message or a core
interrupt); EOI of the active source frees the target, any other counts as spurious; rights follow R428. (R77,
R421, R424, R425, R426.) Model choices: log 25. -/
def Obligations.DoorbellPaths : Prop :=
  ∀ (s : State),
    let refused (a : Agent) : State := { s with
      discFunc := match a with
        | .pf => 0
        | .vf h => h.val + 1
        | _ => 0xFFFF
      discCount := min (s.discCount + 1) 65535 }
    (∀ (n : Fin 16) (h : Hh) (l : Lease), (hhAt s h).lease = some l → (∃ x ∈ l.timers, x.timer = n.val ∧ x.func = 0x10) →
      (∀ g k, (hhAt s g).lease = some k → (∃ x ∈ k.timers, x.timer = n.val ∧ x.func = 0x10) → h.val ≤ g.val) →
      exec (.householdTick n) s = .next (raise s (256 + 48 * h.val + 4))) ∧
    (∀ (a : Agent) (src : Nat), src < 1024 →
      (pfOrHouse a = true → agentUp s a = true → exec (.dbRaise a src) s = .next (raise s src)) ∧
      (∀ h, a = .vf h → agentUp s a = true → exec (.dbRaise a src) s = .next
        (if 256 + 48 * h.val ≤ src ∧ src < 304 + 48 * h.val then raise s src else refused a)) ∧
      (∀ r, a = .cc r → agentUp s a = true → exec (.dbRaise a src) s = .next (refused a))) ∧
    (∀ src, src < 1024 → (dbPending s src = true → raise s src = { s with db := { s.db with merged := min (s.db.merged + 1) 65535 } }) ∧
      (dbPending s src = false → ∀ n, dbPending (raise s src) n = true ↔ (n = src ∨ dbPending s n = true))) ∧
    ((∀ src, src < 1024 → dbPending s src = true → ∀ t, deliverable s (spGet 0 s.db.mask src) t = false) →
      exec .doorbellDelivery s = .next s) ∧
    (∀ (src : Nat) (t : Fin 74), src < 1024 → dbPending s src = true → deliverable s (spGet 0 s.db.mask src) t = true →
      (∀ n, n < src → dbPending s n = true → ∀ u, deliverable s (spGet 0 s.db.mask n) u = false) →
      spGet 73 s.db.last src < 74 → spWf 73 s.db.last = true →
      (∀ u : Fin 74, (u.val + 73 - spGet 73 s.db.last src) % 74 < (t.val + 73 - spGet 73 s.db.last src) % 74 →
        deliverable s (spGet 0 s.db.mask src) u = false) →
      ∃ v, exec .doorbellDelivery s = .next v ∧
        v = { s with db := v.db, regions := v.regions, sent := if 10 ≤ t.val then .msix (t.val - 10) :: s.sent else s.sent } ∧
        (∀ n, dbPending v n = true ↔ (n ≠ src ∧ dbPending s n = true)) ∧ spGet 73 v.db.last src = t.val ∧
        v.db.delivered = (s.db.delivered + 1) % 2 ^ 32 ∧
        (∀ u, v.db.tgts.get u = if u = t then { s.db.tgts.get t with busy := true, active := src } else s.db.tgts.get u) ∧
        ∀ r, regAt v r = if r.val = t.val then { regAt s r with core := { coreAt s r with irq := true } } else regAt s r) ∧
    (∀ (a : Agent) (t : Fin 74) (src : Nat), src < 1024 → agentUp s a = true →
      (ownsTarget s a t.val = false → exec (.dbEoi a t.val src) s = .next (refused a)) ∧
      (ownsTarget s a t.val = true → exec (.dbEoi a t.val src) s = .next
        (if (s.db.tgts.get t).busy = true ∧ (s.db.tgts.get t).active = src then { s with db := { s.db with
            tgts := s.db.tgts.set t.val { s.db.tgts.get t with busy := false } t.isLt } }
          else { s with db := { s.db with spurious := min (s.db.spurious + 1) 65535 } })))

/-- For every state: a tick advances 10 microseconds and computes junction cap, reference, ballast and throttle from
the reading; an audit read of a good block changes nothing and of a bad one records it; coolant samples update the
temperatures and, in outlet mode, the setpoint within its slew; power requests are refused or switch exactly one
domain; a marker latches and clears every stall count and counts the epoch. (R405, R408, R409, R410,
R415.) Model choices: log 25. -/
def Obligations.HearthControl : Prop :=
  ∀ (s : State),
    let h := s.hearth
    (∀ (m : HearthReading) (d : Deed), alive s = true → s.deed = some d → h.started = true →
      (∀ x, s.cellar.second ≠ some (x, false)) →
      let tin := inletTemp s
      let rated : Int := if tin ≤ 500 then 1800000 else max 600000 (1800000 - 4375 * (tin - 500))
      let j : Int := min rated (if 103 ≤ m.tj then max 0 (h.jcap - 10000) else if m.tj < 100 then h.jcap + 1000 else h.jcap)
      let cap := min rated j
      let p : Int := m.p
      let hi := min ((h.setpoint : Int) * (1000 + h.band)) cap
      let lo := min ((h.setpoint : Int) * (1000 - h.band)) hi
      let c (a b v : Int) : Int := if v < a then a else if b < v then b else v
      let r := if p > cap then cap else c (h.r - 10 * h.slew) (h.r + 10 * h.slew) (c lo hi p)
      let e := r - p
      ∃ t, exec (.hearthTick m) s = .next t ∧ t.us = s.us + 10 ∧ t.hearth.jcap = j ∧ t.hearth.r = r ∧ t.hearth.energy = h.energy + m.p ∧
        t.hearth.u = (if e > 0 ∧ h.theta = 0 then min (h.u + e) (ballastCapacity s) else if e < 0 ∧ h.u > 0 then max 0 (h.u + e) else h.u) ∧
        t.hearth.theta = (if e > 0 ∧ h.theta > 0 then h.theta - 1 else if e < 0 ∧ h.u ≤ 0 then min 56 (h.theta + 1) else h.theta) ∧
        t.hearth.evJguard = (h.evJguard || decide (j < rated)) ∧ t.hearth.tj = min m.tj 255 ∧
        t.hhs = s.hhs ∧ t.cellar = { s.cellar with stackSts := t.cellar.stackSts } ∧ t.deed = s.deed ∧ t.loader = s.loader ∧
        (∀ i g, (s.pools.get i).stage = .none → (s.pools.get i).running = some g → t.pools.get i = { s.pools.get i with
          left := (s.pools.get i).left - 1, idle := if pendingWork s i g then 0 else (s.pools.get i).idle + 1 }) ∧
        ∀ i, ((s.pools.get i).stage ≠ .none ∨ (s.pools.get i).running = none) → t.pools.get i = s.pools.get i) ∧
    (alive s = false → ∀ m, exec (.hearthTick m) s = .next s) ∧
    (∀ i : Site,
      ((∀ u ∈ h.running, u.kind = 3 → u.unit ≠ i.val) → ∀ ok, exec (.auditRead i ok) s = .next s) ∧
      ((∃ u ∈ h.running, u.kind = 3 ∧ u.unit = i.val) → (siteAt s i).recent ≠ [] →
        ((∀ b ∈ (siteAt s i).recent, sealOk (viewOf (siteAt s i)) b.1 (spRead 0 (siteAt s i).pantry b.1 b.2) = true) →
          exec (.auditRead i true) s = .next (tickFresh s)) ∧
        ∃ b ∈ (siteAt s i).recent, exec (.auditRead i false) s = .next (raise (raise { tickFresh s with hearth := { h with
          evAudit := true, mismatches := min (h.mismatches + 1) 65535, auSite := i.val, auSlot := b.1 / 128 } } 3) 0))) ∧
    (∀ (d : Deed) (x : TimerClaim) (a b : Nat), s.deed = some d → (d.timers.find? fun t => t.func == 2) = some x → sensorBus s = true →
      let near (raw : Nat) : Nat := ((sext 16 raw * 10 / 128) % 65536).toNat
      (h.mode = false → exec (.coolantSample (some a) (some b)) s = .next { s with hearth := { h with
        missed := 0, inlet := near a, outlet := near b } }) ∧
      (h.mode = true →
        let move : Int := 2 * (sext 16 h.outletDc - sext 16 (near b))
        let lim : Int := h.slew * x.period / 1000
        exec (.coolantSample (some a) (some b)) s = .next { s with hearth := { h with
          missed := 0, inlet := near a, outlet := near b
          setpoint := (max 600 (min (h.capW : Int) ((h.setpoint : Int) + max (-lim) (min lim move)))).toNat } }) ∧
      (h.missed < 2 → exec (.coolantSample none (some b)) s = .next { s with hearth := { h with missed := h.missed + 1 } }) ∧
      (h.missed = 2 → exec (.coolantSample none (some b)) s =
        .next (raise { s with hearth := { h with missed := 3, evSensor := true } } 3))) ∧
    (∀ (a : Agent) (v : Nat), pfOrHouse a = true → agentUp s a = true →
      (h.pdBusy = true → exec (.hePdreqGo a v) s = .next s) ∧
      (h.pdBusy = false → pdRefused s (v % 64) (v.testBit 8) = false → exec (.hePdreqGo a v) s = .next { s with hearth := { h with
        pdDomain := v % 64, pdOn := v.testBit 8, pdBusy := true } }) ∧
      (h.pdBusy = false → pdRefused s (v % 64) (v.testBit 8) = true → exec (.hePdreqGo a v) s = .next (raise { s with hearth := { h with
        pdDomain := v % 64, pdOn := v.testBit 8, evPdRefused := true } } 3))) ∧
    (h.pdBusy = false → exec .powerDomainSwitch s = .next s) ∧
    (h.pdBusy = true → calm s → h.pdDomain < 64 → ∃ t, exec .powerDomainSwitch s = .next t ∧ t.hearth.pdBusy = false ∧
      domainIsOn t h.pdDomain = h.pdOn ∧ (∀ n, n ≠ h.pdDomain → domainIsOn t n = domainIsOn s n) ∧ t.hhs = s.hhs ∧ t.cellar = s.cellar) ∧
    (∀ a : Agent, pfOrHouse a = true → agentUp s a = true → (h.periodMs = 0 → exec .epochPeriod s = .next s) ∧
      (h.marking = false → ∃ t, exec (.epochMark a) s = .next t ∧ (h.periodMs ≠ 0 → exec .epochPeriod s = .next t) ∧ t.hearth = { h with
          epoch := (h.epoch + 1) % 2 ^ 32, marking := true } ∧ t.db = (raise s 7).db ∧
        (∀ i, siteAt t i = { siteAt s i with
          stallLatched := (siteAt s i).stallLive, stallLive := .replicate 8 (.replicate 10 0) }) ∧
        ∀ r, (regAt t r).ldLatched = (regAt s r).ldStall ∧ (regAt t r).mvLatched = (regAt s r).mvStall ∧
          (regAt t r).ldStall = .replicate 10 0 ∧ (regAt t r).mvStall = .replicate 10 0 ∧
          (regAt t r).ld.ann = ((regAt s r).ld.ann.filter fun y => decide (y.marks = 0)).map fun y => { y with marks := 1 }))

/-- With nothing waiting for clusters: a GO makes the request wait or sets OVERRUN; the Strongbox takes the house, then the
physical function, then households in turn, wipes operand memory on a change of owner and fetches block and input or ends
with the failing check; completion writes exactly the output, status and flags; faults suspend, RESUME goes on, ABORT, the
timeout and a house request end it with PK_ABORTED. (R429, R430, R436, R437, R438, R439.) Model choices: log 26. -/
def Obligations.StrongboxRequests : Prop :=
  ∀ (s : State), calm s →
    let put (f : SbSt → SbSt) : State := { s with sb := f s.sb }
    (∀ a : Agent, pfOrHouse a = true → agentUp s a = true →
      let o := sbOwnerOf a
      let left (b : SbSt) : SbSt := { b with house := if o = .house then none else b.house, pf := if o = .pf then none else b.pf }
      let ended (b : SbSt) : SbSt := { left b with status := 0x83, evDone := true }
      exec (.sbGo a) s = .next (if sbHas s o then put fun b => { b with overrun := true }
        else if o = .pf then put fun b => { b with pf := some b.cmdAddr } else put fun b => { b with house := some b.cmdAddr }) ∧
      (∀ x, s.sb.cur = some x → x.owner = o → exec (.sbAbort a) s = .next (raise (put fun b => { ended b with
        mem := [], evWiped := true, cur := none }) 2)) ∧
      ((∀ x, s.sb.cur = some x → x.owner ≠ o) → exec (.sbAbort a) s = .next (if sbHas s o then raise (put ended) 2 else s)) ∧
      (∀ x, s.sb.cur = some x → x.owner = o → x.stage = .outFault →
        exec (.sbResume a) s = .next (put fun b => { b with cur := some { x with stage := .computed } })) ∧
      ((∀ x, s.sb.cur = some x → x.owner = o → sbSuspended x = false) → exec (.sbResume a) s = .next s)) ∧
    (∀ (a : Agent) (h : Hh) (va : Nat), hhOpen s a h →
      let v := va / 64 * 64 % 2 ^ 48
      let note (t : State) : State := mirrored t (0xC000 + 0x40 * h.val) 8 v
      (sbHas s (.hh h) = true → exec (.sbHreqGo a h va) s = .next (note (upSb s h fun q => { q with va := v, overrun := true }))) ∧
      (sbHas s (.hh h) = false → exec (.sbHreqGo a h va) s = .next (note { upSb s h (fun q => { q with
          va := v, pending := true, block := v, late := (hhAt s h).tx.committing }) with
        sb := { s.sb with counts := vmod s.sb.counts h fun c => (c + 1) % 2 ^ 32 } })) ∧
      (sbHas s (.hh h) = false → exec (.sbHreqAbort a h) s = .next s) ∧
      ((∀ x, s.sb.cur = some x → x.owner = .hh h → sbSuspended x = false) → exec (.sbHreqResume a h) s = .next s) ∧
      (∀ x, s.sb.cur = some x → x.owner = .hh h →
        (x.stage = .outFault → exec (.sbHreqResume a h) s = .next (put fun b => { b with cur := some { x with stage := .computed } })) ∧
        (∀ rest, x.stage = .inFault → x.block ≠ [] → blkOp x.block ≠ 7 → x.input.length < blkInLen x.block →
          blkInLen x.block ≤ 2 ^ 30 →
          hRead s h true .read ((blkIn x.block + x.input.length) % 2 ^ 64) (blkInLen x.block - x.input.length) = .ok rest →
          ∃ t, exec (.sbHreqResume a h) s = .next t ∧ offTlb t = offTlb (put fun b => { b with
            cur := some { x with input := x.input ++ rest, stage := .fetched }
            mem := spWrite 0 [] 0 ((x.input ++ rest).take 16384) }))) ∧
      ((hhAt s h).cmd.cqEnable = false →
        let dropped (u : State) (mine : Bool) : State := raise { upSb u h (fun q => { q with pending := false, status := 0x83 }) with
          sb := if mine then { u.sb with mem := [], evWiped := true, cur := none, status := 0x83 } else u.sb } (256 + 48 * h.val)
        ((∀ x, s.sb.cur = some x → x.owner ≠ .hh h) → sbHas s (.hh h) = true →
          exec (.sbHreqAbort a h) s = .next (dropped s false)) ∧
        ∀ x, s.sb.cur = some x → x.owner = .hh h →
          exec (.sbHreqAbort a h) s = .next (dropped s true) ∧
          (sbSuspended x = true → exec .strongboxSuspendTimeout s = .next (dropped s true)) ∧
          (sbSuspended x = false → exec .strongboxSuspendTimeout s = .next s) ∧
          (s.sb.house.isSome = true → (sbSuspended x = true ∨ (x.stage = .fetched ∧ 800000 < runTime s x)) →
            exec .strongboxPreempt s = .next (dropped (put fun b => { b with evPreempt := true }) true)) ∧
          (s.sb.house.isSome = true → sbSuspended x = false → (x.stage ≠ .fetched ∨ runTime s x ≤ 800000) →
            exec .strongboxPreempt s = .next s))) ∧
    (s.sb.cur = none → exec .strongboxSuspendTimeout s = .next s ∧ exec .strongboxPreempt s = .next s ∧
      exec (.strongboxComplete none) s = .next s) ∧
    (s.sb.house = none → houseWaits s = false → exec .strongboxPreempt s = .next s) ∧
    ((s.sb.cur ≠ none ∨ houseWaits s = true ∨ quiescing s 0x50 = true) → exec .strongboxDispatch s = .next s) ∧
    (s.sb.cur = none → s.sb.house = none → s.sb.pf = none → (∀ h, (hhAt s h).sb.pending = false) → exec .strongboxDispatch s = .next s) ∧
    (∀ (o : SbOwner) (c : Nat), s.sb.cur = none → houseWaits s = false → quiescing s 0x50 = false →
      (o = .house ∧ s.sb.house = some c ∨ o = .pf ∧ s.sb.house = none ∧ s.sb.pf = some c) → firstPoison s c 64 = none →
      let b := cRead s c 64
      let code := if o = .pf then 0x10 else 0x11
      let same : Bool := s.sb.owner == code
      let taken (z : SbSt) : SbSt := { z with
        owner := code, op := blkOp b, elapsed := 0, mem := if same then z.mem else [], evWiped := z.evWiped || !same
        house := if o = .house then none else z.house, pf := if o = .pf then none else z.pf }
      (∀ st, blkCheck s o b = some st → exec .strongboxDispatch s = .next (raise (put fun z => { taken z with
        status := st, evDone := true }) 2)) ∧
      (blkCheck s o b = none → blkOp b ≠ 7 → firstPoison s (blkIn b) (blkInLen b) = none →
        let input := cRead s (blkIn b) (blkInLen b)
        exec .strongboxDispatch s = .next (put fun z => { taken z with
          cur := some ⟨o, b, .fetched, input, [], 0⟩, mem := spWrite 0 [] 0 (input.take 16384) }))) ∧
    (∀ (h : Hh) (b : List Byte), s.sb.cur = none → houseWaits s = false → quiescing s 0x50 = false → tlbFresh s h → s.sb.house = none → s.sb.pf = none → s.pw.role ≠ .deposed →
      let waits (g : Hh) : Bool := (hhAt s g).sb.pending && !(hhAt s g).sb.late
      let turn (g : Hh) : Nat := (g.val + 15 + (16 - s.sb.lastHh % 16)) % 16
      waits h = true → (∀ g, waits g = true → turn h ≤ turn g) → hRead s h true .read (hhAt s h).sb.block 64 = .ok b →
      blkCheck s (.hh h) b = none → blkOp b ≠ 7 →
      let same : Bool := s.sb.owner == h.val
      let taken (z : SbSt) : SbSt := { z with
        owner := h.val, op := blkOp b, elapsed := 0, mem := if same then z.mem else [], evWiped := z.evWiped || !same, lastHh := h.val }
      (∀ input, hRead s h true .read (blkIn b) (blkInLen b) = .ok input → ∃ t, exec .strongboxDispatch s = .next t ∧
        offTlb t = offTlb (put fun z => { taken z with
          cur := some ⟨.hh h, b, .fetched, input, [], 0⟩, mem := spWrite 0 [] 0 (input.take 16384) })) ∧
      (∀ st va, hRead s h true .read (blkIn b) (min 64 (blkInLen b)) = .error (.fault st va) → (hhAt s h).cmd.cqEnable = false →
        ∃ t, exec .strongboxDispatch s = .next t ∧ offTlb t = offTlb (raise { upTr s h (fun t => { t with
            faultStatus := st, faultAgent := 7, faultVa := va % 2 ^ 48 }) with
          sb := { taken s.sb with cur := some ⟨.hh h, b, .inFault, [], [], 0⟩, mem := [] } } (256 + 48 * h.val)))) ∧
    (∀ x, s.sb.cur = some x → x.stage = .computed →
      (∀ h, x.owner ≠ .hh h →
        exec (.strongboxComplete none) s = .next (raise { (if x.result = [] then s else cWrite s (blkOut x.block) x.result) with
          fresh := s.fresh + 1, sb := { s.sb with cur := none, status := x.status, evDone := true } } 2) ∧
        ∀ n < x.result.length, s.cellar.retired = none → spWf 0 s.cellar.mem = true → ∃ t, exec (.strongboxComplete (some n)) s = .next t ∧
          t.sb = { s.sb with cur := none, status := 0x53, evDone := true } ∧ dbPending t 2 = true ∧
          (∀ j < n, cGet t (blkOut x.block + j) = 0) ∧
          ∀ a, (a < blkOut x.block ∨ blkOut x.block + x.result.length ≤ a) → cGet t a = cGet s a) ∧
      (∀ h, x.owner = .hh h → x.status = stOk → blkReport x.block = false → blkNotify x.block = false →
        PlainDest s h (vaRange (blkOut x.block) x.result.length) → ∃ t, exec (.strongboxComplete none) s = .next t ∧
          t = { upSb s h (fun q => { q with pending := false, status := stOk }) with
            fresh := s.fresh + 1, sb := { s.sb with cur := none, status := stOk }
            cellar := { s.cellar with mem := t.cellar.mem, poison := t.cellar.poison } } ∧
          (∀ j < x.result.length, cGet t (cpaOf s h ((blkOut x.block + j) % 2 ^ 64)) = x.result.getD j 0) ∧
          ∀ b, b ∉ (vaRange (blkOut x.block) x.result.length).map (cpaOf s h) → cGet t b = cGet s b)) ∧
    (∀ x, s.sb.cur = some x → x.stage ≠ .computed → ∀ f, exec (.strongboxComplete f) s = .next s)

/-- For the operation whose input is fetched: each row computes its result by the curve, modular or hash arithmetic
over the big-endian fields, or the status of the first failing range check with zeros for its output, takes the fixed
run time, and changes nothing else; LOADCURVE makes exactly its slot valid when every check passes; ATTEST signs the
report's digest. Other rows leave the state. (R432, R433, R434, R435.) Model choices: log 26. -/
def Obligations.StrongboxOperations : Prop :=
  ∀ (s : State),
    let other (op : Nat) : Prop := ∀ x, s.sb.cur = some x → x.stage = .fetched → blkOp x.block ≠ op
    (other 1 → exec .smul s = .next s) ∧ (other 2 → exec .ecdh s = .next s) ∧ (other 3 → exec .sign s = .next s) ∧
    (other 4 → exec .verify s = .next s) ∧ (other 5 → exec .modexp s = .next s) ∧ (other 6 → exec .sha384 s = .next s) ∧
    (other 7 → exec .loadcurve s = .next s) ∧ (other 8 → exec .attest s = .next s) ∧
    ∀ x, s.sb.cur = some x → x.stage = .fetched →
      let b := x.block
      let m (w : Nat) : Nat := 4 * ((w + 63) / 64) * ((w + 63) / 64) + 64
      let iv (w : Nat) : Nat := 2 * w * m w
      let num (i n : Nat) : Nat := beNat (slice x.input i n)
      let after (time : Nat) (res : List Byte) (st : Nat) : State := { s with sb := { s.sb with
        cur := some { x with result := res, status := st, stage := .computed }, elapsed := time % 2 ^ 32 } }
      let outcome (time : Nat) (bad : Option Nat) (res : List Byte) : State := match bad with
        | some st => after time (List.replicate (blkOutLen b) 0) st
        | none => after time res 0
      (∀ c, slotCurve s (blkCurve b) = some c →
        let lp := c.lp
        let ln := c.ln
        let d := num 0 ln
        let mul (k : Nat) : Pt := ptMul c k (some (num ln lp, num (ln + lp) lp))
        let point (x0 y0 : Nat) (first : Bool) (q : Pt) : Option Nat := if first ∨ c.p ≤ x0 ∨ c.p ≤ y0 then some 0x84
          else if onCurve c x0 y0 = false then some 0x81 else if q = none then some 0x84 else none
        let out (n : Nat) : Nat := d * n
        let scalar (v : Nat) : Bool := v == 0 || decide (c.n ≤ v)
        (blkOp b = 1 → exec .smul s = .next (outcome (8 * c.nb * m c.w + iv c.w) (point (num ln lp) (num (ln + lp) lp) (scalar d) (mul d))
          (match mul d with
            | some (u, v) => beBytes lp u ++ beBytes lp v
            | none => []))) ∧
        (blkOp b = 2 → exec .ecdh s = .next (outcome (8 * c.nb * m c.w + iv c.w + 4 * m c.w) (point (num ln lp) (num (ln + lp) lp) (scalar d) (mul (out c.h)))
          (match mul (out c.h) with
            | some (u, _) => beBytes lp u
            | none => []))) ∧
        (let e := num 0 ln
          let key := num ln ln
          let k := num (2 * ln) ln
          let sig := ecdsaSign c e key k
          (blkOp b = 3 → exec .sign s = .next (outcome (8 * c.nb * m c.w + iv c.w + iv c.nb + 4 * m c.nb) (if scalar key || scalar k || sig.isNone then some 0x84 else none)
            (match sig with
              | some (r, v) => beBytes ln r ++ beBytes ln v
              | none => [])))) ∧
        (let qx := num ln lp
          let qy := num (ln + lp) lp
          let r := num (ln + 2 * lp) ln
          let v := num (2 * ln + 2 * lp) ln
          (blkOp b = 4 → exec .verify s = .next (outcome (16 * c.nb * m c.w + iv c.nb + iv c.w + 8 * m c.w) (point qx qy (scalar r || scalar v) (some (0, 0)))
            (beBytes 8 (if ecdsaVerify c (num 0 ln) (qx, qy) r v then 1 else 0)))))) ∧
      (let w := blkBits b
        let md := num 0 (w / 8)
        w ≤ 4096 → (blkOp b = 5 → exec .modexp s = .next (outcome (2 * w * m w + 2 * m w) (if md % 2 = 0 ∨ md < 3 ∨ md ≤ num (w / 8) (w / 8) then some 0x84 else none)
          (beBytes (w / 8) (num (w / 8) (w / 8) ^ num (2 * (w / 8)) (w / 8) % md))))) ∧
      (blkOp b = 6 → exec .sha384 s = .next (outcome (256 * ((blkInLen b + 17 + 127) / 128) + 320) none (sha384 x.input))) ∧
      (blkOp b = 7 → ∀ j : Fin 5, blkCurve b = 3 + j.val →
        let c := curveOf x.input
        let time := (12 * num 0 2 + 8 * num 2 2) * m (num 0 2)
        let good : Prop := 160 ≤ c.w ∧ c.w ≤ 521 ∧ c.p.testBit (c.w - 1) = true ∧ c.nb ≤ c.w + 1 ∧ 1 ≤ c.h ∧ c.h ≤ 8 ∧
          c.a < c.p ∧ c.b < c.p ∧ c.gx < c.p ∧ c.gy < c.p ∧ bailliePsw c.p = true ∧
          (4 * c.a ^ 3 + 27 * c.b ^ 2) % c.p ≠ 0 ∧ onCurve c c.gx c.gy = true ∧ bailliePsw c.n = true ∧
          ptMul c c.n (some (c.gx, c.gy)) = none ∧ ((c.h * c.n : Nat) - (c.p + 1 : Int)) ^ 2 ≤ 4 * (c.p : Int)
        let t := after time [] 0
        (good → exec .loadcurve s = .next { t with sb := { t.sb with curves := t.sb.curves.set j.val (some c) j.isLt } }) ∧
        (¬ good → exec .loadcurve s = .next (after time (List.replicate (blkOutLen b) 0) 0x82))) ∧
      (let lease := match x.owner with
          | .hh h => match (hhAt s h).lease with
            | some l => (beBytes 48 l.digest).take 8
            | none => leBytes 8 0
          | _ => leBytes 8 0
        let pub := match ptMul p384 s.attic.attestKey p384.base with
          | some (u, v) => beBytes 48 u ++ beBytes 48 v
          | none => List.replicate 96 0
        let rep := slice x.input 0 48 ++ leBytes 4 (devId s) ++ leBytes 8 s.attic.serial ++ leBytes 8 (deedDigest s) ++ lease ++
          leBytes 4 s.boot.fwSeq ++ List.replicate 16 0 ++ pub
        let dg := sha384 (rep.take 96)
        let sig := ecdsaSign p384 (beNat dg) s.attic.attestKey (nonce6979 s.attic.attestKey dg)
        (blkOp b = 8 → exec .attest s = .next (outcome (8 * 384 * m 384 + iv 384 + iv 384 + 4 * m 384 + 2048) (if sig.isNone then some 0x84 else none)
          (match sig with
            | some (r, v) => rep ++ beBytes 48 r ++ beBytes 48 v
            | none => []))))
end

