-- ==== Sys2Proof/Laws/Parts.lean ====
section
/-! SUPPORT. The parts of the state read back after a named update: the updated part changes by the given function, every
other part stays. -/

namespace Sys2Proof.Machine

section Vec
variable {α : Type} {n : Nat}

theorem get_val (v : Vector α n) (i : Fin n) : v.get i = v[i.val] := rfl

@[simp] theorem set_get (v : Vector α n) (i j : Fin n) (x : α) :
    (v.set i.val x i.isLt).get j = if i = j then x else v.get j := by
  rw [get_val, get_val, Vector.getElem_set]
  by_cases h : i = j
  · simp [h]
  · have h' : i.val ≠ j.val := fun e => h (Fin.ext e)
    simp [h, h']

@[simp] theorem vmod_get (v : Vector α n) (i j : Fin n) (f : α → α) :
    (vmod v i f).get j = if i = j then f (v.get j) else v.get j := by
  rw [vmod, set_get]; split
  · subst i; rfl
  · rfl

theorem vmod_vmod (v : Vector α n) (i : Fin n) (f g : α → α) : vmod (vmod v i f) i g = vmod v i (g ∘ f) := by
  simp [vmod, get_val]

end Vec

/- A raise changes the doorbell controller alone. -/

theorem raise_eq (s : State) (x : Nat) : ∃ d, raise s x = { s with db := d } := by
  unfold raise; split <;> exact ⟨_, rfl⟩

/-- What a raise is, read through one field. -/
theorem raise_keeps {β : Type} (p : State → β) (h : ∀ s d, p { s with db := d } = p s) (s : State) (x : Nat) : p (raise s x) = p s := by
  obtain ⟨d, e⟩ := raise_eq s x; rw [e, h]

@[simp] theorem raise_pending : ∀ s x, (raise s x).pending = s.pending := raise_keeps (·.pending) fun _ _ => rfl
@[simp] theorem raise_fresh : ∀ s x, (raise s x).fresh = s.fresh := raise_keeps (·.fresh) fun _ _ => rfl
@[simp] theorem raise_bus : ∀ s x, (raise s x).bus = s.bus := raise_keeps (·.bus) fun _ _ => rfl
@[simp] theorem raise_sites : ∀ s x, (raise s x).sites = s.sites := raise_keeps (·.sites) fun _ _ => rfl
@[simp] theorem raise_map : ∀ s x, (raise s x).map = s.map := raise_keeps (·.map) fun _ _ => rfl
@[simp] theorem raise_lastSite : ∀ s x, (raise s x).lastSite = s.lastSite := raise_keeps (·.lastSite) fun _ _ => rfl
@[simp] theorem raise_regions : ∀ s x, (raise s x).regions = s.regions := raise_keeps (·.regions) fun _ _ => rfl
@[simp] theorem raise_hhs : ∀ s x, (raise s x).hhs = s.hhs := raise_keeps (·.hhs) fun _ _ => rfl
@[simp] theorem raise_pools : ∀ s x, (raise s x).pools = s.pools := raise_keeps (·.pools) fun _ _ => rfl
@[simp] theorem raise_cellar : ∀ s x, (raise s x).cellar = s.cellar := raise_keeps (·.cellar) fun _ _ => rfl
@[simp] theorem raise_attic : ∀ s x, (raise s x).attic = s.attic := raise_keeps (·.attic) fun _ _ => rfl
@[simp] theorem raise_deedFloor : ∀ s x, (raise s x).deedFloor = s.deedFloor := raise_keeps (·.deedFloor) fun _ _ => rfl
@[simp] theorem raise_deed : ∀ s x, (raise s x).deed = s.deed := raise_keeps (·.deed) fun _ _ => rfl
@[simp] theorem raise_loader : ∀ s x, (raise s x).loader = s.loader := raise_keeps (·.loader) fun _ _ => rfl
@[simp] theorem raise_selBase : ∀ s x, (raise s x).selBase = s.selBase := raise_keeps (·.selBase) fun _ _ => rfl
@[simp] theorem raise_discFunc : ∀ s x, (raise s x).discFunc = s.discFunc := raise_keeps (·.discFunc) fun _ _ => rfl
@[simp] theorem raise_discCount : ∀ s x, (raise s x).discCount = s.discCount := raise_keeps (·.discCount) fun _ _ => rfl
@[simp] theorem raise_houseLost : ∀ s x, (raise s x).houseLost = s.houseLost := raise_keeps (·.houseLost) fun _ _ => rfl
@[simp] theorem raise_us : ∀ s x, (raise s x).us = s.us := raise_keeps (·.us) fun _ _ => rfl
@[simp] theorem raise_fo : ∀ s x, (raise s x).fo = s.fo := raise_keeps (·.fo) fun _ _ => rfl
@[simp] theorem raise_pw : ∀ s x, (raise s x).pw = s.pw := raise_keeps (·.pw) fun _ _ => rfl
@[simp] theorem raise_terr : ∀ s x, (raise s x).terr = s.terr := raise_keeps (·.terr) fun _ _ => rfl
@[simp] theorem raise_porch : ∀ s x, (raise s x).porch = s.porch := raise_keeps (·.porch) fun _ _ => rfl
@[simp] theorem raise_rst : ∀ s x, (raise s x).rst = s.rst := raise_keeps (·.rst) fun _ _ => rfl
@[simp] theorem raise_boot : ∀ s x, (raise s x).boot = s.boot := raise_keeps (·.boot) fun _ _ => rfl
@[simp] theorem raise_hearth : ∀ s x, (raise s x).hearth = s.hearth := raise_keeps (·.hearth) fun _ _ => rfl
@[simp] theorem raise_sb : ∀ s x, (raise s x).sb = s.sb := raise_keeps (·.sb) fun _ _ => rfl
@[simp] theorem raise_sent : ∀ s x, (raise s x).sent = s.sent := raise_keeps (·.sent) fun _ _ => rfl
@[simp] theorem errBell_pending : ∀ s i, (errBell s i).pending = s.pending := fun _ _ => raise_pending ..
@[simp] theorem errBell_fresh : ∀ s i, (errBell s i).fresh = s.fresh := fun _ _ => raise_fresh ..
@[simp] theorem errBell_bus : ∀ s i, (errBell s i).bus = s.bus := fun _ _ => raise_bus ..
@[simp] theorem errBell_sites : ∀ s i, (errBell s i).sites = s.sites := fun _ _ => raise_sites ..
@[simp] theorem errBell_map : ∀ s i, (errBell s i).map = s.map := fun _ _ => raise_map ..
@[simp] theorem errBell_lastSite : ∀ s i, (errBell s i).lastSite = s.lastSite := fun _ _ => raise_lastSite ..
@[simp] theorem errBell_regions : ∀ s i, (errBell s i).regions = s.regions := fun _ _ => raise_regions ..
@[simp] theorem errBell_hhs : ∀ s i, (errBell s i).hhs = s.hhs := fun _ _ => raise_hhs ..
@[simp] theorem errBell_pools : ∀ s i, (errBell s i).pools = s.pools := fun _ _ => raise_pools ..
@[simp] theorem errBell_cellar : ∀ s i, (errBell s i).cellar = s.cellar := fun _ _ => raise_cellar ..
@[simp] theorem errBell_attic : ∀ s i, (errBell s i).attic = s.attic := fun _ _ => raise_attic ..
@[simp] theorem errBell_deedFloor : ∀ s i, (errBell s i).deedFloor = s.deedFloor := fun _ _ => raise_deedFloor ..
@[simp] theorem errBell_deed : ∀ s i, (errBell s i).deed = s.deed := fun _ _ => raise_deed ..
@[simp] theorem errBell_loader : ∀ s i, (errBell s i).loader = s.loader := fun _ _ => raise_loader ..
@[simp] theorem errBell_selBase : ∀ s i, (errBell s i).selBase = s.selBase := fun _ _ => raise_selBase ..
@[simp] theorem errBell_discFunc : ∀ s i, (errBell s i).discFunc = s.discFunc := fun _ _ => raise_discFunc ..
@[simp] theorem errBell_discCount : ∀ s i, (errBell s i).discCount = s.discCount := fun _ _ => raise_discCount ..
@[simp] theorem errBell_houseLost : ∀ s i, (errBell s i).houseLost = s.houseLost := fun _ _ => raise_houseLost ..
@[simp] theorem errBell_us : ∀ s i, (errBell s i).us = s.us := fun _ _ => raise_us ..
@[simp] theorem errBell_fo : ∀ s i, (errBell s i).fo = s.fo := fun _ _ => raise_fo ..
@[simp] theorem errBell_pw : ∀ s i, (errBell s i).pw = s.pw := fun _ _ => raise_pw ..
@[simp] theorem errBell_terr : ∀ s i, (errBell s i).terr = s.terr := fun _ _ => raise_terr ..
@[simp] theorem errBell_porch : ∀ s i, (errBell s i).porch = s.porch := fun _ _ => raise_porch ..
@[simp] theorem errBell_rst : ∀ s i, (errBell s i).rst = s.rst := fun _ _ => raise_rst ..
@[simp] theorem errBell_boot : ∀ s i, (errBell s i).boot = s.boot := fun _ _ => raise_boot ..
@[simp] theorem errBell_hearth : ∀ s i, (errBell s i).hearth = s.hearth := fun _ _ => raise_hearth ..
@[simp] theorem errBell_sb : ∀ s i, (errBell s i).sb = s.sb := fun _ _ => raise_sb ..
@[simp] theorem errBell_sent : ∀ s i, (errBell s i).sent = s.sent := fun _ _ => raise_sent ..
@[simp] theorem siteBell_pending : ∀ s i, (siteBell s i).pending = s.pending := fun _ _ => raise_pending ..
@[simp] theorem siteBell_fresh : ∀ s i, (siteBell s i).fresh = s.fresh := fun _ _ => raise_fresh ..
@[simp] theorem siteBell_bus : ∀ s i, (siteBell s i).bus = s.bus := fun _ _ => raise_bus ..
@[simp] theorem siteBell_sites : ∀ s i, (siteBell s i).sites = s.sites := fun _ _ => raise_sites ..
@[simp] theorem siteBell_map : ∀ s i, (siteBell s i).map = s.map := fun _ _ => raise_map ..
@[simp] theorem siteBell_lastSite : ∀ s i, (siteBell s i).lastSite = s.lastSite := fun _ _ => raise_lastSite ..
@[simp] theorem siteBell_regions : ∀ s i, (siteBell s i).regions = s.regions := fun _ _ => raise_regions ..
@[simp] theorem siteBell_hhs : ∀ s i, (siteBell s i).hhs = s.hhs := fun _ _ => raise_hhs ..
@[simp] theorem siteBell_pools : ∀ s i, (siteBell s i).pools = s.pools := fun _ _ => raise_pools ..
@[simp] theorem siteBell_cellar : ∀ s i, (siteBell s i).cellar = s.cellar := fun _ _ => raise_cellar ..
@[simp] theorem siteBell_attic : ∀ s i, (siteBell s i).attic = s.attic := fun _ _ => raise_attic ..
@[simp] theorem siteBell_deedFloor : ∀ s i, (siteBell s i).deedFloor = s.deedFloor := fun _ _ => raise_deedFloor ..
@[simp] theorem siteBell_deed : ∀ s i, (siteBell s i).deed = s.deed := fun _ _ => raise_deed ..
@[simp] theorem siteBell_loader : ∀ s i, (siteBell s i).loader = s.loader := fun _ _ => raise_loader ..
@[simp] theorem siteBell_selBase : ∀ s i, (siteBell s i).selBase = s.selBase := fun _ _ => raise_selBase ..
@[simp] theorem siteBell_discFunc : ∀ s i, (siteBell s i).discFunc = s.discFunc := fun _ _ => raise_discFunc ..
@[simp] theorem siteBell_discCount : ∀ s i, (siteBell s i).discCount = s.discCount := fun _ _ => raise_discCount ..
@[simp] theorem siteBell_houseLost : ∀ s i, (siteBell s i).houseLost = s.houseLost := fun _ _ => raise_houseLost ..
@[simp] theorem siteBell_us : ∀ s i, (siteBell s i).us = s.us := fun _ _ => raise_us ..
@[simp] theorem siteBell_fo : ∀ s i, (siteBell s i).fo = s.fo := fun _ _ => raise_fo ..
@[simp] theorem siteBell_pw : ∀ s i, (siteBell s i).pw = s.pw := fun _ _ => raise_pw ..
@[simp] theorem siteBell_terr : ∀ s i, (siteBell s i).terr = s.terr := fun _ _ => raise_terr ..
@[simp] theorem siteBell_porch : ∀ s i, (siteBell s i).porch = s.porch := fun _ _ => raise_porch ..
@[simp] theorem siteBell_rst : ∀ s i, (siteBell s i).rst = s.rst := fun _ _ => raise_rst ..
@[simp] theorem siteBell_boot : ∀ s i, (siteBell s i).boot = s.boot := fun _ _ => raise_boot ..
@[simp] theorem siteBell_hearth : ∀ s i, (siteBell s i).hearth = s.hearth := fun _ _ => raise_hearth ..
@[simp] theorem siteBell_sb : ∀ s i, (siteBell s i).sb = s.sb := fun _ _ => raise_sb ..
@[simp] theorem siteBell_sent : ∀ s i, (siteBell s i).sent = s.sent := fun _ _ => raise_sent ..
@[simp] theorem regBell_pending : ∀ s i, (regBell s i).pending = s.pending := fun _ _ => raise_pending ..
@[simp] theorem regBell_fresh : ∀ s i, (regBell s i).fresh = s.fresh := fun _ _ => raise_fresh ..
@[simp] theorem regBell_bus : ∀ s i, (regBell s i).bus = s.bus := fun _ _ => raise_bus ..
@[simp] theorem regBell_sites : ∀ s i, (regBell s i).sites = s.sites := fun _ _ => raise_sites ..
@[simp] theorem regBell_map : ∀ s i, (regBell s i).map = s.map := fun _ _ => raise_map ..
@[simp] theorem regBell_lastSite : ∀ s i, (regBell s i).lastSite = s.lastSite := fun _ _ => raise_lastSite ..
@[simp] theorem regBell_regions : ∀ s i, (regBell s i).regions = s.regions := fun _ _ => raise_regions ..
@[simp] theorem regBell_hhs : ∀ s i, (regBell s i).hhs = s.hhs := fun _ _ => raise_hhs ..
@[simp] theorem regBell_pools : ∀ s i, (regBell s i).pools = s.pools := fun _ _ => raise_pools ..
@[simp] theorem regBell_cellar : ∀ s i, (regBell s i).cellar = s.cellar := fun _ _ => raise_cellar ..
@[simp] theorem regBell_attic : ∀ s i, (regBell s i).attic = s.attic := fun _ _ => raise_attic ..
@[simp] theorem regBell_deedFloor : ∀ s i, (regBell s i).deedFloor = s.deedFloor := fun _ _ => raise_deedFloor ..
@[simp] theorem regBell_deed : ∀ s i, (regBell s i).deed = s.deed := fun _ _ => raise_deed ..
@[simp] theorem regBell_loader : ∀ s i, (regBell s i).loader = s.loader := fun _ _ => raise_loader ..
@[simp] theorem regBell_selBase : ∀ s i, (regBell s i).selBase = s.selBase := fun _ _ => raise_selBase ..
@[simp] theorem regBell_discFunc : ∀ s i, (regBell s i).discFunc = s.discFunc := fun _ _ => raise_discFunc ..
@[simp] theorem regBell_discCount : ∀ s i, (regBell s i).discCount = s.discCount := fun _ _ => raise_discCount ..
@[simp] theorem regBell_houseLost : ∀ s i, (regBell s i).houseLost = s.houseLost := fun _ _ => raise_houseLost ..
@[simp] theorem regBell_us : ∀ s i, (regBell s i).us = s.us := fun _ _ => raise_us ..
@[simp] theorem regBell_fo : ∀ s i, (regBell s i).fo = s.fo := fun _ _ => raise_fo ..
@[simp] theorem regBell_pw : ∀ s i, (regBell s i).pw = s.pw := fun _ _ => raise_pw ..
@[simp] theorem regBell_terr : ∀ s i, (regBell s i).terr = s.terr := fun _ _ => raise_terr ..
@[simp] theorem regBell_porch : ∀ s i, (regBell s i).porch = s.porch := fun _ _ => raise_porch ..
@[simp] theorem regBell_rst : ∀ s i, (regBell s i).rst = s.rst := fun _ _ => raise_rst ..
@[simp] theorem regBell_boot : ∀ s i, (regBell s i).boot = s.boot := fun _ _ => raise_boot ..
@[simp] theorem regBell_hearth : ∀ s i, (regBell s i).hearth = s.hearth := fun _ _ => raise_hearth ..
@[simp] theorem regBell_sb : ∀ s i, (regBell s i).sb = s.sb := fun _ _ => raise_sb ..
@[simp] theorem regBell_sent : ∀ s i, (regBell s i).sent = s.sent := fun _ _ => raise_sent ..

/- siteAt -/
@[simp] theorem siteAt_upSite (s : State) (i : Fin 34) (f : SiteSt → SiteSt) (j : Fin 34) :
    siteAt (upSite s i f) j = if i = j then f (siteAt s j) else siteAt s j := vmod_get ..
@[simp] theorem siteAt_upReg : ∀ s i f j, siteAt (upReg s i f) j = siteAt s j := fun _ _ _ _ => rfl
@[simp] theorem siteAt_upHh : ∀ s i f j, siteAt (upHh s i f) j = siteAt s j := fun _ _ _ _ => rfl
@[simp] theorem siteAt_upPool : ∀ s i f j, siteAt (upPool s i f) j = siteAt s j := fun _ _ _ _ => rfl
@[simp] theorem siteAt_upCore : ∀ s i f j, siteAt (upCore s i f) j = siteAt s j := fun _ _ _ _ => rfl
@[simp] theorem siteAt_upSet (s : State) (i : Fin 34) (h : Hh) (f : HSet → HSet) (j : Fin 34) :
    siteAt (upSet s i h f) j = if i = j then { siteAt s j with sets := vmod (siteAt s j).sets h f } else siteAt s j := vmod_get ..
@[simp] theorem siteAt_upCmd : ∀ s i f j, siteAt (upCmd s i f) j = siteAt s j := fun _ _ _ _ => rfl
@[simp] theorem siteAt_upTr : ∀ s i f j, siteAt (upTr s i f) j = siteAt s j := fun _ _ _ _ => rfl
@[simp] theorem siteAt_upTx : ∀ s i f j, siteAt (upTx s i f) j = siteAt s j := fun _ _ _ _ => rfl
@[simp] theorem siteAt_upTerr : ∀ s i f j, siteAt (upTerr s i f) j = siteAt s j := fun _ _ _ _ => rfl
@[simp] theorem siteAt_upSb : ∀ s i f j, siteAt (upSb s i f) j = siteAt s j := fun _ _ _ _ => rfl
@[simp] theorem siteAt_upStack : ∀ s i f j, siteAt (upStack s i f) j = siteAt s j := fun _ _ _ _ => rfl
@[simp] theorem siteAt_upChan : ∀ s i c f j, siteAt (upChan s i c f) j = siteAt s j := fun _ _ _ _ _ => rfl
@[simp] theorem siteAt_tickFresh : ∀ s j, siteAt (tickFresh s) j = siteAt s j := fun _ _ => rfl
@[simp] theorem siteAt_raise (s : State) (x : Nat) (j : Fin 34) : siteAt (raise s x) j = siteAt s j := by
  simp [siteAt]
@[simp] theorem siteAt_cPut : ∀ s a b j, siteAt (cPut s a b) j = siteAt s j := fun _ _ _ _ => rfl
@[simp] theorem siteAt_errBell (s : State) (i : Hh) (j : Fin 34) : siteAt (errBell s i) j = siteAt s j := by
  simp [siteAt]
@[simp] theorem siteAt_siteBell (s : State) (i : Fin 34) (j : Fin 34) : siteAt (siteBell s i) j = siteAt s j := by
  simp [siteAt]
@[simp] theorem siteAt_regBell (s : State) (i : Rg) (j : Fin 34) : siteAt (regBell s i) j = siteAt s j := by
  simp [siteAt]

/- regAt -/
@[simp] theorem regAt_upSite : ∀ s i f j, regAt (upSite s i f) j = regAt s j := fun _ _ _ _ => rfl
@[simp] theorem regAt_upReg (s : State) (i : Rg) (f : RegionSt → RegionSt) (j : Rg) :
    regAt (upReg s i f) j = if i = j then f (regAt s j) else regAt s j := vmod_get ..
@[simp] theorem regAt_upHh : ∀ s i f j, regAt (upHh s i f) j = regAt s j := fun _ _ _ _ => rfl
@[simp] theorem regAt_upPool : ∀ s i f j, regAt (upPool s i f) j = regAt s j := fun _ _ _ _ => rfl
@[simp] theorem regAt_upCore (s : State) (i : Rg) (f : Core → Core) (j : Rg) :
    regAt (upCore s i f) j = if i = j then { regAt s j with core := f (regAt s j).core } else regAt s j := vmod_get ..
@[simp] theorem regAt_upSet : ∀ s i h f j, regAt (upSet s i h f) j = regAt s j := fun _ _ _ _ _ => rfl
@[simp] theorem regAt_upCmd : ∀ s i f j, regAt (upCmd s i f) j = regAt s j := fun _ _ _ _ => rfl
@[simp] theorem regAt_upTr : ∀ s i f j, regAt (upTr s i f) j = regAt s j := fun _ _ _ _ => rfl
@[simp] theorem regAt_upTx : ∀ s i f j, regAt (upTx s i f) j = regAt s j := fun _ _ _ _ => rfl
@[simp] theorem regAt_upTerr : ∀ s i f j, regAt (upTerr s i f) j = regAt s j := fun _ _ _ _ => rfl
@[simp] theorem regAt_upSb : ∀ s i f j, regAt (upSb s i f) j = regAt s j := fun _ _ _ _ => rfl
@[simp] theorem regAt_upStack : ∀ s i f j, regAt (upStack s i f) j = regAt s j := fun _ _ _ _ => rfl
@[simp] theorem regAt_upChan : ∀ s i c f j, regAt (upChan s i c f) j = regAt s j := fun _ _ _ _ _ => rfl
@[simp] theorem regAt_tickFresh : ∀ s j, regAt (tickFresh s) j = regAt s j := fun _ _ => rfl
@[simp] theorem regAt_raise (s : State) (x : Nat) (j : Rg) : regAt (raise s x) j = regAt s j := by
  simp [regAt]
@[simp] theorem regAt_cPut : ∀ s a b j, regAt (cPut s a b) j = regAt s j := fun _ _ _ _ => rfl
@[simp] theorem regAt_errBell (s : State) (i : Hh) (j : Rg) : regAt (errBell s i) j = regAt s j := by
  simp [regAt]
@[simp] theorem regAt_siteBell (s : State) (i : Fin 34) (j : Rg) : regAt (siteBell s i) j = regAt s j := by
  simp [regAt]
@[simp] theorem regAt_regBell (s : State) (i : Rg) (j : Rg) : regAt (regBell s i) j = regAt s j := by
  simp [regAt]

/- hhAt -/
@[simp] theorem hhAt_upSite : ∀ s i f j, hhAt (upSite s i f) j = hhAt s j := fun _ _ _ _ => rfl
@[simp] theorem hhAt_upReg : ∀ s i f j, hhAt (upReg s i f) j = hhAt s j := fun _ _ _ _ => rfl
@[simp] theorem hhAt_upHh (s : State) (i : Hh) (f : HhSt → HhSt) (j : Hh) :
    hhAt (upHh s i f) j = if i = j then f (hhAt s j) else hhAt s j := vmod_get ..
@[simp] theorem hhAt_upPool : ∀ s i f j, hhAt (upPool s i f) j = hhAt s j := fun _ _ _ _ => rfl
@[simp] theorem hhAt_upCore : ∀ s i f j, hhAt (upCore s i f) j = hhAt s j := fun _ _ _ _ => rfl
@[simp] theorem hhAt_upSet : ∀ s i h f j, hhAt (upSet s i h f) j = hhAt s j := fun _ _ _ _ _ => rfl
@[simp] theorem hhAt_upCmd (s : State) (i : Hh) (f : HhCmd → HhCmd) (j : Hh) :
    hhAt (upCmd s i f) j = if i = j then { hhAt s j with cmd := f (hhAt s j).cmd } else hhAt s j := vmod_get ..
@[simp] theorem hhAt_upTr (s : State) (i : Hh) (f : HhTrans → HhTrans) (j : Hh) :
    hhAt (upTr s i f) j = if i = j then { hhAt s j with tr := f (hhAt s j).tr } else hhAt s j := vmod_get ..
@[simp] theorem hhAt_upTx (s : State) (i : Hh) (f : HhTx → HhTx) (j : Hh) :
    hhAt (upTx s i f) j = if i = j then { hhAt s j with tx := f (hhAt s j).tx } else hhAt s j := vmod_get ..
@[simp] theorem hhAt_upTerr (s : State) (i : Hh) (f : HhTerr → HhTerr) (j : Hh) :
    hhAt (upTerr s i f) j = if i = j then { hhAt s j with terr := f (hhAt s j).terr } else hhAt s j := vmod_get ..
@[simp] theorem hhAt_upSb (s : State) (i : Hh) (f : HhSb → HhSb) (j : Hh) :
    hhAt (upSb s i f) j = if i = j then { hhAt s j with sb := f (hhAt s j).sb } else hhAt s j := vmod_get ..
@[simp] theorem hhAt_upStack : ∀ s i f j, hhAt (upStack s i f) j = hhAt s j := fun _ _ _ _ => rfl
@[simp] theorem hhAt_upChan : ∀ s i c f j, hhAt (upChan s i c f) j = hhAt s j := fun _ _ _ _ _ => rfl
@[simp] theorem hhAt_tickFresh : ∀ s j, hhAt (tickFresh s) j = hhAt s j := fun _ _ => rfl
@[simp] theorem hhAt_raise (s : State) (x : Nat) (j : Hh) : hhAt (raise s x) j = hhAt s j := by
  simp [hhAt]
@[simp] theorem hhAt_cPut : ∀ s a b j, hhAt (cPut s a b) j = hhAt s j := fun _ _ _ _ => rfl
@[simp] theorem hhAt_errBell (s : State) (i : Hh) (j : Hh) : hhAt (errBell s i) j = hhAt s j := by
  simp [hhAt]
@[simp] theorem hhAt_siteBell (s : State) (i : Fin 34) (j : Hh) : hhAt (siteBell s i) j = hhAt s j := by
  simp [hhAt]
@[simp] theorem hhAt_regBell (s : State) (i : Rg) (j : Hh) : hhAt (regBell s i) j = hhAt s j := by
  simp [hhAt]

/- The map of global numbers, pools and the selectors' base are read from fields that these updates keep. -/
@[simp] theorem siteOf_upSite : ∀ s i f k, siteOf (upSite s i f) k = siteOf s k := fun _ _ _ _ => rfl
@[simp] theorem siteOf_upReg : ∀ s i f k, siteOf (upReg s i f) k = siteOf s k := fun _ _ _ _ => rfl
@[simp] theorem siteOf_upHh : ∀ s i f k, siteOf (upHh s i f) k = siteOf s k := fun _ _ _ _ => rfl
@[simp] theorem siteOf_upPool : ∀ s i f k, siteOf (upPool s i f) k = siteOf s k := fun _ _ _ _ => rfl
@[simp] theorem siteOf_upCore : ∀ s i f k, siteOf (upCore s i f) k = siteOf s k := fun _ _ _ _ => rfl
@[simp] theorem siteOf_upSet : ∀ s i h f k, siteOf (upSet s i h f) k = siteOf s k := fun _ _ _ _ _ => rfl
@[simp] theorem siteOf_upCmd : ∀ s i f k, siteOf (upCmd s i f) k = siteOf s k := fun _ _ _ _ => rfl
@[simp] theorem siteOf_upTr : ∀ s i f k, siteOf (upTr s i f) k = siteOf s k := fun _ _ _ _ => rfl
@[simp] theorem siteOf_upTx : ∀ s i f k, siteOf (upTx s i f) k = siteOf s k := fun _ _ _ _ => rfl
@[simp] theorem siteOf_upTerr : ∀ s i f k, siteOf (upTerr s i f) k = siteOf s k := fun _ _ _ _ => rfl
@[simp] theorem siteOf_upSb : ∀ s i f k, siteOf (upSb s i f) k = siteOf s k := fun _ _ _ _ => rfl
@[simp] theorem siteOf_upStack : ∀ s i f k, siteOf (upStack s i f) k = siteOf s k := fun _ _ _ _ => rfl
@[simp] theorem siteOf_upChan : ∀ s i c f k, siteOf (upChan s i c f) k = siteOf s k := fun _ _ _ _ _ => rfl
@[simp] theorem siteOf_tickFresh : ∀ s k, siteOf (tickFresh s) k = siteOf s k := fun _ _ => rfl
@[simp] theorem siteOf_raise (s : State) (x : Nat) (k : Gl) : siteOf (raise s x) k = siteOf s k := by
  simp [siteOf]
@[simp] theorem siteOf_cPut : ∀ s a b k, siteOf (cPut s a b) k = siteOf s k := fun _ _ _ _ => rfl
@[simp] theorem siteOf_errBell (s : State) (i : Hh) (k : Gl) : siteOf (errBell s i) k = siteOf s k := by
  simp [siteOf]
@[simp] theorem siteOf_siteBell (s : State) (i : Fin 34) (k : Gl) : siteOf (siteBell s i) k = siteOf s k := by
  simp [siteOf]
@[simp] theorem siteOf_regBell (s : State) (i : Rg) (k : Gl) : siteOf (regBell s i) k = siteOf s k := by
  simp [siteOf]
@[simp] theorem poolDef_upSite : ∀ s i f k, poolDef (upSite s i f) k = poolDef s k := fun _ _ _ _ => rfl
@[simp] theorem poolDef_upReg : ∀ s i f k, poolDef (upReg s i f) k = poolDef s k := fun _ _ _ _ => rfl
@[simp] theorem poolDef_upHh : ∀ s i f k, poolDef (upHh s i f) k = poolDef s k := fun _ _ _ _ => rfl
@[simp] theorem poolDef_upPool : ∀ s i f k, poolDef (upPool s i f) k = poolDef s k := fun _ _ _ _ => rfl
@[simp] theorem poolDef_upCore : ∀ s i f k, poolDef (upCore s i f) k = poolDef s k := fun _ _ _ _ => rfl
@[simp] theorem poolDef_upSet : ∀ s i h f k, poolDef (upSet s i h f) k = poolDef s k := fun _ _ _ _ _ => rfl
@[simp] theorem poolDef_upCmd : ∀ s i f k, poolDef (upCmd s i f) k = poolDef s k := fun _ _ _ _ => rfl
@[simp] theorem poolDef_upTr : ∀ s i f k, poolDef (upTr s i f) k = poolDef s k := fun _ _ _ _ => rfl
@[simp] theorem poolDef_upTx : ∀ s i f k, poolDef (upTx s i f) k = poolDef s k := fun _ _ _ _ => rfl
@[simp] theorem poolDef_upTerr : ∀ s i f k, poolDef (upTerr s i f) k = poolDef s k := fun _ _ _ _ => rfl
@[simp] theorem poolDef_upSb : ∀ s i f k, poolDef (upSb s i f) k = poolDef s k := fun _ _ _ _ => rfl
@[simp] theorem poolDef_upStack : ∀ s i f k, poolDef (upStack s i f) k = poolDef s k := fun _ _ _ _ => rfl
@[simp] theorem poolDef_upChan : ∀ s i c f k, poolDef (upChan s i c f) k = poolDef s k := fun _ _ _ _ _ => rfl
@[simp] theorem poolDef_tickFresh : ∀ s k, poolDef (tickFresh s) k = poolDef s k := fun _ _ => rfl
@[simp] theorem poolDef_raise (s : State) (x : Nat) (k : Fin 8) : poolDef (raise s x) k = poolDef s k := by
  simp [poolDef]
@[simp] theorem poolDef_cPut : ∀ s a b k, poolDef (cPut s a b) k = poolDef s k := fun _ _ _ _ => rfl
@[simp] theorem poolDef_errBell (s : State) (i : Hh) (k : Fin 8) : poolDef (errBell s i) k = poolDef s k := by
  simp [poolDef]
@[simp] theorem poolDef_siteBell (s : State) (i : Fin 34) (k : Fin 8) : poolDef (siteBell s i) k = poolDef s k := by
  simp [poolDef]
@[simp] theorem poolDef_regBell (s : State) (i : Rg) (k : Fin 8) : poolDef (regBell s i) k = poolDef s k := by
  simp [poolDef]

/-- A core after an update of its own region's core. -/
@[simp] theorem coreAt_upCore (s : State) (r j : Rg) (f : Core → Core) :
    coreAt (upCore s r f) j = if r = j then f (coreAt s j) else coreAt s j := by
  simp only [coreAt, regAt_upCore]; split <;> rfl
@[simp] theorem coreAt_upSite (s : State) (i : Fin 34) (f : SiteSt → SiteSt) (j : Rg) : coreAt (upSite s i f) j = coreAt s j := rfl
@[simp] theorem coreAt_upSet (s : State) (i : Fin 34) (h : Hh) (f : HSet → HSet) (j : Rg) : coreAt (upSet s i h f) j = coreAt s j := rfl
@[simp] theorem coreAt_upHh (s : State) (h : Hh) (f : HhSt → HhSt) (j : Rg) : coreAt (upHh s h f) j = coreAt s j := rfl
@[simp] theorem coreAt_tickFresh (s : State) (j : Rg) : coreAt (tickFresh s) j = coreAt s j := rfl
/-- A household's share of a site after an update of it. -/
@[simp] theorem setAt_upSet (s : State) (i j : Fin 34) (h g : Hh) (f : HSet → HSet) :
    setAt (upSet s i h f) j g = if i = j ∧ h = g then f (setAt s j g) else setAt s j g := by
  simp only [setAt, siteAt_upSet]
  by_cases h1 : i = j
  · by_cases h2 : h = g <;> simp [h1, h2]
  · simp [h1]

end Sys2Proof.Machine
end

