-- ==== Sys2Proof/Laws/State.lean ====
section
/-! SUPPORT. What each named update leaves of every field of State, and what it makes of its own. -/

namespace Sys2Proof.Machine

/- upSite -/
@[simp] theorem upSite_pending : ∀ s i f, (upSite s i f).pending = s.pending := fun _ _ _ => rfl
@[simp] theorem upSite_fresh : ∀ s i f, (upSite s i f).fresh = s.fresh := fun _ _ _ => rfl
@[simp] theorem upSite_bus : ∀ s i f, (upSite s i f).bus = s.bus := fun _ _ _ => rfl
@[simp] theorem upSite_sites : ∀ s i f, (upSite s i f).sites = vmod s.sites i f := fun _ _ _ => rfl
@[simp] theorem upSite_map : ∀ s i f, (upSite s i f).map = s.map := fun _ _ _ => rfl
@[simp] theorem upSite_lastSite : ∀ s i f, (upSite s i f).lastSite = s.lastSite := fun _ _ _ => rfl
@[simp] theorem upSite_regions : ∀ s i f, (upSite s i f).regions = s.regions := fun _ _ _ => rfl
@[simp] theorem upSite_hhs : ∀ s i f, (upSite s i f).hhs = s.hhs := fun _ _ _ => rfl
@[simp] theorem upSite_pools : ∀ s i f, (upSite s i f).pools = s.pools := fun _ _ _ => rfl
@[simp] theorem upSite_db : ∀ s i f, (upSite s i f).db = s.db := fun _ _ _ => rfl
@[simp] theorem upSite_cellar : ∀ s i f, (upSite s i f).cellar = s.cellar := fun _ _ _ => rfl
@[simp] theorem upSite_attic : ∀ s i f, (upSite s i f).attic = s.attic := fun _ _ _ => rfl
@[simp] theorem upSite_deedFloor : ∀ s i f, (upSite s i f).deedFloor = s.deedFloor := fun _ _ _ => rfl
@[simp] theorem upSite_deed : ∀ s i f, (upSite s i f).deed = s.deed := fun _ _ _ => rfl
@[simp] theorem upSite_loader : ∀ s i f, (upSite s i f).loader = s.loader := fun _ _ _ => rfl
@[simp] theorem upSite_selBase : ∀ s i f, (upSite s i f).selBase = s.selBase := fun _ _ _ => rfl
@[simp] theorem upSite_discFunc : ∀ s i f, (upSite s i f).discFunc = s.discFunc := fun _ _ _ => rfl
@[simp] theorem upSite_discCount : ∀ s i f, (upSite s i f).discCount = s.discCount := fun _ _ _ => rfl
@[simp] theorem upSite_houseLost : ∀ s i f, (upSite s i f).houseLost = s.houseLost := fun _ _ _ => rfl
@[simp] theorem upSite_us : ∀ s i f, (upSite s i f).us = s.us := fun _ _ _ => rfl
@[simp] theorem upSite_fo : ∀ s i f, (upSite s i f).fo = s.fo := fun _ _ _ => rfl
@[simp] theorem upSite_pw : ∀ s i f, (upSite s i f).pw = s.pw := fun _ _ _ => rfl
@[simp] theorem upSite_terr : ∀ s i f, (upSite s i f).terr = s.terr := fun _ _ _ => rfl
@[simp] theorem upSite_porch : ∀ s i f, (upSite s i f).porch = s.porch := fun _ _ _ => rfl
@[simp] theorem upSite_rst : ∀ s i f, (upSite s i f).rst = s.rst := fun _ _ _ => rfl
@[simp] theorem upSite_boot : ∀ s i f, (upSite s i f).boot = s.boot := fun _ _ _ => rfl
@[simp] theorem upSite_hearth : ∀ s i f, (upSite s i f).hearth = s.hearth := fun _ _ _ => rfl
@[simp] theorem upSite_sb : ∀ s i f, (upSite s i f).sb = s.sb := fun _ _ _ => rfl
@[simp] theorem upSite_sent : ∀ s i f, (upSite s i f).sent = s.sent := fun _ _ _ => rfl

/- upReg -/
@[simp] theorem upReg_pending : ∀ s i f, (upReg s i f).pending = s.pending := fun _ _ _ => rfl
@[simp] theorem upReg_fresh : ∀ s i f, (upReg s i f).fresh = s.fresh := fun _ _ _ => rfl
@[simp] theorem upReg_bus : ∀ s i f, (upReg s i f).bus = s.bus := fun _ _ _ => rfl
@[simp] theorem upReg_sites : ∀ s i f, (upReg s i f).sites = s.sites := fun _ _ _ => rfl
@[simp] theorem upReg_map : ∀ s i f, (upReg s i f).map = s.map := fun _ _ _ => rfl
@[simp] theorem upReg_lastSite : ∀ s i f, (upReg s i f).lastSite = s.lastSite := fun _ _ _ => rfl
@[simp] theorem upReg_regions : ∀ s i f, (upReg s i f).regions = vmod s.regions i f := fun _ _ _ => rfl
@[simp] theorem upReg_hhs : ∀ s i f, (upReg s i f).hhs = s.hhs := fun _ _ _ => rfl
@[simp] theorem upReg_pools : ∀ s i f, (upReg s i f).pools = s.pools := fun _ _ _ => rfl
@[simp] theorem upReg_db : ∀ s i f, (upReg s i f).db = s.db := fun _ _ _ => rfl
@[simp] theorem upReg_cellar : ∀ s i f, (upReg s i f).cellar = s.cellar := fun _ _ _ => rfl
@[simp] theorem upReg_attic : ∀ s i f, (upReg s i f).attic = s.attic := fun _ _ _ => rfl
@[simp] theorem upReg_deedFloor : ∀ s i f, (upReg s i f).deedFloor = s.deedFloor := fun _ _ _ => rfl
@[simp] theorem upReg_deed : ∀ s i f, (upReg s i f).deed = s.deed := fun _ _ _ => rfl
@[simp] theorem upReg_loader : ∀ s i f, (upReg s i f).loader = s.loader := fun _ _ _ => rfl
@[simp] theorem upReg_selBase : ∀ s i f, (upReg s i f).selBase = s.selBase := fun _ _ _ => rfl
@[simp] theorem upReg_discFunc : ∀ s i f, (upReg s i f).discFunc = s.discFunc := fun _ _ _ => rfl
@[simp] theorem upReg_discCount : ∀ s i f, (upReg s i f).discCount = s.discCount := fun _ _ _ => rfl
@[simp] theorem upReg_houseLost : ∀ s i f, (upReg s i f).houseLost = s.houseLost := fun _ _ _ => rfl
@[simp] theorem upReg_us : ∀ s i f, (upReg s i f).us = s.us := fun _ _ _ => rfl
@[simp] theorem upReg_fo : ∀ s i f, (upReg s i f).fo = s.fo := fun _ _ _ => rfl
@[simp] theorem upReg_pw : ∀ s i f, (upReg s i f).pw = s.pw := fun _ _ _ => rfl
@[simp] theorem upReg_terr : ∀ s i f, (upReg s i f).terr = s.terr := fun _ _ _ => rfl
@[simp] theorem upReg_porch : ∀ s i f, (upReg s i f).porch = s.porch := fun _ _ _ => rfl
@[simp] theorem upReg_rst : ∀ s i f, (upReg s i f).rst = s.rst := fun _ _ _ => rfl
@[simp] theorem upReg_boot : ∀ s i f, (upReg s i f).boot = s.boot := fun _ _ _ => rfl
@[simp] theorem upReg_hearth : ∀ s i f, (upReg s i f).hearth = s.hearth := fun _ _ _ => rfl
@[simp] theorem upReg_sb : ∀ s i f, (upReg s i f).sb = s.sb := fun _ _ _ => rfl
@[simp] theorem upReg_sent : ∀ s i f, (upReg s i f).sent = s.sent := fun _ _ _ => rfl

/- upHh -/
@[simp] theorem upHh_pending : ∀ s i f, (upHh s i f).pending = s.pending := fun _ _ _ => rfl
@[simp] theorem upHh_fresh : ∀ s i f, (upHh s i f).fresh = s.fresh := fun _ _ _ => rfl
@[simp] theorem upHh_bus : ∀ s i f, (upHh s i f).bus = s.bus := fun _ _ _ => rfl
@[simp] theorem upHh_sites : ∀ s i f, (upHh s i f).sites = s.sites := fun _ _ _ => rfl
@[simp] theorem upHh_map : ∀ s i f, (upHh s i f).map = s.map := fun _ _ _ => rfl
@[simp] theorem upHh_lastSite : ∀ s i f, (upHh s i f).lastSite = s.lastSite := fun _ _ _ => rfl
@[simp] theorem upHh_regions : ∀ s i f, (upHh s i f).regions = s.regions := fun _ _ _ => rfl
@[simp] theorem upHh_hhs : ∀ s i f, (upHh s i f).hhs = vmod s.hhs i f := fun _ _ _ => rfl
@[simp] theorem upHh_pools : ∀ s i f, (upHh s i f).pools = s.pools := fun _ _ _ => rfl
@[simp] theorem upHh_db : ∀ s i f, (upHh s i f).db = s.db := fun _ _ _ => rfl
@[simp] theorem upHh_cellar : ∀ s i f, (upHh s i f).cellar = s.cellar := fun _ _ _ => rfl
@[simp] theorem upHh_attic : ∀ s i f, (upHh s i f).attic = s.attic := fun _ _ _ => rfl
@[simp] theorem upHh_deedFloor : ∀ s i f, (upHh s i f).deedFloor = s.deedFloor := fun _ _ _ => rfl
@[simp] theorem upHh_deed : ∀ s i f, (upHh s i f).deed = s.deed := fun _ _ _ => rfl
@[simp] theorem upHh_loader : ∀ s i f, (upHh s i f).loader = s.loader := fun _ _ _ => rfl
@[simp] theorem upHh_selBase : ∀ s i f, (upHh s i f).selBase = s.selBase := fun _ _ _ => rfl
@[simp] theorem upHh_discFunc : ∀ s i f, (upHh s i f).discFunc = s.discFunc := fun _ _ _ => rfl
@[simp] theorem upHh_discCount : ∀ s i f, (upHh s i f).discCount = s.discCount := fun _ _ _ => rfl
@[simp] theorem upHh_houseLost : ∀ s i f, (upHh s i f).houseLost = s.houseLost := fun _ _ _ => rfl
@[simp] theorem upHh_us : ∀ s i f, (upHh s i f).us = s.us := fun _ _ _ => rfl
@[simp] theorem upHh_fo : ∀ s i f, (upHh s i f).fo = s.fo := fun _ _ _ => rfl
@[simp] theorem upHh_pw : ∀ s i f, (upHh s i f).pw = s.pw := fun _ _ _ => rfl
@[simp] theorem upHh_terr : ∀ s i f, (upHh s i f).terr = s.terr := fun _ _ _ => rfl
@[simp] theorem upHh_porch : ∀ s i f, (upHh s i f).porch = s.porch := fun _ _ _ => rfl
@[simp] theorem upHh_rst : ∀ s i f, (upHh s i f).rst = s.rst := fun _ _ _ => rfl
@[simp] theorem upHh_boot : ∀ s i f, (upHh s i f).boot = s.boot := fun _ _ _ => rfl
@[simp] theorem upHh_hearth : ∀ s i f, (upHh s i f).hearth = s.hearth := fun _ _ _ => rfl
@[simp] theorem upHh_sb : ∀ s i f, (upHh s i f).sb = s.sb := fun _ _ _ => rfl
@[simp] theorem upHh_sent : ∀ s i f, (upHh s i f).sent = s.sent := fun _ _ _ => rfl

/- upPool -/
@[simp] theorem upPool_pending : ∀ s i f, (upPool s i f).pending = s.pending := fun _ _ _ => rfl
@[simp] theorem upPool_fresh : ∀ s i f, (upPool s i f).fresh = s.fresh := fun _ _ _ => rfl
@[simp] theorem upPool_bus : ∀ s i f, (upPool s i f).bus = s.bus := fun _ _ _ => rfl
@[simp] theorem upPool_sites : ∀ s i f, (upPool s i f).sites = s.sites := fun _ _ _ => rfl
@[simp] theorem upPool_map : ∀ s i f, (upPool s i f).map = s.map := fun _ _ _ => rfl
@[simp] theorem upPool_lastSite : ∀ s i f, (upPool s i f).lastSite = s.lastSite := fun _ _ _ => rfl
@[simp] theorem upPool_regions : ∀ s i f, (upPool s i f).regions = s.regions := fun _ _ _ => rfl
@[simp] theorem upPool_hhs : ∀ s i f, (upPool s i f).hhs = s.hhs := fun _ _ _ => rfl
@[simp] theorem upPool_pools : ∀ s i f, (upPool s i f).pools = vmod s.pools i f := fun _ _ _ => rfl
@[simp] theorem upPool_db : ∀ s i f, (upPool s i f).db = s.db := fun _ _ _ => rfl
@[simp] theorem upPool_cellar : ∀ s i f, (upPool s i f).cellar = s.cellar := fun _ _ _ => rfl
@[simp] theorem upPool_attic : ∀ s i f, (upPool s i f).attic = s.attic := fun _ _ _ => rfl
@[simp] theorem upPool_deedFloor : ∀ s i f, (upPool s i f).deedFloor = s.deedFloor := fun _ _ _ => rfl
@[simp] theorem upPool_deed : ∀ s i f, (upPool s i f).deed = s.deed := fun _ _ _ => rfl
@[simp] theorem upPool_loader : ∀ s i f, (upPool s i f).loader = s.loader := fun _ _ _ => rfl
@[simp] theorem upPool_selBase : ∀ s i f, (upPool s i f).selBase = s.selBase := fun _ _ _ => rfl
@[simp] theorem upPool_discFunc : ∀ s i f, (upPool s i f).discFunc = s.discFunc := fun _ _ _ => rfl
@[simp] theorem upPool_discCount : ∀ s i f, (upPool s i f).discCount = s.discCount := fun _ _ _ => rfl
@[simp] theorem upPool_houseLost : ∀ s i f, (upPool s i f).houseLost = s.houseLost := fun _ _ _ => rfl
@[simp] theorem upPool_us : ∀ s i f, (upPool s i f).us = s.us := fun _ _ _ => rfl
@[simp] theorem upPool_fo : ∀ s i f, (upPool s i f).fo = s.fo := fun _ _ _ => rfl
@[simp] theorem upPool_pw : ∀ s i f, (upPool s i f).pw = s.pw := fun _ _ _ => rfl
@[simp] theorem upPool_terr : ∀ s i f, (upPool s i f).terr = s.terr := fun _ _ _ => rfl
@[simp] theorem upPool_porch : ∀ s i f, (upPool s i f).porch = s.porch := fun _ _ _ => rfl
@[simp] theorem upPool_rst : ∀ s i f, (upPool s i f).rst = s.rst := fun _ _ _ => rfl
@[simp] theorem upPool_boot : ∀ s i f, (upPool s i f).boot = s.boot := fun _ _ _ => rfl
@[simp] theorem upPool_hearth : ∀ s i f, (upPool s i f).hearth = s.hearth := fun _ _ _ => rfl
@[simp] theorem upPool_sb : ∀ s i f, (upPool s i f).sb = s.sb := fun _ _ _ => rfl
@[simp] theorem upPool_sent : ∀ s i f, (upPool s i f).sent = s.sent := fun _ _ _ => rfl

/- upCore -/
@[simp] theorem upCore_pending : ∀ s i f, (upCore s i f).pending = s.pending := fun _ _ _ => rfl
@[simp] theorem upCore_fresh : ∀ s i f, (upCore s i f).fresh = s.fresh := fun _ _ _ => rfl
@[simp] theorem upCore_bus : ∀ s i f, (upCore s i f).bus = s.bus := fun _ _ _ => rfl
@[simp] theorem upCore_sites : ∀ s i f, (upCore s i f).sites = s.sites := fun _ _ _ => rfl
@[simp] theorem upCore_map : ∀ s i f, (upCore s i f).map = s.map := fun _ _ _ => rfl
@[simp] theorem upCore_lastSite : ∀ s i f, (upCore s i f).lastSite = s.lastSite := fun _ _ _ => rfl
@[simp] theorem upCore_regions : ∀ s i f, (upCore s i f).regions = vmod s.regions i fun g => { g with core := f g.core } := fun _ _ _ => rfl
@[simp] theorem upCore_hhs : ∀ s i f, (upCore s i f).hhs = s.hhs := fun _ _ _ => rfl
@[simp] theorem upCore_pools : ∀ s i f, (upCore s i f).pools = s.pools := fun _ _ _ => rfl
@[simp] theorem upCore_db : ∀ s i f, (upCore s i f).db = s.db := fun _ _ _ => rfl
@[simp] theorem upCore_cellar : ∀ s i f, (upCore s i f).cellar = s.cellar := fun _ _ _ => rfl
@[simp] theorem upCore_attic : ∀ s i f, (upCore s i f).attic = s.attic := fun _ _ _ => rfl
@[simp] theorem upCore_deedFloor : ∀ s i f, (upCore s i f).deedFloor = s.deedFloor := fun _ _ _ => rfl
@[simp] theorem upCore_deed : ∀ s i f, (upCore s i f).deed = s.deed := fun _ _ _ => rfl
@[simp] theorem upCore_loader : ∀ s i f, (upCore s i f).loader = s.loader := fun _ _ _ => rfl
@[simp] theorem upCore_selBase : ∀ s i f, (upCore s i f).selBase = s.selBase := fun _ _ _ => rfl
@[simp] theorem upCore_discFunc : ∀ s i f, (upCore s i f).discFunc = s.discFunc := fun _ _ _ => rfl
@[simp] theorem upCore_discCount : ∀ s i f, (upCore s i f).discCount = s.discCount := fun _ _ _ => rfl
@[simp] theorem upCore_houseLost : ∀ s i f, (upCore s i f).houseLost = s.houseLost := fun _ _ _ => rfl
@[simp] theorem upCore_us : ∀ s i f, (upCore s i f).us = s.us := fun _ _ _ => rfl
@[simp] theorem upCore_fo : ∀ s i f, (upCore s i f).fo = s.fo := fun _ _ _ => rfl
@[simp] theorem upCore_pw : ∀ s i f, (upCore s i f).pw = s.pw := fun _ _ _ => rfl
@[simp] theorem upCore_terr : ∀ s i f, (upCore s i f).terr = s.terr := fun _ _ _ => rfl
@[simp] theorem upCore_porch : ∀ s i f, (upCore s i f).porch = s.porch := fun _ _ _ => rfl
@[simp] theorem upCore_rst : ∀ s i f, (upCore s i f).rst = s.rst := fun _ _ _ => rfl
@[simp] theorem upCore_boot : ∀ s i f, (upCore s i f).boot = s.boot := fun _ _ _ => rfl
@[simp] theorem upCore_hearth : ∀ s i f, (upCore s i f).hearth = s.hearth := fun _ _ _ => rfl
@[simp] theorem upCore_sb : ∀ s i f, (upCore s i f).sb = s.sb := fun _ _ _ => rfl
@[simp] theorem upCore_sent : ∀ s i f, (upCore s i f).sent = s.sent := fun _ _ _ => rfl

/- upSet -/
@[simp] theorem upSet_pending : ∀ s i h f, (upSet s i h f).pending = s.pending := fun _ _ _ _ => rfl
@[simp] theorem upSet_fresh : ∀ s i h f, (upSet s i h f).fresh = s.fresh := fun _ _ _ _ => rfl
@[simp] theorem upSet_bus : ∀ s i h f, (upSet s i h f).bus = s.bus := fun _ _ _ _ => rfl
@[simp] theorem upSet_sites : ∀ s i h f, (upSet s i h f).sites = vmod s.sites i fun c => { c with sets := vmod c.sets h f } := fun _ _ _ _ => rfl
@[simp] theorem upSet_map : ∀ s i h f, (upSet s i h f).map = s.map := fun _ _ _ _ => rfl
@[simp] theorem upSet_lastSite : ∀ s i h f, (upSet s i h f).lastSite = s.lastSite := fun _ _ _ _ => rfl
@[simp] theorem upSet_regions : ∀ s i h f, (upSet s i h f).regions = s.regions := fun _ _ _ _ => rfl
@[simp] theorem upSet_hhs : ∀ s i h f, (upSet s i h f).hhs = s.hhs := fun _ _ _ _ => rfl
@[simp] theorem upSet_pools : ∀ s i h f, (upSet s i h f).pools = s.pools := fun _ _ _ _ => rfl
@[simp] theorem upSet_db : ∀ s i h f, (upSet s i h f).db = s.db := fun _ _ _ _ => rfl
@[simp] theorem upSet_cellar : ∀ s i h f, (upSet s i h f).cellar = s.cellar := fun _ _ _ _ => rfl
@[simp] theorem upSet_attic : ∀ s i h f, (upSet s i h f).attic = s.attic := fun _ _ _ _ => rfl
@[simp] theorem upSet_deedFloor : ∀ s i h f, (upSet s i h f).deedFloor = s.deedFloor := fun _ _ _ _ => rfl
@[simp] theorem upSet_deed : ∀ s i h f, (upSet s i h f).deed = s.deed := fun _ _ _ _ => rfl
@[simp] theorem upSet_loader : ∀ s i h f, (upSet s i h f).loader = s.loader := fun _ _ _ _ => rfl
@[simp] theorem upSet_selBase : ∀ s i h f, (upSet s i h f).selBase = s.selBase := fun _ _ _ _ => rfl
@[simp] theorem upSet_discFunc : ∀ s i h f, (upSet s i h f).discFunc = s.discFunc := fun _ _ _ _ => rfl
@[simp] theorem upSet_discCount : ∀ s i h f, (upSet s i h f).discCount = s.discCount := fun _ _ _ _ => rfl
@[simp] theorem upSet_houseLost : ∀ s i h f, (upSet s i h f).houseLost = s.houseLost := fun _ _ _ _ => rfl
@[simp] theorem upSet_us : ∀ s i h f, (upSet s i h f).us = s.us := fun _ _ _ _ => rfl
@[simp] theorem upSet_fo : ∀ s i h f, (upSet s i h f).fo = s.fo := fun _ _ _ _ => rfl
@[simp] theorem upSet_pw : ∀ s i h f, (upSet s i h f).pw = s.pw := fun _ _ _ _ => rfl
@[simp] theorem upSet_terr : ∀ s i h f, (upSet s i h f).terr = s.terr := fun _ _ _ _ => rfl
@[simp] theorem upSet_porch : ∀ s i h f, (upSet s i h f).porch = s.porch := fun _ _ _ _ => rfl
@[simp] theorem upSet_rst : ∀ s i h f, (upSet s i h f).rst = s.rst := fun _ _ _ _ => rfl
@[simp] theorem upSet_boot : ∀ s i h f, (upSet s i h f).boot = s.boot := fun _ _ _ _ => rfl
@[simp] theorem upSet_hearth : ∀ s i h f, (upSet s i h f).hearth = s.hearth := fun _ _ _ _ => rfl
@[simp] theorem upSet_sb : ∀ s i h f, (upSet s i h f).sb = s.sb := fun _ _ _ _ => rfl
@[simp] theorem upSet_sent : ∀ s i h f, (upSet s i h f).sent = s.sent := fun _ _ _ _ => rfl

/- upCmd -/
@[simp] theorem upCmd_pending : ∀ s i f, (upCmd s i f).pending = s.pending := fun _ _ _ => rfl
@[simp] theorem upCmd_fresh : ∀ s i f, (upCmd s i f).fresh = s.fresh := fun _ _ _ => rfl
@[simp] theorem upCmd_bus : ∀ s i f, (upCmd s i f).bus = s.bus := fun _ _ _ => rfl
@[simp] theorem upCmd_sites : ∀ s i f, (upCmd s i f).sites = s.sites := fun _ _ _ => rfl
@[simp] theorem upCmd_map : ∀ s i f, (upCmd s i f).map = s.map := fun _ _ _ => rfl
@[simp] theorem upCmd_lastSite : ∀ s i f, (upCmd s i f).lastSite = s.lastSite := fun _ _ _ => rfl
@[simp] theorem upCmd_regions : ∀ s i f, (upCmd s i f).regions = s.regions := fun _ _ _ => rfl
@[simp] theorem upCmd_hhs : ∀ s i f, (upCmd s i f).hhs = vmod s.hhs i fun c => { c with cmd := f c.cmd } := fun _ _ _ => rfl
@[simp] theorem upCmd_pools : ∀ s i f, (upCmd s i f).pools = s.pools := fun _ _ _ => rfl
@[simp] theorem upCmd_db : ∀ s i f, (upCmd s i f).db = s.db := fun _ _ _ => rfl
@[simp] theorem upCmd_cellar : ∀ s i f, (upCmd s i f).cellar = s.cellar := fun _ _ _ => rfl
@[simp] theorem upCmd_attic : ∀ s i f, (upCmd s i f).attic = s.attic := fun _ _ _ => rfl
@[simp] theorem upCmd_deedFloor : ∀ s i f, (upCmd s i f).deedFloor = s.deedFloor := fun _ _ _ => rfl
@[simp] theorem upCmd_deed : ∀ s i f, (upCmd s i f).deed = s.deed := fun _ _ _ => rfl
@[simp] theorem upCmd_loader : ∀ s i f, (upCmd s i f).loader = s.loader := fun _ _ _ => rfl
@[simp] theorem upCmd_selBase : ∀ s i f, (upCmd s i f).selBase = s.selBase := fun _ _ _ => rfl
@[simp] theorem upCmd_discFunc : ∀ s i f, (upCmd s i f).discFunc = s.discFunc := fun _ _ _ => rfl
@[simp] theorem upCmd_discCount : ∀ s i f, (upCmd s i f).discCount = s.discCount := fun _ _ _ => rfl
@[simp] theorem upCmd_houseLost : ∀ s i f, (upCmd s i f).houseLost = s.houseLost := fun _ _ _ => rfl
@[simp] theorem upCmd_us : ∀ s i f, (upCmd s i f).us = s.us := fun _ _ _ => rfl
@[simp] theorem upCmd_fo : ∀ s i f, (upCmd s i f).fo = s.fo := fun _ _ _ => rfl
@[simp] theorem upCmd_pw : ∀ s i f, (upCmd s i f).pw = s.pw := fun _ _ _ => rfl
@[simp] theorem upCmd_terr : ∀ s i f, (upCmd s i f).terr = s.terr := fun _ _ _ => rfl
@[simp] theorem upCmd_porch : ∀ s i f, (upCmd s i f).porch = s.porch := fun _ _ _ => rfl
@[simp] theorem upCmd_rst : ∀ s i f, (upCmd s i f).rst = s.rst := fun _ _ _ => rfl
@[simp] theorem upCmd_boot : ∀ s i f, (upCmd s i f).boot = s.boot := fun _ _ _ => rfl
@[simp] theorem upCmd_hearth : ∀ s i f, (upCmd s i f).hearth = s.hearth := fun _ _ _ => rfl
@[simp] theorem upCmd_sb : ∀ s i f, (upCmd s i f).sb = s.sb := fun _ _ _ => rfl
@[simp] theorem upCmd_sent : ∀ s i f, (upCmd s i f).sent = s.sent := fun _ _ _ => rfl

/- upTr -/
@[simp] theorem upTr_pending : ∀ s i f, (upTr s i f).pending = s.pending := fun _ _ _ => rfl
@[simp] theorem upTr_fresh : ∀ s i f, (upTr s i f).fresh = s.fresh := fun _ _ _ => rfl
@[simp] theorem upTr_bus : ∀ s i f, (upTr s i f).bus = s.bus := fun _ _ _ => rfl
@[simp] theorem upTr_sites : ∀ s i f, (upTr s i f).sites = s.sites := fun _ _ _ => rfl
@[simp] theorem upTr_map : ∀ s i f, (upTr s i f).map = s.map := fun _ _ _ => rfl
@[simp] theorem upTr_lastSite : ∀ s i f, (upTr s i f).lastSite = s.lastSite := fun _ _ _ => rfl
@[simp] theorem upTr_regions : ∀ s i f, (upTr s i f).regions = s.regions := fun _ _ _ => rfl
@[simp] theorem upTr_hhs : ∀ s i f, (upTr s i f).hhs = vmod s.hhs i fun c => { c with tr := f c.tr } := fun _ _ _ => rfl
@[simp] theorem upTr_pools : ∀ s i f, (upTr s i f).pools = s.pools := fun _ _ _ => rfl
@[simp] theorem upTr_db : ∀ s i f, (upTr s i f).db = s.db := fun _ _ _ => rfl
@[simp] theorem upTr_cellar : ∀ s i f, (upTr s i f).cellar = s.cellar := fun _ _ _ => rfl
@[simp] theorem upTr_attic : ∀ s i f, (upTr s i f).attic = s.attic := fun _ _ _ => rfl
@[simp] theorem upTr_deedFloor : ∀ s i f, (upTr s i f).deedFloor = s.deedFloor := fun _ _ _ => rfl
@[simp] theorem upTr_deed : ∀ s i f, (upTr s i f).deed = s.deed := fun _ _ _ => rfl
@[simp] theorem upTr_loader : ∀ s i f, (upTr s i f).loader = s.loader := fun _ _ _ => rfl
@[simp] theorem upTr_selBase : ∀ s i f, (upTr s i f).selBase = s.selBase := fun _ _ _ => rfl
@[simp] theorem upTr_discFunc : ∀ s i f, (upTr s i f).discFunc = s.discFunc := fun _ _ _ => rfl
@[simp] theorem upTr_discCount : ∀ s i f, (upTr s i f).discCount = s.discCount := fun _ _ _ => rfl
@[simp] theorem upTr_houseLost : ∀ s i f, (upTr s i f).houseLost = s.houseLost := fun _ _ _ => rfl
@[simp] theorem upTr_us : ∀ s i f, (upTr s i f).us = s.us := fun _ _ _ => rfl
@[simp] theorem upTr_fo : ∀ s i f, (upTr s i f).fo = s.fo := fun _ _ _ => rfl
@[simp] theorem upTr_pw : ∀ s i f, (upTr s i f).pw = s.pw := fun _ _ _ => rfl
@[simp] theorem upTr_terr : ∀ s i f, (upTr s i f).terr = s.terr := fun _ _ _ => rfl
@[simp] theorem upTr_porch : ∀ s i f, (upTr s i f).porch = s.porch := fun _ _ _ => rfl
@[simp] theorem upTr_rst : ∀ s i f, (upTr s i f).rst = s.rst := fun _ _ _ => rfl
@[simp] theorem upTr_boot : ∀ s i f, (upTr s i f).boot = s.boot := fun _ _ _ => rfl
@[simp] theorem upTr_hearth : ∀ s i f, (upTr s i f).hearth = s.hearth := fun _ _ _ => rfl
@[simp] theorem upTr_sb : ∀ s i f, (upTr s i f).sb = s.sb := fun _ _ _ => rfl
@[simp] theorem upTr_sent : ∀ s i f, (upTr s i f).sent = s.sent := fun _ _ _ => rfl

/- upTx -/
@[simp] theorem upTx_pending : ∀ s i f, (upTx s i f).pending = s.pending := fun _ _ _ => rfl
@[simp] theorem upTx_fresh : ∀ s i f, (upTx s i f).fresh = s.fresh := fun _ _ _ => rfl
@[simp] theorem upTx_bus : ∀ s i f, (upTx s i f).bus = s.bus := fun _ _ _ => rfl
@[simp] theorem upTx_sites : ∀ s i f, (upTx s i f).sites = s.sites := fun _ _ _ => rfl
@[simp] theorem upTx_map : ∀ s i f, (upTx s i f).map = s.map := fun _ _ _ => rfl
@[simp] theorem upTx_lastSite : ∀ s i f, (upTx s i f).lastSite = s.lastSite := fun _ _ _ => rfl
@[simp] theorem upTx_regions : ∀ s i f, (upTx s i f).regions = s.regions := fun _ _ _ => rfl
@[simp] theorem upTx_hhs : ∀ s i f, (upTx s i f).hhs = vmod s.hhs i fun c => { c with tx := f c.tx } := fun _ _ _ => rfl
@[simp] theorem upTx_pools : ∀ s i f, (upTx s i f).pools = s.pools := fun _ _ _ => rfl
@[simp] theorem upTx_db : ∀ s i f, (upTx s i f).db = s.db := fun _ _ _ => rfl
@[simp] theorem upTx_cellar : ∀ s i f, (upTx s i f).cellar = s.cellar := fun _ _ _ => rfl
@[simp] theorem upTx_attic : ∀ s i f, (upTx s i f).attic = s.attic := fun _ _ _ => rfl
@[simp] theorem upTx_deedFloor : ∀ s i f, (upTx s i f).deedFloor = s.deedFloor := fun _ _ _ => rfl
@[simp] theorem upTx_deed : ∀ s i f, (upTx s i f).deed = s.deed := fun _ _ _ => rfl
@[simp] theorem upTx_loader : ∀ s i f, (upTx s i f).loader = s.loader := fun _ _ _ => rfl
@[simp] theorem upTx_selBase : ∀ s i f, (upTx s i f).selBase = s.selBase := fun _ _ _ => rfl
@[simp] theorem upTx_discFunc : ∀ s i f, (upTx s i f).discFunc = s.discFunc := fun _ _ _ => rfl
@[simp] theorem upTx_discCount : ∀ s i f, (upTx s i f).discCount = s.discCount := fun _ _ _ => rfl
@[simp] theorem upTx_houseLost : ∀ s i f, (upTx s i f).houseLost = s.houseLost := fun _ _ _ => rfl
@[simp] theorem upTx_us : ∀ s i f, (upTx s i f).us = s.us := fun _ _ _ => rfl
@[simp] theorem upTx_fo : ∀ s i f, (upTx s i f).fo = s.fo := fun _ _ _ => rfl
@[simp] theorem upTx_pw : ∀ s i f, (upTx s i f).pw = s.pw := fun _ _ _ => rfl
@[simp] theorem upTx_terr : ∀ s i f, (upTx s i f).terr = s.terr := fun _ _ _ => rfl
@[simp] theorem upTx_porch : ∀ s i f, (upTx s i f).porch = s.porch := fun _ _ _ => rfl
@[simp] theorem upTx_rst : ∀ s i f, (upTx s i f).rst = s.rst := fun _ _ _ => rfl
@[simp] theorem upTx_boot : ∀ s i f, (upTx s i f).boot = s.boot := fun _ _ _ => rfl
@[simp] theorem upTx_hearth : ∀ s i f, (upTx s i f).hearth = s.hearth := fun _ _ _ => rfl
@[simp] theorem upTx_sb : ∀ s i f, (upTx s i f).sb = s.sb := fun _ _ _ => rfl
@[simp] theorem upTx_sent : ∀ s i f, (upTx s i f).sent = s.sent := fun _ _ _ => rfl

/- upTerr -/
@[simp] theorem upTerr_pending : ∀ s i f, (upTerr s i f).pending = s.pending := fun _ _ _ => rfl
@[simp] theorem upTerr_fresh : ∀ s i f, (upTerr s i f).fresh = s.fresh := fun _ _ _ => rfl
@[simp] theorem upTerr_bus : ∀ s i f, (upTerr s i f).bus = s.bus := fun _ _ _ => rfl
@[simp] theorem upTerr_sites : ∀ s i f, (upTerr s i f).sites = s.sites := fun _ _ _ => rfl
@[simp] theorem upTerr_map : ∀ s i f, (upTerr s i f).map = s.map := fun _ _ _ => rfl
@[simp] theorem upTerr_lastSite : ∀ s i f, (upTerr s i f).lastSite = s.lastSite := fun _ _ _ => rfl
@[simp] theorem upTerr_regions : ∀ s i f, (upTerr s i f).regions = s.regions := fun _ _ _ => rfl
@[simp] theorem upTerr_hhs : ∀ s i f, (upTerr s i f).hhs = vmod s.hhs i fun c => { c with terr := f c.terr } := fun _ _ _ => rfl
@[simp] theorem upTerr_pools : ∀ s i f, (upTerr s i f).pools = s.pools := fun _ _ _ => rfl
@[simp] theorem upTerr_db : ∀ s i f, (upTerr s i f).db = s.db := fun _ _ _ => rfl
@[simp] theorem upTerr_cellar : ∀ s i f, (upTerr s i f).cellar = s.cellar := fun _ _ _ => rfl
@[simp] theorem upTerr_attic : ∀ s i f, (upTerr s i f).attic = s.attic := fun _ _ _ => rfl
@[simp] theorem upTerr_deedFloor : ∀ s i f, (upTerr s i f).deedFloor = s.deedFloor := fun _ _ _ => rfl
@[simp] theorem upTerr_deed : ∀ s i f, (upTerr s i f).deed = s.deed := fun _ _ _ => rfl
@[simp] theorem upTerr_loader : ∀ s i f, (upTerr s i f).loader = s.loader := fun _ _ _ => rfl
@[simp] theorem upTerr_selBase : ∀ s i f, (upTerr s i f).selBase = s.selBase := fun _ _ _ => rfl
@[simp] theorem upTerr_discFunc : ∀ s i f, (upTerr s i f).discFunc = s.discFunc := fun _ _ _ => rfl
@[simp] theorem upTerr_discCount : ∀ s i f, (upTerr s i f).discCount = s.discCount := fun _ _ _ => rfl
@[simp] theorem upTerr_houseLost : ∀ s i f, (upTerr s i f).houseLost = s.houseLost := fun _ _ _ => rfl
@[simp] theorem upTerr_us : ∀ s i f, (upTerr s i f).us = s.us := fun _ _ _ => rfl
@[simp] theorem upTerr_fo : ∀ s i f, (upTerr s i f).fo = s.fo := fun _ _ _ => rfl
@[simp] theorem upTerr_pw : ∀ s i f, (upTerr s i f).pw = s.pw := fun _ _ _ => rfl
@[simp] theorem upTerr_terr : ∀ s i f, (upTerr s i f).terr = s.terr := fun _ _ _ => rfl
@[simp] theorem upTerr_porch : ∀ s i f, (upTerr s i f).porch = s.porch := fun _ _ _ => rfl
@[simp] theorem upTerr_rst : ∀ s i f, (upTerr s i f).rst = s.rst := fun _ _ _ => rfl
@[simp] theorem upTerr_boot : ∀ s i f, (upTerr s i f).boot = s.boot := fun _ _ _ => rfl
@[simp] theorem upTerr_hearth : ∀ s i f, (upTerr s i f).hearth = s.hearth := fun _ _ _ => rfl
@[simp] theorem upTerr_sb : ∀ s i f, (upTerr s i f).sb = s.sb := fun _ _ _ => rfl
@[simp] theorem upTerr_sent : ∀ s i f, (upTerr s i f).sent = s.sent := fun _ _ _ => rfl

/- upSb -/
@[simp] theorem upSb_pending : ∀ s i f, (upSb s i f).pending = s.pending := fun _ _ _ => rfl
@[simp] theorem upSb_fresh : ∀ s i f, (upSb s i f).fresh = s.fresh := fun _ _ _ => rfl
@[simp] theorem upSb_bus : ∀ s i f, (upSb s i f).bus = s.bus := fun _ _ _ => rfl
@[simp] theorem upSb_sites : ∀ s i f, (upSb s i f).sites = s.sites := fun _ _ _ => rfl
@[simp] theorem upSb_map : ∀ s i f, (upSb s i f).map = s.map := fun _ _ _ => rfl
@[simp] theorem upSb_lastSite : ∀ s i f, (upSb s i f).lastSite = s.lastSite := fun _ _ _ => rfl
@[simp] theorem upSb_regions : ∀ s i f, (upSb s i f).regions = s.regions := fun _ _ _ => rfl
@[simp] theorem upSb_hhs : ∀ s i f, (upSb s i f).hhs = vmod s.hhs i fun c => { c with sb := f c.sb } := fun _ _ _ => rfl
@[simp] theorem upSb_pools : ∀ s i f, (upSb s i f).pools = s.pools := fun _ _ _ => rfl
@[simp] theorem upSb_db : ∀ s i f, (upSb s i f).db = s.db := fun _ _ _ => rfl
@[simp] theorem upSb_cellar : ∀ s i f, (upSb s i f).cellar = s.cellar := fun _ _ _ => rfl
@[simp] theorem upSb_attic : ∀ s i f, (upSb s i f).attic = s.attic := fun _ _ _ => rfl
@[simp] theorem upSb_deedFloor : ∀ s i f, (upSb s i f).deedFloor = s.deedFloor := fun _ _ _ => rfl
@[simp] theorem upSb_deed : ∀ s i f, (upSb s i f).deed = s.deed := fun _ _ _ => rfl
@[simp] theorem upSb_loader : ∀ s i f, (upSb s i f).loader = s.loader := fun _ _ _ => rfl
@[simp] theorem upSb_selBase : ∀ s i f, (upSb s i f).selBase = s.selBase := fun _ _ _ => rfl
@[simp] theorem upSb_discFunc : ∀ s i f, (upSb s i f).discFunc = s.discFunc := fun _ _ _ => rfl
@[simp] theorem upSb_discCount : ∀ s i f, (upSb s i f).discCount = s.discCount := fun _ _ _ => rfl
@[simp] theorem upSb_houseLost : ∀ s i f, (upSb s i f).houseLost = s.houseLost := fun _ _ _ => rfl
@[simp] theorem upSb_us : ∀ s i f, (upSb s i f).us = s.us := fun _ _ _ => rfl
@[simp] theorem upSb_fo : ∀ s i f, (upSb s i f).fo = s.fo := fun _ _ _ => rfl
@[simp] theorem upSb_pw : ∀ s i f, (upSb s i f).pw = s.pw := fun _ _ _ => rfl
@[simp] theorem upSb_terr : ∀ s i f, (upSb s i f).terr = s.terr := fun _ _ _ => rfl
@[simp] theorem upSb_porch : ∀ s i f, (upSb s i f).porch = s.porch := fun _ _ _ => rfl
@[simp] theorem upSb_rst : ∀ s i f, (upSb s i f).rst = s.rst := fun _ _ _ => rfl
@[simp] theorem upSb_boot : ∀ s i f, (upSb s i f).boot = s.boot := fun _ _ _ => rfl
@[simp] theorem upSb_hearth : ∀ s i f, (upSb s i f).hearth = s.hearth := fun _ _ _ => rfl
@[simp] theorem upSb_sb : ∀ s i f, (upSb s i f).sb = s.sb := fun _ _ _ => rfl
@[simp] theorem upSb_sent : ∀ s i f, (upSb s i f).sent = s.sent := fun _ _ _ => rfl

/- upStack -/
@[simp] theorem upStack_pending : ∀ s i f, (upStack s i f).pending = s.pending := fun _ _ _ => rfl
@[simp] theorem upStack_fresh : ∀ s i f, (upStack s i f).fresh = s.fresh := fun _ _ _ => rfl
@[simp] theorem upStack_bus : ∀ s i f, (upStack s i f).bus = s.bus := fun _ _ _ => rfl
@[simp] theorem upStack_sites : ∀ s i f, (upStack s i f).sites = s.sites := fun _ _ _ => rfl
@[simp] theorem upStack_map : ∀ s i f, (upStack s i f).map = s.map := fun _ _ _ => rfl
@[simp] theorem upStack_lastSite : ∀ s i f, (upStack s i f).lastSite = s.lastSite := fun _ _ _ => rfl
@[simp] theorem upStack_regions : ∀ s i f, (upStack s i f).regions = s.regions := fun _ _ _ => rfl
@[simp] theorem upStack_hhs : ∀ s i f, (upStack s i f).hhs = s.hhs := fun _ _ _ => rfl
@[simp] theorem upStack_pools : ∀ s i f, (upStack s i f).pools = s.pools := fun _ _ _ => rfl
@[simp] theorem upStack_db : ∀ s i f, (upStack s i f).db = s.db := fun _ _ _ => rfl
@[simp] theorem upStack_cellar : ∀ s i f, (upStack s i f).cellar = { s.cellar with stackSts := vmod s.cellar.stackSts i f } := fun _ _ _ => rfl
@[simp] theorem upStack_attic : ∀ s i f, (upStack s i f).attic = s.attic := fun _ _ _ => rfl
@[simp] theorem upStack_deedFloor : ∀ s i f, (upStack s i f).deedFloor = s.deedFloor := fun _ _ _ => rfl
@[simp] theorem upStack_deed : ∀ s i f, (upStack s i f).deed = s.deed := fun _ _ _ => rfl
@[simp] theorem upStack_loader : ∀ s i f, (upStack s i f).loader = s.loader := fun _ _ _ => rfl
@[simp] theorem upStack_selBase : ∀ s i f, (upStack s i f).selBase = s.selBase := fun _ _ _ => rfl
@[simp] theorem upStack_discFunc : ∀ s i f, (upStack s i f).discFunc = s.discFunc := fun _ _ _ => rfl
@[simp] theorem upStack_discCount : ∀ s i f, (upStack s i f).discCount = s.discCount := fun _ _ _ => rfl
@[simp] theorem upStack_houseLost : ∀ s i f, (upStack s i f).houseLost = s.houseLost := fun _ _ _ => rfl
@[simp] theorem upStack_us : ∀ s i f, (upStack s i f).us = s.us := fun _ _ _ => rfl
@[simp] theorem upStack_fo : ∀ s i f, (upStack s i f).fo = s.fo := fun _ _ _ => rfl
@[simp] theorem upStack_pw : ∀ s i f, (upStack s i f).pw = s.pw := fun _ _ _ => rfl
@[simp] theorem upStack_terr : ∀ s i f, (upStack s i f).terr = s.terr := fun _ _ _ => rfl
@[simp] theorem upStack_porch : ∀ s i f, (upStack s i f).porch = s.porch := fun _ _ _ => rfl
@[simp] theorem upStack_rst : ∀ s i f, (upStack s i f).rst = s.rst := fun _ _ _ => rfl
@[simp] theorem upStack_boot : ∀ s i f, (upStack s i f).boot = s.boot := fun _ _ _ => rfl
@[simp] theorem upStack_hearth : ∀ s i f, (upStack s i f).hearth = s.hearth := fun _ _ _ => rfl
@[simp] theorem upStack_sb : ∀ s i f, (upStack s i f).sb = s.sb := fun _ _ _ => rfl
@[simp] theorem upStack_sent : ∀ s i f, (upStack s i f).sent = s.sent := fun _ _ _ => rfl

/- upChan -/
@[simp] theorem upChan_pending : ∀ s i c f, (upChan s i c f).pending = s.pending := fun _ _ _ _ => rfl
@[simp] theorem upChan_fresh : ∀ s i c f, (upChan s i c f).fresh = s.fresh := fun _ _ _ _ => rfl
@[simp] theorem upChan_bus : ∀ s i c f, (upChan s i c f).bus = s.bus := fun _ _ _ _ => rfl
@[simp] theorem upChan_sites : ∀ s i c f, (upChan s i c f).sites = s.sites := fun _ _ _ _ => rfl
@[simp] theorem upChan_map : ∀ s i c f, (upChan s i c f).map = s.map := fun _ _ _ _ => rfl
@[simp] theorem upChan_lastSite : ∀ s i c f, (upChan s i c f).lastSite = s.lastSite := fun _ _ _ _ => rfl
@[simp] theorem upChan_regions : ∀ s i c f, (upChan s i c f).regions = s.regions := fun _ _ _ _ => rfl
@[simp] theorem upChan_hhs : ∀ s i c f, (upChan s i c f).hhs = s.hhs := fun _ _ _ _ => rfl
@[simp] theorem upChan_pools : ∀ s i c f, (upChan s i c f).pools = s.pools := fun _ _ _ _ => rfl
@[simp] theorem upChan_db : ∀ s i c f, (upChan s i c f).db = s.db := fun _ _ _ _ => rfl
@[simp] theorem upChan_cellar : ∀ s i c f, (upChan s i c f).cellar = { s.cellar with stackSts := vmod s.cellar.stackSts i fun st => { st with chans := vmod st.chans c f } } := fun _ _ _ _ => rfl
@[simp] theorem upChan_attic : ∀ s i c f, (upChan s i c f).attic = s.attic := fun _ _ _ _ => rfl
@[simp] theorem upChan_deedFloor : ∀ s i c f, (upChan s i c f).deedFloor = s.deedFloor := fun _ _ _ _ => rfl
@[simp] theorem upChan_deed : ∀ s i c f, (upChan s i c f).deed = s.deed := fun _ _ _ _ => rfl
@[simp] theorem upChan_loader : ∀ s i c f, (upChan s i c f).loader = s.loader := fun _ _ _ _ => rfl
@[simp] theorem upChan_selBase : ∀ s i c f, (upChan s i c f).selBase = s.selBase := fun _ _ _ _ => rfl
@[simp] theorem upChan_discFunc : ∀ s i c f, (upChan s i c f).discFunc = s.discFunc := fun _ _ _ _ => rfl
@[simp] theorem upChan_discCount : ∀ s i c f, (upChan s i c f).discCount = s.discCount := fun _ _ _ _ => rfl
@[simp] theorem upChan_houseLost : ∀ s i c f, (upChan s i c f).houseLost = s.houseLost := fun _ _ _ _ => rfl
@[simp] theorem upChan_us : ∀ s i c f, (upChan s i c f).us = s.us := fun _ _ _ _ => rfl
@[simp] theorem upChan_fo : ∀ s i c f, (upChan s i c f).fo = s.fo := fun _ _ _ _ => rfl
@[simp] theorem upChan_pw : ∀ s i c f, (upChan s i c f).pw = s.pw := fun _ _ _ _ => rfl
@[simp] theorem upChan_terr : ∀ s i c f, (upChan s i c f).terr = s.terr := fun _ _ _ _ => rfl
@[simp] theorem upChan_porch : ∀ s i c f, (upChan s i c f).porch = s.porch := fun _ _ _ _ => rfl
@[simp] theorem upChan_rst : ∀ s i c f, (upChan s i c f).rst = s.rst := fun _ _ _ _ => rfl
@[simp] theorem upChan_boot : ∀ s i c f, (upChan s i c f).boot = s.boot := fun _ _ _ _ => rfl
@[simp] theorem upChan_hearth : ∀ s i c f, (upChan s i c f).hearth = s.hearth := fun _ _ _ _ => rfl
@[simp] theorem upChan_sb : ∀ s i c f, (upChan s i c f).sb = s.sb := fun _ _ _ _ => rfl
@[simp] theorem upChan_sent : ∀ s i c f, (upChan s i c f).sent = s.sent := fun _ _ _ _ => rfl

/- tickFresh -/
@[simp] theorem tickFresh_pending : ∀ s, (tickFresh s).pending = s.pending := fun _ => rfl
@[simp] theorem tickFresh_fresh : ∀ s, (tickFresh s).fresh = s.fresh + 1 := fun _ => rfl
@[simp] theorem tickFresh_bus : ∀ s, (tickFresh s).bus = s.bus := fun _ => rfl
@[simp] theorem tickFresh_sites : ∀ s, (tickFresh s).sites = s.sites := fun _ => rfl
@[simp] theorem tickFresh_map : ∀ s, (tickFresh s).map = s.map := fun _ => rfl
@[simp] theorem tickFresh_lastSite : ∀ s, (tickFresh s).lastSite = s.lastSite := fun _ => rfl
@[simp] theorem tickFresh_regions : ∀ s, (tickFresh s).regions = s.regions := fun _ => rfl
@[simp] theorem tickFresh_hhs : ∀ s, (tickFresh s).hhs = s.hhs := fun _ => rfl
@[simp] theorem tickFresh_pools : ∀ s, (tickFresh s).pools = s.pools := fun _ => rfl
@[simp] theorem tickFresh_db : ∀ s, (tickFresh s).db = s.db := fun _ => rfl
@[simp] theorem tickFresh_cellar : ∀ s, (tickFresh s).cellar = s.cellar := fun _ => rfl
@[simp] theorem tickFresh_attic : ∀ s, (tickFresh s).attic = s.attic := fun _ => rfl
@[simp] theorem tickFresh_deedFloor : ∀ s, (tickFresh s).deedFloor = s.deedFloor := fun _ => rfl
@[simp] theorem tickFresh_deed : ∀ s, (tickFresh s).deed = s.deed := fun _ => rfl
@[simp] theorem tickFresh_loader : ∀ s, (tickFresh s).loader = s.loader := fun _ => rfl
@[simp] theorem tickFresh_selBase : ∀ s, (tickFresh s).selBase = s.selBase := fun _ => rfl
@[simp] theorem tickFresh_discFunc : ∀ s, (tickFresh s).discFunc = s.discFunc := fun _ => rfl
@[simp] theorem tickFresh_discCount : ∀ s, (tickFresh s).discCount = s.discCount := fun _ => rfl
@[simp] theorem tickFresh_houseLost : ∀ s, (tickFresh s).houseLost = s.houseLost := fun _ => rfl
@[simp] theorem tickFresh_us : ∀ s, (tickFresh s).us = s.us := fun _ => rfl
@[simp] theorem tickFresh_fo : ∀ s, (tickFresh s).fo = s.fo := fun _ => rfl
@[simp] theorem tickFresh_pw : ∀ s, (tickFresh s).pw = s.pw := fun _ => rfl
@[simp] theorem tickFresh_terr : ∀ s, (tickFresh s).terr = s.terr := fun _ => rfl
@[simp] theorem tickFresh_porch : ∀ s, (tickFresh s).porch = s.porch := fun _ => rfl
@[simp] theorem tickFresh_rst : ∀ s, (tickFresh s).rst = s.rst := fun _ => rfl
@[simp] theorem tickFresh_boot : ∀ s, (tickFresh s).boot = s.boot := fun _ => rfl
@[simp] theorem tickFresh_hearth : ∀ s, (tickFresh s).hearth = s.hearth := fun _ => rfl
@[simp] theorem tickFresh_sb : ∀ s, (tickFresh s).sb = s.sb := fun _ => rfl
@[simp] theorem tickFresh_sent : ∀ s, (tickFresh s).sent = s.sent := fun _ => rfl

/- cPut -/
@[simp] theorem cPut_pending : ∀ s a b, (cPut s a b).pending = s.pending := fun _ _ _ => rfl
@[simp] theorem cPut_fresh : ∀ s a b, (cPut s a b).fresh = s.fresh := fun _ _ _ => rfl
@[simp] theorem cPut_bus : ∀ s a b, (cPut s a b).bus = s.bus := fun _ _ _ => rfl
@[simp] theorem cPut_sites : ∀ s a b, (cPut s a b).sites = s.sites := fun _ _ _ => rfl
@[simp] theorem cPut_map : ∀ s a b, (cPut s a b).map = s.map := fun _ _ _ => rfl
@[simp] theorem cPut_lastSite : ∀ s a b, (cPut s a b).lastSite = s.lastSite := fun _ _ _ => rfl
@[simp] theorem cPut_regions : ∀ s a b, (cPut s a b).regions = s.regions := fun _ _ _ => rfl
@[simp] theorem cPut_hhs : ∀ s a b, (cPut s a b).hhs = s.hhs := fun _ _ _ => rfl
@[simp] theorem cPut_pools : ∀ s a b, (cPut s a b).pools = s.pools := fun _ _ _ => rfl
@[simp] theorem cPut_db : ∀ s a b, (cPut s a b).db = s.db := fun _ _ _ => rfl
@[simp] theorem cPut_cellar : ∀ s a b, (cPut s a b).cellar = { s.cellar with mem := spSet 0 s.cellar.mem (place s a) b } := fun _ _ _ => rfl
@[simp] theorem cPut_attic : ∀ s a b, (cPut s a b).attic = s.attic := fun _ _ _ => rfl
@[simp] theorem cPut_deedFloor : ∀ s a b, (cPut s a b).deedFloor = s.deedFloor := fun _ _ _ => rfl
@[simp] theorem cPut_deed : ∀ s a b, (cPut s a b).deed = s.deed := fun _ _ _ => rfl
@[simp] theorem cPut_loader : ∀ s a b, (cPut s a b).loader = s.loader := fun _ _ _ => rfl
@[simp] theorem cPut_selBase : ∀ s a b, (cPut s a b).selBase = s.selBase := fun _ _ _ => rfl
@[simp] theorem cPut_discFunc : ∀ s a b, (cPut s a b).discFunc = s.discFunc := fun _ _ _ => rfl
@[simp] theorem cPut_discCount : ∀ s a b, (cPut s a b).discCount = s.discCount := fun _ _ _ => rfl
@[simp] theorem cPut_houseLost : ∀ s a b, (cPut s a b).houseLost = s.houseLost := fun _ _ _ => rfl
@[simp] theorem cPut_us : ∀ s a b, (cPut s a b).us = s.us := fun _ _ _ => rfl
@[simp] theorem cPut_fo : ∀ s a b, (cPut s a b).fo = s.fo := fun _ _ _ => rfl
@[simp] theorem cPut_pw : ∀ s a b, (cPut s a b).pw = s.pw := fun _ _ _ => rfl
@[simp] theorem cPut_terr : ∀ s a b, (cPut s a b).terr = s.terr := fun _ _ _ => rfl
@[simp] theorem cPut_porch : ∀ s a b, (cPut s a b).porch = s.porch := fun _ _ _ => rfl
@[simp] theorem cPut_rst : ∀ s a b, (cPut s a b).rst = s.rst := fun _ _ _ => rfl
@[simp] theorem cPut_boot : ∀ s a b, (cPut s a b).boot = s.boot := fun _ _ _ => rfl
@[simp] theorem cPut_hearth : ∀ s a b, (cPut s a b).hearth = s.hearth := fun _ _ _ => rfl
@[simp] theorem cPut_sb : ∀ s a b, (cPut s a b).sb = s.sb := fun _ _ _ => rfl
@[simp] theorem cPut_sent : ∀ s a b, (cPut s a b).sent = s.sent := fun _ _ _ => rfl

/- poisonUnit -/
@[simp] theorem poisonUnit_pending : ∀ s a, (poisonUnit s a).pending = s.pending := fun _ _ => rfl
@[simp] theorem poisonUnit_fresh : ∀ s a, (poisonUnit s a).fresh = s.fresh := fun _ _ => rfl
@[simp] theorem poisonUnit_bus : ∀ s a, (poisonUnit s a).bus = s.bus := fun _ _ => rfl
@[simp] theorem poisonUnit_sites : ∀ s a, (poisonUnit s a).sites = s.sites := fun _ _ => rfl
@[simp] theorem poisonUnit_map : ∀ s a, (poisonUnit s a).map = s.map := fun _ _ => rfl
@[simp] theorem poisonUnit_lastSite : ∀ s a, (poisonUnit s a).lastSite = s.lastSite := fun _ _ => rfl
@[simp] theorem poisonUnit_regions : ∀ s a, (poisonUnit s a).regions = s.regions := fun _ _ => rfl
@[simp] theorem poisonUnit_hhs : ∀ s a, (poisonUnit s a).hhs = s.hhs := fun _ _ => rfl
@[simp] theorem poisonUnit_pools : ∀ s a, (poisonUnit s a).pools = s.pools := fun _ _ => rfl
@[simp] theorem poisonUnit_db : ∀ s a, (poisonUnit s a).db = s.db := fun _ _ => rfl
@[simp] theorem poisonUnit_cellar : ∀ s a, (poisonUnit s a).cellar = { s.cellar with poison := insNat s.cellar.poison (place s a / 64) } := fun _ _ => rfl
@[simp] theorem poisonUnit_attic : ∀ s a, (poisonUnit s a).attic = s.attic := fun _ _ => rfl
@[simp] theorem poisonUnit_deedFloor : ∀ s a, (poisonUnit s a).deedFloor = s.deedFloor := fun _ _ => rfl
@[simp] theorem poisonUnit_deed : ∀ s a, (poisonUnit s a).deed = s.deed := fun _ _ => rfl
@[simp] theorem poisonUnit_loader : ∀ s a, (poisonUnit s a).loader = s.loader := fun _ _ => rfl
@[simp] theorem poisonUnit_selBase : ∀ s a, (poisonUnit s a).selBase = s.selBase := fun _ _ => rfl
@[simp] theorem poisonUnit_discFunc : ∀ s a, (poisonUnit s a).discFunc = s.discFunc := fun _ _ => rfl
@[simp] theorem poisonUnit_discCount : ∀ s a, (poisonUnit s a).discCount = s.discCount := fun _ _ => rfl
@[simp] theorem poisonUnit_houseLost : ∀ s a, (poisonUnit s a).houseLost = s.houseLost := fun _ _ => rfl
@[simp] theorem poisonUnit_us : ∀ s a, (poisonUnit s a).us = s.us := fun _ _ => rfl
@[simp] theorem poisonUnit_fo : ∀ s a, (poisonUnit s a).fo = s.fo := fun _ _ => rfl
@[simp] theorem poisonUnit_pw : ∀ s a, (poisonUnit s a).pw = s.pw := fun _ _ => rfl
@[simp] theorem poisonUnit_terr : ∀ s a, (poisonUnit s a).terr = s.terr := fun _ _ => rfl
@[simp] theorem poisonUnit_porch : ∀ s a, (poisonUnit s a).porch = s.porch := fun _ _ => rfl
@[simp] theorem poisonUnit_rst : ∀ s a, (poisonUnit s a).rst = s.rst := fun _ _ => rfl
@[simp] theorem poisonUnit_boot : ∀ s a, (poisonUnit s a).boot = s.boot := fun _ _ => rfl
@[simp] theorem poisonUnit_hearth : ∀ s a, (poisonUnit s a).hearth = s.hearth := fun _ _ => rfl
@[simp] theorem poisonUnit_sb : ∀ s a, (poisonUnit s a).sb = s.sb := fun _ _ => rfl
@[simp] theorem poisonUnit_sent : ∀ s a, (poisonUnit s a).sent = s.sent := fun _ _ => rfl

end Sys2Proof.Machine
end

