-- ==== Sys2Proof/Laws/Control.lean ====
section
/-! SUPPORT. What running one instruction of a control core does, by how its effect ends. -/

namespace Sys2Proof.Machine

theorem upCore_upCore (s : State) (r : Rg) (f g : Core → Core) :
    upCore (upCore s r f) r g = upCore s r fun c => g (f c) := by
  simp [upCore, upReg, vmod_vmod, Function.comp_def]

theorem upCore_congr {s : State} {r : Rg} {f g : Core → Core} (h : f (coreAt s r) = g (coreAt s r)) :
    upCore s r f = upCore s r g := by
  simp only [upCore, upReg, vmod]; simp only [coreAt, regAt] at h; rw [h]

/- The fetch. -/

/-- Translation caches change nothing but themselves. -/
theorem cachePages_eq (s : State) (h : Hh) (unit : Nat) (vas : List Nat) :
    ∃ l, cachePages s h unit vas = upTr s h fun x => { x with tlb := l } := by
  induction vas generalizing s with
  | nil =>
    refine ⟨(hhAt s h).tr.tlb, ?_⟩
    have : vmod s.hhs h (fun c => { c with tr := { c.tr with tlb := (hhAt s h).tr.tlb } }) = s.hhs := by
      simp only [vmod, hhAt, get_val]; exact Vector.set_getElem_self _
    rw [upTr, upHh, this]; rfl
  | cons va vas ih =>
    simp only [cachePages, List.foldl_cons]
    cases pageOf s h va with
    | none => exact ih s
    | some p =>
      obtain ⟨l, e⟩ := ih (upTr s h fun x => { x with
        tlb := ⟨unit, va / 65536, p⟩ :: x.tlb.filter fun e => !(e.unit == unit && e.page == va / 65536) })
      refine ⟨l, e.trans ?_⟩
      simp [upTr, upHh, vmod_vmod, Function.comp_def]

theorem coreCache_eq (s : State) (r : Rg) (va n : Nat) :
    coreCache s r va n = s ∨ ∃ h l, coreHh s r = some h ∧ coreCache s r va n = upTr s h fun x => { x with tlb := l } := by
  unfold coreCache
  cases e : coreHh s r with
  | none => exact .inl rfl
  | some h => obtain ⟨l, q⟩ := cachePages_eq s h (tlbUnit 0 r.val) (pagesOf va n); exact .inr ⟨h, l, rfl, q⟩

/-- What the core's translation caches leave, read through any part they are no part of. -/
theorem coreCache_keeps {β : Type} (p : State → β) (k : ∀ s h f, p (upTr s h f) = p s) (s : State) (r : Rg) (va n : Nat) :
    p (coreCache s r va n) = p s := by
  rcases coreCache_eq s r va n with e | ⟨h, l, -, e⟩ <;> rw [e]
  exact k ..

@[simp] theorem coreAt_coreCache (s : State) (r : Rg) (va n : Nat) (j : Rg) : coreAt (coreCache s r va n) j = coreAt s j :=
  coreCache_keeps (coreAt · j) (fun _ _ _ => rfl) ..
@[simp] theorem cellar_coreCache (s : State) (r : Rg) (va n : Nat) : (coreCache s r va n).cellar = s.cellar :=
  coreCache_keeps (·.cellar) (fun _ _ _ => rfl) ..
/-- In context 16 no address is translated. -/
theorem coreCache_monitor {s : State} {r : Rg} (h : coreHh s r = none) (va n : Nat) : coreCache s r va n = s := by
  simp [coreCache, h]
@[simp] theorem coreAt_fetched (s : State) (r j : Rg) : coreAt (fetched s r) j = coreAt s j := coreAt_coreCache ..
@[simp] theorem coreHh_fetched (s : State) (r : Rg) : coreHh (fetched s r) r = coreHh s r := by simp [coreHh]
@[simp] theorem xGet_fetched (s : State) (r : Rg) (x : XReg) : xGet (fetched s r) r x = xGet s r x := by simp [xGet]
@[simp] theorem fGet_fetched (s : State) (r : Rg) (x : XReg) : fGet (fetched s r) r x = fGet s r x := by simp [fGet]
theorem fetched_monitor {s : State} {r : Rg} (h : coreHh s r = none) : fetched s r = s := coreCache_monitor h ..

section Run
variable {s u : State} {r : Rg} {f : State → CoreEnd}

/-- A completed instruction moves the pc on. -/
theorem run_done (h : coreReady s r) (e : f (fetched s r) = .done u) : runInstr s r f = upCore u r movedOn := by
  obtain ⟨a, b, c⟩ := h
  simp [runInstr, runInstrWith, a, b, c, e]; rfl

theorem run_jump {pc : Word} (h : coreReady s r) (e : f (fetched s r) = .jump u pc) :
    runInstr s r f = upCore u r fun c => stepOver { c with pc := pc } := by
  obtain ⟨a, b, c⟩ := h
  simp [runInstr, runInstrWith, a, b, c, e]

/-- A trap enters its handler. -/
theorem run_trap {t : Trap} (h : coreReady s r) (e : f (fetched s r) = .trap u t) :
    runInstr s r f = upCore u r fun c => stepOver (enterTrap c t) := by
  obtain ⟨a, b, c⟩ := h
  simp [runInstr, runInstrWith, a, b, c, e]

theorem run_stall (h : coreReady s r) (e : f (fetched s r) = .stall u) : runInstr s r f = u := by
  obtain ⟨a, b, c⟩ := h
  simp [runInstr, runInstrWith, a, b, c, e]

end Run

theorem upCore_xPut (s : State) (r : Rg) (xd : XReg) (v : Word) (g : Core → Core) :
    upCore (xPut s r xd v) r g =
      upCore s r fun c => g (if xd = 0 then c else { c with x := c.x.set xd.val v xd.isLt }) := by
  unfold xPut; split
  · rfl
  · rw [upCore_upCore]

/-- An instruction that writes one integer register. -/
theorem movedOn_xPut (s : State) (r : Rg) (xd : XReg) (v : Word) :
    upCore (xPut s r xd v) r movedOn = upCore s r fun c => wroteX c xd v := by
  rw [upCore_xPut]; congr 1; funext c; simp only [wroteX, movedOn]; split <;> rfl

theorem upCore_tickFresh (s : State) (r : Rg) (f : Core → Core) : upCore (tickFresh s) r f = tickFresh (upCore s r f) := rfl

end Sys2Proof.Machine
end

