-- ==== Sys2Proof/Laws/Memory.lean ====
section
/-! SUPPORT. Sparse memory: a read after a write, and the canonical form that every write keeps. -/

namespace Sys2Proof.Machine

section Sparse
variable {α : Type} [DecidableEq α] {d : α}

theorem spWfFrom_mono {m : List (Nat × α)} {lo lo' : Nat} (h : lo' ≤ lo) (w : spWfFrom d lo m = true) :
    spWfFrom d lo' m = true := by
  cases m with
  | nil => rfl
  | cons e m =>
    obtain ⟨k, v⟩ := e
    simp only [spWfFrom, Bool.and_eq_true, decide_eq_true_eq] at w ⊢
    exact ⟨⟨by omega, w.1.2⟩, w.2⟩

/-- A key below every listed one reads the default. -/
theorem spGet_below {m : List (Nat × α)} {lo a : Nat} (w : spWfFrom d lo m = true) (h : a < lo) :
    spGet d m a = d := by
  cases m with
  | nil => rfl
  | cons e m =>
    obtain ⟨k, v⟩ := e
    simp only [spWfFrom, Bool.and_eq_true, decide_eq_true_eq] at w
    have h1 : k ≠ a := by omega
    have h2 : a < k := by omega
    simp [spGet, h1, h2]

theorem spWfFrom_spSet {m : List (Nat × α)} {lo a : Nat} {v : α} (w : spWfFrom d lo m = true) (h : lo ≤ a) :
    spWfFrom d lo (spSet d m a v) = true := by
  induction m generalizing lo with
  | nil => by_cases hv : v = d <;> simp [spSet, spWfFrom, hv, h]
  | cons e m ih =>
    obtain ⟨k, x⟩ := e
    have w0 := w
    simp only [spWfFrom, Bool.and_eq_true, decide_eq_true_eq] at w
    obtain ⟨⟨hk, hx⟩, hm⟩ := w
    simp only [spSet]
    split
    · subst a
      by_cases hv : v = d
      · rw [if_pos hv]; exact spWfFrom_mono (by omega) hm
      · rw [if_neg hv]; simp [spWfFrom, hk, hv, hm]
    · split
      · by_cases hv : v = d
        · rw [if_pos hv]; exact w0
        · rw [if_neg hv]
          have : a + 1 ≤ k := by omega
          simp [spWfFrom, h, hv, this, hx, hm]
      · simp only [spWfFrom, Bool.and_eq_true, decide_eq_true_eq]
        exact ⟨⟨hk, hx⟩, ih hm (by omega)⟩

theorem spGet_spSet_from {m : List (Nat × α)} {lo a b : Nat} {v : α} (w : spWfFrom d lo m = true) :
    spGet d (spSet d m a v) b = if a = b then v else spGet d m b := by
  induction m generalizing lo with
  | nil =>
    by_cases hv : v = d
    · simp [spSet, spGet, hv]
    · by_cases hab : a = b <;> simp [spSet, spGet, hv, hab]
  | cons e m ih =>
    obtain ⟨k, x⟩ := e
    have w0 := w
    simp only [spWfFrom, Bool.and_eq_true, decide_eq_true_eq] at w
    obtain ⟨⟨hk, hx⟩, hm⟩ := w
    simp only [spSet]
    split
    · subst a
      by_cases hv : v = d
      · rw [if_pos hv]
        by_cases hb : k = b
        · subst hb; simp [hv, spGet_below hm (Nat.lt_succ_self k)]
        · by_cases hlt : b < k
          · simp [spGet, hb, hlt, spGet_below hm (show b < k + 1 by omega)]
          · simp [spGet, hb, hlt]
      · rw [if_neg hv]; by_cases hb : k = b <;> simp [spGet, hb]
    · rename_i hka
      split
      · rename_i hak
        by_cases hv : v = d
        · rw [if_pos hv]
          by_cases hb : a = b
          · subst hb; simp [spGet, hka, hak, hv]
          · simp [hb]
        · rw [if_neg hv]
          by_cases hb : a = b
          · simp [spGet, hb]
          · simp only [spGet, hb, if_false]
            by_cases hlt : b < a
            · have h1 : k ≠ b := by omega
              have h2 : b < k := by omega
              simp [hlt, h1, h2]
            · simp [hlt]
      · rename_i hak
        by_cases hb : k = b
        · have : a ≠ b := by omega
          simp [spGet, hb, this]
        · by_cases hlt : b < k
          · have : a ≠ b := by omega
            simp [spGet, hb, hlt, this]
          · simp only [spGet, hb, hlt, if_false, ih hm]

/-- A write keeps the canonical form. -/
theorem spWf_spSet {m : List (Nat × α)} {a : Nat} {v : α} (w : spWf d m = true) : spWf d (spSet d m a v) = true :=
  spWfFrom_spSet w (Nat.zero_le a)

/-- A read after a write: the value written at its key, and at every other key what was there. -/
theorem spGet_spSet {m : List (Nat × α)} {a b : Nat} {v : α} (w : spWf d m = true) :
    spGet d (spSet d m a v) b = if a = b then v else spGet d m b := spGet_spSet_from w

theorem spWf_spWrite {vs : List α} {m : List (Nat × α)} {a : Nat} (w : spWf d m = true) :
    spWf d (spWrite d m a vs) = true := by
  induction vs generalizing m a with
  | nil => exact w
  | cons v vs ih => exact ih (spWf_spSet w)

theorem spGet_spWrite {vs : List α} {m : List (Nat × α)} {a b : Nat} (w : spWf d m = true) :
    spGet d (spWrite d m a vs) b = if a ≤ b ∧ b < a + vs.length then vs.getD (b - a) d else spGet d m b := by
  induction vs generalizing m a with
  | nil => have h : ¬(a ≤ b ∧ b < a) := by omega
           simp [spWrite, h]
  | cons v vs ih =>
    rw [spWrite, ih (spWf_spSet w), spGet_spSet w]
    by_cases hab : a = b
    · subst hab
      have h1 : ¬(a + 1 ≤ a) := by omega
      simp [h1]
    · by_cases hr : a + 1 ≤ b ∧ b < a + 1 + vs.length
      · have h2 : a ≤ b ∧ b < a + (v :: vs).length := by simp; omega
        rw [if_pos hr, if_pos h2, show b - a = (b - (a + 1)) + 1 by omega]
        simp
      · have h2 : ¬(a ≤ b ∧ b < a + (v :: vs).length) := by simp; omega
        rw [if_neg hr, if_neg h2, if_neg hab]

theorem spWfFrom_filter {m : List (Nat × α)} {lo : Nat} (p : Nat × α → Bool) (w : spWfFrom d lo m = true) :
    spWfFrom d lo (m.filter p) = true := by
  induction m generalizing lo with
  | nil => rfl
  | cons e m ih =>
    obtain ⟨k, v⟩ := e
    simp only [spWfFrom, Bool.and_eq_true, decide_eq_true_eq] at w
    by_cases hp : p (k, v) = true
    · rw [List.filter_cons_of_pos hp]
      simp only [spWfFrom, Bool.and_eq_true, decide_eq_true_eq]
      exact ⟨w.1, ih w.2⟩
    · rw [List.filter_cons_of_neg hp]
      exact spWfFrom_mono (by omega) (ih w.2)

theorem spWf_spKeep {m : List (Nat × α)} (p : Nat → Bool) (w : spWf d m = true) : spWf d (spKeep p m) = true :=
  spWfFrom_filter _ w

end Sparse

/- The cellar. -/

/-- Every store to the cellar keeps its canonical form. -/
theorem cPut_wf {s : State} {a : Nat} {b : Byte} (w : spWf 0 s.cellar.mem = true) :
    spWf 0 (cPut s a b).cellar.mem = true := spWf_spSet w

theorem cPut_place (s : State) (a b : Nat) (v : Byte) : place (cPut s a v) b = place s b := rfl

/-- A byte stored is read back, and a byte at another place stays. -/
theorem cGet_cPut {s : State} {a b : Nat} {v : Byte} (w : spWf 0 s.cellar.mem = true) :
    cGet (cPut s a v) b = if place s a = place s b then v else cGet s b := spGet_spSet w

theorem clearPoison_mem (s : State) (a n : Nat) : (clearPoison s a n).cellar.mem = s.cellar.mem := rfl

theorem foldl_cPut_wf {es : List (Byte × Nat)} {f : Nat → Nat} {s : State} (w : spWf 0 s.cellar.mem = true) :
    spWf 0 (es.foldl (fun t e => cPut t (f e.2) e.1) s).cellar.mem = true := by
  induction es generalizing s with
  | nil => exact w
  | cons e es ih => exact ih (cPut_wf w)

theorem cWrite_wf {s : State} {a : Nat} {bs : List Byte} (w : spWf 0 s.cellar.mem = true) :
    spWf 0 (cWrite s a bs).cellar.mem = true := by
  rw [cWrite, clearPoison_mem]
  exact foldl_cPut_wf (f := fun i => a + i) w

/-- Memory right after reset is in its canonical form. -/
theorem reset_cellar_wf : spWf 0 State.reset.cellar.mem = true := rfl

end Sys2Proof.Machine
end

