-- ==== Sys2Proof/Laws/Cache.lean ====
section
/-! SUPPORT. The caches of a control core: what a write-back, an eviction, a fill and a store do to the bytes that the core
reads. -/

namespace Sys2Proof.Machine

theorem place_inPlace {s : State} (h : s.cellar.retired = none) (a : Nat) : place s a = a := by simp [place, h]

/-- Stores of bytes at given addresses, in order. -/
theorem foldl_cPut (es : List (Byte × Nat)) (f : Nat → Nat) (s : State) (w : spWf 0 s.cellar.mem = true)
    (hr : s.cellar.retired = none) :
    let t := es.foldl (fun t e => cPut t (f e.2) e.1) s
    offCellar t = offCellar s ∧ spWf 0 t.cellar.mem = true ∧ t.cellar.poison = s.cellar.poison ∧
      ∀ b, (∀ e ∈ es, f e.2 ≠ b) → cGet t b = cGet s b := by
  induction es generalizing s with
  | nil => exact ⟨rfl, w, rfl, fun _ _ => rfl⟩
  | cons e es ih =>
    have h := ih (cPut s (f e.2) e.1) (cPut_wf w) hr
    refine ⟨h.1, h.2.1, h.2.2.1, fun b hb => ?_⟩
    rw [List.foldl_cons, h.2.2.2 b fun e' he' => hb e' (List.mem_cons_of_mem _ he'), cGet_cPut w]
    rw [place_inPlace hr, place_inPlace hr, if_neg (hb e List.mem_cons_self)]

/-- Bytes stored at rising addresses are read back. -/
theorem cGet_storeRun (bs : List Byte) (a k : Nat) (s : State) (w : spWf 0 s.cellar.mem = true)
    (hr : s.cellar.retired = none) (b : Nat) :
    cGet ((bs.zip (List.range' k bs.length)).foldl (fun t e => cPut t (a + e.2) e.1) s) b =
      if a + k ≤ b ∧ b < a + k + bs.length then bs.getD (b - (a + k)) 0 else cGet s b := by
  induction bs generalizing k s with
  | nil => have : ¬(a + k ≤ b ∧ b < a + k + 0) := by omega
           rw [List.length_nil, if_neg this]; rfl
  | cons x bs ih =>
    simp only [List.length_cons, List.range'_succ, List.zip_cons_cons, List.foldl_cons]
    rw [ih (k + 1) (cPut s (a + k) x) (cPut_wf w) hr, cGet_cPut w, place_inPlace hr, place_inPlace hr]
    by_cases h1 : a + k = b
    · have h2 : ¬(a + (k + 1) ≤ b ∧ b < a + (k + 1) + bs.length) := by omega
      have h3 : a + k ≤ b ∧ b < a + k + (bs.length + 1) := by omega
      rw [if_neg h2, if_pos h1, if_pos h3, show b - (a + k) = 0 by omega]; rfl
    · by_cases h2 : a + (k + 1) ≤ b ∧ b < a + (k + 1) + bs.length
      · have h3 : a + k ≤ b ∧ b < a + k + (bs.length + 1) := by omega
        rw [if_pos h2, if_pos h3, show b - (a + k) = (b - (a + (k + 1))) + 1 by omega]; rfl
      · have h3 : ¬(a + k ≤ b ∧ b < a + k + (bs.length + 1)) := by omega
        rw [if_neg h2, if_neg h1, if_neg h3]

/-- A write of bytes to the cellar: they are read back, every other byte stays. -/
theorem cGet_cWrite {s : State} (bs : List Byte) (a : Nat) (w : spWf 0 s.cellar.mem = true) (hr : s.cellar.retired = none)
    (b : Nat) : cGet (cWrite s a bs) b = if a ≤ b ∧ b < a + bs.length then bs.getD (b - a) 0 else cGet s b := by
  have := cGet_storeRun bs a 0 s w hr b
  rw [List.range_eq_range'.symm, Nat.add_zero] at this
  exact this

theorem cWrite_offCellar {s : State} (bs : List Byte) (a : Nat) : offCellar (cWrite s a bs) = offCellar s := by
  have : ∀ (es : List (Byte × Nat)) (s : State), offCellar (es.foldl (fun t e => cPut t (a + e.2) e.1) s) = offCellar s := by
    intro es
    induction es with
    | nil => intro s; rfl
    | cons e es ih => intro s; rw [List.foldl_cons, ih]; rfl
  exact this _ s

/-- Dirty bytes of a line stored in turn. -/
theorem dirtyRun (bs : List Byte) (ds : List Bool) (a k : Nat) (s : State) (hl : ds.length = bs.length)
    (w : spWf 0 s.cellar.mem = true) (hr : s.cellar.retired = none) :
    let t := (bs.zip (ds.zip (List.range' k bs.length))).foldl (fun t e => if e.2.1 then cPut t (a + e.2.2) e.1 else t) s
    offCellar t = offCellar s ∧ spWf 0 t.cellar.mem = true ∧ t.cellar.retired = none ∧
      ∀ b, cGet t b = if a + k ≤ b ∧ b < a + k + bs.length ∧ ds.getD (b - (a + k)) false = true
        then bs.getD (b - (a + k)) 0 else cGet s b := by
  induction bs generalizing k s ds with
  | nil => refine ⟨rfl, w, hr, fun b => ?_⟩
           have : ¬(a + k ≤ b ∧ b < a + k + ([] : List Byte).length ∧ ds.getD (b - (a + k)) false = true) := by simp; omega
           rw [if_neg this]; rfl
  | cons x bs ih =>
    cases ds with
    | nil => simp at hl
    | cons d ds =>
      simp only [List.length_cons, List.range'_succ, List.zip_cons_cons, List.foldl_cons]
      have hl' : ds.length = bs.length := by simpa using hl
      have h := ih (s := if d then cPut s (a + k) x else s) ds (k + 1) hl'
        (by split; exacts [cPut_wf w, w]) (by split; exacts [hr, hr])
      refine ⟨?_, h.2.1, h.2.2.1, fun b => ?_⟩
      · rw [h.1]; cases d <;> rfl
      · rw [h.2.2.2 b]
        have hb : cGet (if d then cPut s (a + k) x else s) b = if d = true ∧ a + k = b then x else cGet s b := by
          cases d
          · simp
          · simp [cGet_cPut w, place_inPlace hr]
        rw [hb]
        by_cases h1 : a + k = b
        · have h2 : ¬(a + (k + 1) ≤ b) := by omega
          have h3 : a + k ≤ b := by omega
          have h4 : b < a + k + (bs.length + 1) := by omega
          rw [if_neg (by tauto), show b - (a + k) = 0 by omega]
          cases d <;> simp [h1, h3, h4]
        · by_cases h2 : a + (k + 1) ≤ b ∧ b < a + (k + 1) + bs.length
          · have h3 : a + k ≤ b ∧ b < a + k + (bs.length + 1) := by omega
            rw [show b - (a + k) = (b - (a + (k + 1))) + 1 by omega]
            simp [h1, h2, h3]
          · have h3 : ¬(a + k ≤ b ∧ b < a + k + (bs.length + 1)) := by omega
            rw [if_neg (by tauto), if_neg (by tauto), if_neg (by tauto)]

/-- A write-back of a whole line whose clean bytes are those of the cellar: its bytes stand in the cellar afterwards. -/
theorem writeBack_spec {s : State} {l : CLine} (hb : l.bytes.length = 64) (hd : l.dirty.length = 64)
    (hc : ∀ i < 64, l.dirty.getD i false = false → l.bytes.getD i 0 = cGet s (64 * l.line + i))
    (w : spWf 0 s.cellar.mem = true) (hr : s.cellar.retired = none) :
    offCellar (writeBack s l) = offCellar s ∧ spWf 0 (writeBack s l).cellar.mem = true ∧
      ∀ b, cGet (writeBack s l) b = if b / 64 = l.line then l.bytes.getD (b % 64) 0 else cGet s b := by
  have split : ∀ b, b / 64 = l.line ↔ 64 * l.line ≤ b ∧ b < 64 * l.line + 64 := by intro b; omega
  have sub : ∀ b, b / 64 = l.line → b - 64 * l.line = b % 64 := by intro b h; omega
  have back : ∀ b, b / 64 = l.line → 64 * l.line + b % 64 = b := by intro b h; omega
  unfold writeBack
  split
  · rename_i hn
    have hn' : ∀ i, l.dirty.getD i false = false := by
      intro i
      simp only [List.any_eq_true, id_eq, exists_eq_right, Bool.not_eq_true', Bool.not_eq_true] at hn
      rw [List.getD_eq_getElem?_getD]
      cases h : l.dirty[i]? with
      | none => rfl
      | some d =>
        cases d
        · rfl
        · exact absurd (List.mem_of_getElem? h) (by simpa using hn)
    refine ⟨rfl, w, fun b => ?_⟩
    split
    · rename_i h; rw [hc _ (Nat.mod_lt _ (by decide)) (hn' _), back b h]
    · rfl
  · split
    · refine ⟨cWrite_offCellar _ _, cWrite_wf w, fun b => ?_⟩
      rw [cGet_cWrite _ _ w hr, hb]
      by_cases h : b / 64 = l.line
      · rw [if_pos ((split b).1 h), if_pos h, sub b h]
      · rw [if_neg (fun x => h ((split b).2 x)), if_neg h]
    · have h := dirtyRun l.bytes l.dirty (64 * l.line) 0 s (by rw [hb, hd]) w hr
      rw [hb, List.range_eq_range'.symm] at h
      refine ⟨h.1, h.2.1, fun b => ?_⟩
      rw [h.2.2.2 b]
      by_cases hh : b / 64 = l.line
      · rw [if_pos hh]
        have := (split b).1 hh
        rw [Nat.add_zero, sub b hh]
        by_cases hd2 : l.dirty.getD (b % 64) false = true
        · rw [if_pos ⟨this.1, by omega, hd2⟩]
        · rw [if_neg (by tauto), hc _ (Nat.mod_lt _ (by decide)) (by simpa using hd2), back b hh]
      · rw [if_neg hh, if_neg]
        intro hx; exact hh ((split b).2 ⟨by omega, by omega⟩)

/-- Write-backs of distinct good lines: each line's bytes stand in the cellar, every other byte stays. -/
theorem writeBacks_spec (ls : List CLine) (s : State) (dis : ls.Pairwise fun a b => a.line ≠ b.line)
    (whole : ∀ l ∈ ls, l.bytes.length = 64 ∧ l.dirty.length = 64)
    (cl : ∀ l ∈ ls, ∀ i < 64, l.dirty.getD i false = false → l.bytes.getD i 0 = cGet s (64 * l.line + i))
    (w : spWf 0 s.cellar.mem = true) (hr : s.cellar.retired = none) :
    offCellar (ls.foldl writeBack s) = offCellar s ∧ spWf 0 (ls.foldl writeBack s).cellar.mem = true ∧
      (∀ l ∈ ls, ∀ b, b / 64 = l.line → cGet (ls.foldl writeBack s) b = l.bytes.getD (b % 64) 0) ∧
      ∀ b, (∀ l ∈ ls, b / 64 ≠ l.line) → cGet (ls.foldl writeBack s) b = cGet s b := by
  induction ls generalizing s with
  | nil => exact ⟨rfl, w, by simp, fun _ _ => rfl⟩
  | cons l ls ih =>
    obtain ⟨o1, w1, g1⟩ := writeBack_spec (whole l List.mem_cons_self).1 (whole l List.mem_cons_self).2
      (cl l List.mem_cons_self) w hr
    have hr1 : (writeBack s l).cellar.retired = none := by
      have := congrArg (fun x : State => x.cellar.retired) o1
      exact this.trans hr
    have dis' := List.pairwise_cons.1 dis
    obtain ⟨o2, w2, g2, k2⟩ := ih (writeBack s l) dis'.2 (fun x hx => whole x (List.mem_cons_of_mem _ hx))
      (fun x hx i hi hd => by
        rw [g1, if_neg, cl x (List.mem_cons_of_mem _ hx) i hi hd]
        have := dis'.1 x hx; omega) w1 hr1
    refine ⟨o2.trans o1, w2, fun x hx b hb => ?_, fun b hb => ?_⟩
    · rw [List.foldl_cons]
      rcases List.mem_cons.1 hx with rfl | hx
      · rw [k2 b fun y hy => by have := dis'.1 y hy; omega, g1, if_pos hb]
      · exact g2 x hx b hb
    · rw [List.foldl_cons, k2 b fun y hy => hb y (List.mem_cons_of_mem _ hy), g1, if_neg (hb l List.mem_cons_self)]

/- Good caches. -/

theorem coreAt_offCellar {s t : State} (h : offCellar t = offCellar s) (r : Rg) : coreAt t r = coreAt s r := by
  have : coreAt (offCellar t) r = coreAt (offCellar s) r := by rw [h]
  exact this
theorem retired_offCellar {s t : State} (h : offCellar t = offCellar s) : t.cellar.retired = s.cellar.retired := by
  have : (offCellar t).cellar.retired = (offCellar s).cellar.retired := by rw [h]
  exact this
theorem offCache_of_offCellar {s t : State} (h : offCellar t = offCellar s) (r : Rg) : offCache t r = offCache s r := by
  have hh : (offCellar t).hhs = (offCellar s).hhs := by rw [h]
  have hh : t.hhs = s.hhs := hh
  simp [offCache, h, hh]
theorem offCache_upCache (s : State) (r : Rg) (f : List CLine → List CLine) : offCache (upCache s r f) r = offCache s r := by
  have e : { offCellar (upCache s r f) with fresh := 0, hhs := (upCache s r f).hhs.map noTlb } =
      upCore { offCellar s with fresh := 0, hhs := s.hhs.map noTlb } r fun c => { c with cache := f c.cache } := rfl
  rw [offCache, e, upCore_upCore]; rfl
/-- An update of the core that neither reads nor writes its caches. -/
theorem offCache_upCore {s t : State} {r : Rg} (h : offCache t r = offCache s r) {g : Core → Core}
    (hg : ∀ c, noCache (g c) = g (noCache c)) : offCache (upCore t r g) r = offCache (upCore s r g) r := by
  have e : ∀ u : State, offCache (upCore u r g) r = upCore (offCache u r) r g := by
    intro u
    have h1 : { offCellar (upCore u r g) with fresh := 0, hhs := (upCore u r g).hhs.map noTlb } =
        upCore { offCellar u with fresh := 0, hhs := u.hhs.map noTlb } r g := rfl
    have h3 : (fun c => noCache (g c)) = fun c => g (noCache c) := funext hg
    rw [offCache, h1, upCore_upCore, offCache, upCore_upCore, h3]
  rw [e, e, h]
theorem coreAt_offCache (s : State) (r : Rg) : coreAt (offCache s r) r = noCache (coreAt s r) := by
  simp [offCache, coreAt, regAt, upCore, upReg, offCellar]
theorem offCache_tickFresh (s : State) (r : Rg) : offCache (tickFresh s) r = offCache s r := rfl

theorem cache_upCache (s : State) (r : Rg) (f : List CLine → List CLine) :
    (coreAt (upCache s r f) r).cache = f (coreAt s r).cache := by simp [upCache]
theorem cGet_upCache (s : State) (r : Rg) (f : List CLine → List CLine) (b : Nat) : cGet (upCache s r f) b = cGet s b := rfl

/-- Distinct lines are told apart by their numbers. -/
theorem line_inj {ls : List CLine} (h : ls.Pairwise fun a b => a.line ≠ b.line) {x y : CLine} (hx : x ∈ ls) (hy : y ∈ ls)
    (e : x.line = y.line) : x = y := by
  induction ls with
  | nil => simp at hx
  | cons a ls ih =>
    have hp := List.pairwise_cons.1 h
    rcases List.mem_cons.1 hx with hx' | hx' <;> rcases List.mem_cons.1 hy with hy' | hy'
    · rw [hx', hy']
    · subst hx'; exact absurd e (hp.1 y hy')
    · subst hy'; exact absurd e.symm (hp.1 x hx')
    · exact ih hp.2 hx' hy'

/-- The byte of a line that is cached. -/
theorem coreByte_mem {s : State} {r : Rg} {l : CLine} (ok : CacheOk s r) (h : l ∈ (coreAt s r).cache) {b : Nat}
    (hb : b / 64 = l.line) : coreByte s r b = l.bytes.getD (b % 64) 0 := by
  have key : ∀ (ls : List CLine), ls.Pairwise (fun a b => a.line ≠ b.line) → l ∈ ls → ls.find? (fun x => x.line == b / 64) = some l := by
    intro ls
    induction ls with
    | nil => simp
    | cons x ls ih =>
      intro hd hm
      rcases List.mem_cons.1 hm with rfl | hm
      · simp [hb]
      · have := (List.pairwise_cons.1 hd).1 l hm
        rw [List.find?_cons_of_neg (by simpa [hb] using this)]
        exact ih (List.pairwise_cons.1 hd).2 hm
  simp [coreByte, cachedByte, cacheLine, key _ ok.distinct h]

/-- The byte of a line that is not cached. -/
theorem coreByte_off {s : State} {r : Rg} {b : Nat} (h : ∀ l ∈ (coreAt s r).cache, b / 64 ≠ l.line) :
    coreByte s r b = cGet s b := by
  have : (coreAt s r).cache.find? (fun x => x.line == b / 64) = none :=
    List.find?_eq_none.2 fun l hl => by simpa using fun e => h l hl e.symm
  simp [coreByte, cachedByte, cacheLine, this]

/-- Lines leave the caches: their bytes stand in the cellar, and the core reads every byte as before. -/
theorem evict_spec {s : State} {r : Rg} (ok : CacheOk s r) (p : CLine → Bool) :
    let t := tickFresh (upCache (((coreAt s r).cache.filter p).foldl writeBack s) r fun ls => ls.filter fun l => !p l)
    offCache t r = offCache s r ∧ CacheOk t r ∧ ∀ b, coreByte t r b = coreByte s r b := by
  intro t
  have hm : ∀ l ∈ (coreAt s r).cache.filter p, l ∈ (coreAt s r).cache := fun l h => (List.mem_filter.1 h).1
  obtain ⟨o, w, g, k⟩ := writeBacks_spec ((coreAt s r).cache.filter p) s (ok.distinct.filter _)
    (fun l h => ok.whole l (hm l h)) (fun l h => ok.clean l (hm l h)) ok.mem ok.inPlace
  set u := ((coreAt s r).cache.filter p).foldl writeBack s with hu
  have hc : (coreAt t r).cache = (coreAt s r).cache.filter fun l => !p l := by
    show (coreAt (upCache u r _) r).cache = _
    rw [cache_upCache, coreAt_offCellar o]
  have hg : ∀ b, cGet t b = cGet u b := fun _ => rfl
  have apart : ∀ l ∈ (coreAt s r).cache.filter p, ∀ x ∈ (coreAt s r).cache.filter (fun l => !p l), x.line ≠ l.line := by
    intro l hl x hx e
    have h1 := List.mem_filter.1 hl
    have h2 := List.mem_filter.1 hx
    have : x = l := by
      exact line_inj ok.distinct h2.1 h1.1 e
    subst this; simp [h1.2] at h2
  have ok' : CacheOk t r := by
    refine ⟨?_, ?_, ?_, w, ?_⟩
    · rw [hc]; exact ok.distinct.filter _
    · rw [hc]; exact fun l h => ok.whole l (List.mem_filter.1 h).1
    · rw [hc]; intro l h i hi hd
      rw [hg, k _ fun x hx => by have := apart x hx l h; omega]
      exact ok.clean l (List.mem_filter.1 h).1 i hi hd
    · exact (retired_offCellar o).trans ok.inPlace
  refine ⟨?_, ok', fun b => ?_⟩
  · show offCache (upCache u r _) r = _
    rw [offCache_upCache]; exact offCache_of_offCellar o r
  · by_cases h1 : ∃ l ∈ (coreAt s r).cache, b / 64 = l.line
    · obtain ⟨l, hl, hb⟩ := h1
      by_cases hp : p l = true
      · have hl' : l ∈ (coreAt s r).cache.filter p := List.mem_filter.2 ⟨hl, hp⟩
        rw [coreByte_off, hg, g l hl' b hb, coreByte_mem ok hl hb]
        rw [hc]; intro x hx; have := apart l hl' x hx; omega
      · have hl' : l ∈ (coreAt t r).cache := by rw [hc]; exact List.mem_filter.2 ⟨hl, by simpa using hp⟩
        rw [coreByte_mem ok' hl' hb, coreByte_mem ok hl hb]
    · push Not at h1
      rw [coreByte_off h1, coreByte_off, hg, k]
      · exact fun l hl => h1 l (hm l hl)
      · rw [hc]; exact fun l hl => h1 l (List.mem_filter.1 hl).1

theorem spill_spec {s : State} {r : Rg} (ok : CacheOk s r) :
    offCache (spill s r) r = offCache s r ∧ CacheOk (spill s r) r ∧ ∀ b, coreByte (spill s r) r b = coreByte s r b :=
  evict_spec ok _

/-- A fill changes no byte that the core reads. -/
theorem fillLine_spec {s : State} {r : Rg} (ok : CacheOk s r) (n : Nat) :
    offCache (fillLine s r n) r = offCache s r ∧ CacheOk (fillLine s r n) r ∧
      (∀ b, coreByte (fillLine s r n) r b = coreByte s r b) ∧ (∀ b, cGet (fillLine s r n) b = cGet s b) ∧
      ∃ l ∈ (coreAt (fillLine s r n) r).cache, l.line = n := by
  unfold fillLine
  split
  · rename_i h
    refine ⟨rfl, ok, fun _ => rfl, fun _ => rfl, ?_⟩
    obtain ⟨l, hl⟩ := Option.isSome_iff_exists.1 h
    exact ⟨l, List.mem_of_find?_eq_some hl, by simpa using List.find?_some hl⟩
  · rename_i h
    have hn : ∀ l ∈ (coreAt s r).cache, l.line ≠ n := by
      have : (coreAt s r).cache.find? (fun l => l.line == n) = none := by simpa [cacheLine] using h
      intro l hl; simpa using List.find?_eq_none.1 this l hl
    set new : CLine := ⟨n, cRead s (64 * n) 64, List.replicate 64 false⟩ with hnew
    set t := upCache s r fun ls => ls ++ [new] with ht
    have hc : (coreAt t r).cache = (coreAt s r).cache ++ [new] := cache_upCache ..
    have hbytes : ∀ i < 64, new.bytes.getD i 0 = cGet s (64 * n + i) := by
      intro i hi; simp [hnew, cRead, hi]
    have ok' : CacheOk t r := by
      refine ⟨?_, ?_, ?_, ok.mem, ok.inPlace⟩
      · rw [hc, List.pairwise_append]
        exact ⟨ok.distinct, by simp, fun a ha b hb => by rw [List.mem_singleton.1 hb]; exact hn a ha⟩
      · rw [hc]; intro l hl
        rcases List.mem_append.1 hl with hl | hl
        · exact ok.whole l hl
        · rw [List.mem_singleton.1 hl]; simp [hnew, cRead]
      · rw [hc]; intro l hl i hi hd
        rcases List.mem_append.1 hl with hl | hl
        · exact ok.clean l hl i hi hd
        · rw [List.mem_singleton.1 hl]; exact hbytes i hi
    refine ⟨offCache_upCache .., ok', fun b => ?_, fun _ => rfl, new, by rw [hc]; simp, rfl⟩
    by_cases h1 : ∃ l ∈ (coreAt s r).cache, b / 64 = l.line
    · obtain ⟨l, hl, hb⟩ := h1
      rw [coreByte_mem ok' (by rw [hc]; exact List.mem_append_left _ hl) hb, coreByte_mem ok hl hb]
    · push Not at h1
      rw [coreByte_off h1]
      by_cases h2 : b / 64 = n
      · rw [coreByte_mem ok' (l := new) (by rw [hc]; simp) h2, hbytes _ (Nat.mod_lt _ (by decide))]
        congr 1; omega
      · rw [coreByte_off]; rfl
        rw [hc]; intro l hl
        rcases List.mem_append.1 hl with hl | hl
        · exact h1 l hl
        · rw [List.mem_singleton.1 hl]; exact h2

/-- A byte stored is the one the core reads there; it reads every other byte as before. -/
theorem storeByte_spec {s : State} {r : Rg} (ok : CacheOk s r) (a : Nat) (v : Byte) :
    offCache (storeByte s r a v) r = offCache s r ∧ CacheOk (storeByte s r a v) r ∧
      ∀ b, coreByte (storeByte s r a v) r b = if b = a then v else coreByte s r b := by
  unfold storeByte
  split
  · rename_i h
    have hn : ∀ l ∈ (coreAt s r).cache, l.line ≠ a / 64 := by
      have : (coreAt s r).cache.find? (fun l => l.line == a / 64) = none := by
        simp only [Bool.and_eq_true, Option.isNone_iff_eq_none] at h; exact h.1
      intro l hl; simpa using List.find?_eq_none.1 this l hl
    have hg : ∀ b, cGet (cPut s a v) b = if a = b then v else cGet s b := by
      intro b; rw [cGet_cPut ok.mem, place_inPlace ok.inPlace, place_inPlace ok.inPlace]
    have ok' : CacheOk (cPut s a v) r := by
      refine ⟨ok.distinct, ok.whole, fun l hl i hi hd => ?_, cPut_wf ok.mem, ok.inPlace⟩
      rw [hg, if_neg, ok.clean l hl i hi hd]
      have := hn l hl; omega
    refine ⟨rfl, ok', fun b => ?_⟩
    by_cases h1 : ∃ l ∈ (coreAt s r).cache, b / 64 = l.line
    · obtain ⟨l, hl, hb⟩ := h1
      have : b ≠ a := fun e => by have := hn l hl; subst e; omega
      rw [coreByte_mem ok' hl hb, coreByte_mem ok hl hb, if_neg this]
    · push Not at h1
      rw [coreByte_off h1, coreByte_off (s := cPut s a v) h1, hg]
      simp only [eq_comm]
  · obtain ⟨o1, ok1, g1, m1, l0, hl0, hn0⟩ := fillLine_spec ok (a / 64)
    set u := fillLine s r (a / 64) with hu
    set f : CLine → CLine := fun l =>
      if l.line = a / 64 then { l with bytes := l.bytes.set (a % 64) v, dirty := l.dirty.set (a % 64) true } else l with hf
    have hline : ∀ l, (f l).line = l.line := by intro l; simp only [hf]; split <;> rfl
    set t := upCache u r fun ls => ls.map f with ht
    have hc : (coreAt t r).cache = (coreAt u r).cache.map f := cache_upCache ..
    have ok' : CacheOk t r := by
      refine ⟨?_, ?_, ?_, ok1.mem, ok1.inPlace⟩
      · rw [hc, List.pairwise_map]; simpa only [hline] using ok1.distinct
      · rw [hc]; intro l hl
        obtain ⟨x, hx, rfl⟩ := List.mem_map.1 hl
        have := ok1.whole x hx
        simp only [hf]; split <;> simp [this]
      · rw [hc]; intro l hl i hi hd
        obtain ⟨x, hx, rfl⟩ := List.mem_map.1 hl
        have hw := ok1.whole x hx
        have e : cGet t (64 * (f x).line + i) = cGet u (64 * x.line + i) := by rw [hline]; rfl
        rw [e]
        simp only [hf] at hd ⊢
        split at hd
        · rename_i hxl
          rw [if_pos hxl]
          by_cases hia : i = a % 64
          · simp [hia, List.getD_eq_getElem?_getD, hw, Nat.mod_lt] at hd
          · rw [List.getD_eq_getElem?_getD, List.getElem?_set_ne (Ne.symm hia)] at hd ⊢
            exact ok1.clean x hx i hi (by rw [List.getD_eq_getElem?_getD]; exact hd)
        · rename_i hxl
          rw [if_neg hxl]; exact ok1.clean x hx i hi hd
    refine ⟨(offCache_upCache ..).trans o1, ok', fun b => ?_⟩
    rw [← g1 b]
    by_cases h1 : ∃ l ∈ (coreAt u r).cache, b / 64 = l.line
    · obtain ⟨l, hl, hb⟩ := h1
      have hm : f l ∈ (coreAt t r).cache := by rw [hc]; exact List.mem_map_of_mem hl
      rw [coreByte_mem ok' hm (by rw [hline]; exact hb), coreByte_mem ok1 hl hb]
      have hw := ok1.whole l hl
      simp only [hf]
      split
      · rename_i hla
        by_cases hba : b = a
        · subst hba; simp [List.getD_eq_getElem?_getD, hw, Nat.mod_lt]
        · have : a % 64 ≠ b % 64 := by omega
          rw [if_neg hba, List.getD_eq_getElem?_getD, List.getElem?_set_ne this, ← List.getD_eq_getElem?_getD]
      · rename_i hla
        rw [if_neg]; rintro rfl; exact hla hb.symm
    · push Not at h1
      have hba : b ≠ a := by rintro rfl; exact h1 l0 hl0 hn0.symm
      rw [if_neg hba, coreByte_off h1, coreByte_off]; rfl
      rw [hc]; intro l hl
      obtain ⟨x, hx, rfl⟩ := List.mem_map.1 hl
      rw [hline]; exact h1 x hx

/-- FENCE.W: the cellar holds every byte as the core reads it. -/
theorem drainStores_spec {s : State} {r : Rg} (ok : CacheOk s r) :
    offCache (drainStores s r) r = offCache s r ∧ CacheOk (drainStores s r) r ∧
      (∀ b, coreByte (drainStores s r) r b = coreByte s r b) ∧ ∀ b, cGet (drainStores s r) b = coreByte s r b := by
  unfold drainStores
  obtain ⟨o, w, g, k⟩ := writeBacks_spec (coreAt s r).cache s ok.distinct ok.whole ok.clean ok.mem ok.inPlace
  set u := (coreAt s r).cache.foldl writeBack s with hu
  set f : CLine → CLine := fun l => { l with dirty := List.replicate 64 false } with hf
  have hc : (coreAt (tickFresh (upCache u r fun ls => ls.map f)) r).cache = (coreAt s r).cache.map f := by
    show (coreAt (upCache u r _) r).cache = _
    rw [cache_upCache, coreAt_offCellar o]
  have hmem : ∀ b, cGet u b = coreByte s r b := by
    intro b
    by_cases h1 : ∃ l ∈ (coreAt s r).cache, b / 64 = l.line
    · obtain ⟨l, hl, hb⟩ := h1
      rw [g l hl b hb, coreByte_mem ok hl hb]
    · push Not at h1
      rw [k b h1, coreByte_off h1]
  have ok' : CacheOk (tickFresh (upCache u r fun ls => ls.map f)) r := by
    refine ⟨?_, ?_, ?_, w, (retired_offCellar o).trans ok.inPlace⟩
    · rw [hc, List.pairwise_map]; exact ok.distinct
    · rw [hc]; intro l hl
      obtain ⟨x, hx, rfl⟩ := List.mem_map.1 hl
      exact ⟨(ok.whole x hx).1, by simp [hf]⟩
    · rw [hc]; intro l hl i hi _
      obtain ⟨x, hx, rfl⟩ := List.mem_map.1 hl
      show x.bytes.getD i 0 = cGet u (64 * x.line + i)
      rw [g x hx _ (by omega), show (64 * x.line + i) % 64 = i by omega]
  refine ⟨(offCache_tickFresh ..).trans ((offCache_upCache ..).trans (offCache_of_offCellar o r)), ok', fun b => ?_, hmem⟩
  by_cases h1 : ∃ l ∈ (coreAt s r).cache, b / 64 = l.line
  · obtain ⟨l, hl, hb⟩ := h1
    rw [coreByte_mem ok' (l := f l) (by rw [hc]; exact List.mem_map_of_mem hl) hb, coreByte_mem ok hl hb]
  · push Not at h1
    rw [coreByte_off, coreByte_off h1]
    · show cGet u b = _
      rw [k b h1]
    · rw [hc]; intro l hl
      obtain ⟨x, hx, rfl⟩ := List.mem_map.1 hl
      exact h1 x hx

/-- CINV: the lines of the range leave, and the cellar holds their bytes. -/
theorem cinvOp_spec {s : State} {r : Rg} (ok : CacheOk s r) (va n : Nat) (hx : coreHh s r = none) :
    offCache (cinvOp s r va n) r = offCache s r ∧ CacheOk (cinvOp s r va n) r ∧
      (∀ b, coreByte (cinvOp s r va n) r b = coreByte s r b) ∧
      ∀ b, va ≤ b → b < va + n → (∀ l ∈ (coreAt (cinvOp s r va n) r).cache, b / 64 ≠ l.line) ∧
        cGet (cinvOp s r va n) b = coreByte s r b := by
  unfold cinvOp
  simp only [mapRanges, hx, List.any_cons, List.any_nil, Bool.or_false]
  set p : CLine → Bool := fun l => decide (64 * l.line < va + n) && decide (va < 64 * l.line + 64) && decide (0 < n) with hp
  obtain ⟨o, k, g⟩ := evict_spec ok p
  refine ⟨o, k, g, fun b h1 h2 => ?_⟩
  have hc : (coreAt (tickFresh (upCache (((coreAt s r).cache.filter p).foldl writeBack s) r fun ls => ls.filter fun l => !p l)) r).cache
      = (coreAt s r).cache.filter fun l => !p l := by
    obtain ⟨o', _⟩ := writeBacks_spec ((coreAt s r).cache.filter p) s (ok.distinct.filter _)
      (fun l h => ok.whole l (List.mem_filter.1 h).1) (fun l h => ok.clean l (List.mem_filter.1 h).1) ok.mem ok.inPlace
    show (coreAt (upCache _ r _) r).cache = _
    rw [cache_upCache, coreAt_offCellar o']
  have off : ∀ l ∈ (coreAt (tickFresh (upCache (((coreAt s r).cache.filter p).foldl writeBack s) r
      fun ls => ls.filter fun l => !p l)) r).cache, b / 64 ≠ l.line := by
    rw [hc]; intro l hl e
    have := (List.mem_filter.1 hl).2
    simp only [hp, Bool.not_eq_true', Bool.and_eq_false_iff, decide_eq_false_iff_not] at this
    omega
  exact ⟨off, by rw [← coreByte_off off]; exact g b⟩

/-- Fills of several lines. -/
theorem fills_spec {r : Rg} (as : List Nat) : ∀ {s : State}, CacheOk s r →
    let t := as.foldl (fun t a => fillLine t r (a / 64)) s
    offCache t r = offCache s r ∧ CacheOk t r ∧ ∀ b, coreByte t r b = coreByte s r b := by
  induction as with
  | nil => exact fun ok => ⟨rfl, ok, fun _ => rfl⟩
  | cons a as ih =>
    intro s ok
    obtain ⟨o, k, g, _, _⟩ := fillLine_spec ok (a / 64)
    obtain ⟨o', k', g'⟩ := ih k
    exact ⟨o'.trans o, k', fun b => (g' b).trans (g b)⟩

/-- The translation caches of the core are no part of what its memory holds. -/
theorem coreCache_spec {s : State} {r : Rg} (va n : Nat) :
    offCache (coreCache s r va n) r = offCache s r ∧ (CacheOk s r → CacheOk (coreCache s r va n) r) ∧
      ∀ b, coreByte (coreCache s r va n) r b = coreByte s r b := by
  rcases coreCache_eq s r va n with e | ⟨h, l, -, e⟩ <;> rw [e]
  · exact ⟨rfl, id, fun _ => rfl⟩
  · refine ⟨?_, fun k => ⟨k.distinct, k.whole, k.clean, k.mem, k.inPlace⟩, fun _ => rfl⟩
    have : (upTr s h fun x => { x with tlb := l }).hhs.map noTlb = s.hhs.map noTlb := by
      apply Vector.ext; intro i hi
      simp only [upTr_hhs, vmod, Vector.getElem_map, Vector.getElem_set, get_val]
      split
      · subst i; rfl
      · rfl
    show upCore { offCellar s with fresh := 0, hhs := _ } r noCache = _
    rw [this]; rfl

/-- A read through the caches answers the bytes as the core reads them. -/
theorem coreRead_spec {s : State} {r : Rg} (ok : CacheOk s r) {va n : Nat} (hf : coreFault s r .read va n = none)
    (hp : ∀ a ∈ coreCpas s r .read va n, poisoned s a = false) :
    ∃ t, coreRead s r va n = .ok t ((coreCpas s r .read va n).map (coreByte s r)) ∧
      offCache t r = offCache s r ∧ CacheOk t r ∧ ∀ b, coreByte t r b = coreByte s r b := by
  have hn : (coreCpas s r .read va n).find? (fun a => (cacheLine s r (a / 64)).isNone && poisoned s a) = none :=
    List.find?_eq_none.2 fun a ha => by simp [hp a ha]
  obtain ⟨o, k, g⟩ := fills_spec (coreCpas s r .read va n) ok
  obtain ⟨o', k', g'⟩ := spill_spec k
  obtain ⟨o2, k2, g2⟩ := coreCache_spec (s := spill ((coreCpas s r .read va n).foldl (fun t a => fillLine t r (a / 64)) s) r) (r := r) va n
  refine ⟨_, ?_, o2.trans (o'.trans o), k2 k', fun b => (g2 b).trans ((g' b).trans (g b))⟩
  simp only [coreRead, hf, hn]
  congr 1
  exact List.map_congr_left fun a _ => g a

/-- Stores of bytes at the given CPAs. -/
theorem stores_spec {r : Rg} (es : List (Nat × Byte)) : ∀ {s : State}, CacheOk s r →
    let t := es.foldl (fun t e => storeByte t r e.1 e.2) s
    offCache t r = offCache s r ∧ CacheOk t r ∧
      ∀ b, coreByte t r b = es.foldl (fun v e => if b = e.1 then e.2 else v) (coreByte s r b) := by
  induction es with
  | nil => exact fun ok => ⟨rfl, ok, fun _ => rfl⟩
  | cons e es ih =>
    intro s ok
    obtain ⟨o, k, g⟩ := storeByte_spec ok e.1 e.2
    obtain ⟨o', k', g'⟩ := ih k
    refine ⟨o'.trans o, k', fun b => ?_⟩
    rw [List.foldl_cons, g', g]; rfl

end Sys2Proof.Machine
end

