-- ==== Sys2Proof/Laws/Pantry.lean ====
section
/-! SUPPORT. What writing a tensor to the pantry does: the rows are read back whole and sealed, and every other byte
stands (R22-R25, R128). -/

namespace Sys2Proof.Machine

theorem zip_range_eq {α : Type} (d : α) (l : List α) :
    l.zip (List.range l.length) = (List.range l.length).map fun r => (l.getD r d, r) := by
  apply List.ext_getElem <;> simp
  intro i h
  rw [List.getElem?_eq_getElem h, Option.getD_some]

theorem spRead_length {α : Type} (d : α) (m : List (Nat × α)) (a n : Nat) : (spRead d m a n).length = n := by simp [spRead]

/-- The bytes and the seals of a pantry in canonical form. -/
def pantryOk (c : SiteSt) : Prop := spWf 0 c.pantry = true ∧ spWf 0 c.seals = true

theorem pStoreBlock_ok {c : SiteSt} {a : Nat} {bs : List Byte} (w : pantryOk c) (r : Option Nat) :
    pantryOk (pStoreBlock c a bs r) := ⟨spWf_spWrite w.1, spWf_spSet w.2⟩

theorem pStoreBlock_byte {c : SiteSt} {a x : Nat} {bs : List Byte} {r : Option Nat} (w : pantryOk c) :
    spGet 0 (pStoreBlock c a bs r).pantry x = if a ≤ x ∧ x < a + bs.length then bs.getD (x - a) 0 else spGet 0 c.pantry x :=
  spGet_spWrite w.1
theorem pStoreBlock_seal {c : SiteSt} {a y : Nat} {bs : List Byte} {r : Option Nat} (w : pantryOk c) :
    spGet 0 (pStoreBlock c a bs r).seals y = if a / 128 = y then blockSeal bs else spGet 0 c.seals y :=
  spGet_spSet w.2

/-- The first n blocks of a row. -/
def rowFold (c : SiteSt) (a : Nat) (bs : List Byte) (n : Nat) : SiteSt :=
  (List.range n).foldl (fun c j => pStoreBlock c (a + 4096 * j) ((bs.drop (4096 * j)).take 4096) none) c

theorem rowFold_succ (c : SiteSt) (a : Nat) (bs : List Byte) (n : Nat) :
    rowFold c a bs (n + 1) = pStoreBlock (rowFold c a bs n) (a + 4096 * n) ((bs.drop (4096 * n)).take 4096) none := by
  simp [rowFold, List.range_succ]

theorem pWriteRow_eq (c : SiteSt) (a : Nat) (bs : List Byte) :
    pWriteRow c a bs (fun _ => true) (fun _ => none) = rowFold c a bs (cdiv bs.length 4096) := by
  simp [pWriteRow, rowFold]

theorem rowFold_ok {c : SiteSt} (w : pantryOk c) (a : Nat) (bs : List Byte) (n : Nat) : pantryOk (rowFold c a bs n) := by
  induction n with
  | zero => exact w
  | succ n ih => rw [rowFold_succ]; exact pStoreBlock_ok ih none

theorem rowFold_byte {c : SiteSt} (w : pantryOk c) (a x : Nat) (bs : List Byte) (n : Nat) :
    spGet 0 (rowFold c a bs n).pantry x =
      if a ≤ x ∧ x < a + min (4096 * n) bs.length then bs.getD (x - a) 0 else spGet 0 c.pantry x := by
  induction n with
  | zero => simp [rowFold]
  | succ n ih =>
    rw [rowFold_succ, pStoreBlock_byte (rowFold_ok w a bs n), ih]
    simp only [List.length_take, List.length_drop]
    by_cases h : a + 4096 * n ≤ x ∧ x < a + 4096 * n + min 4096 (bs.length - 4096 * n)
    · rw [if_pos h, if_pos (by omega)]
      have : x - (a + 4096 * n) < 4096 := by omega
      simp only [List.getD_eq_getElem?_getD, List.getElem?_take, List.getElem?_drop, this, if_true]
      congr 2; omega
    · rw [if_neg h]
      by_cases h2 : a ≤ x ∧ x < a + min (4096 * n) bs.length
      · rw [if_pos h2, if_pos (by omega)]
      · rw [if_neg h2, if_neg (by omega)]

theorem rowFold_seal_off {c : SiteSt} (w : pantryOk c) (a y : Nat) (bs : List Byte) (n : Nat)
    (h : ∀ j < n, (a + 4096 * j) / 128 ≠ y) : spGet 0 (rowFold c a bs n).seals y = spGet 0 c.seals y := by
  induction n with
  | zero => rfl
  | succ n ih =>
    rw [rowFold_succ, pStoreBlock_seal (rowFold_ok w a bs n), if_neg (h n (by omega)), ih fun j hj => h j (by omega)]

theorem rowFold_seal_on {c : SiteSt} (w : pantryOk c) (a : Nat) (bs : List Byte) (n j : Nat) (h : j < n) :
    spGet 0 (rowFold c a bs n).seals ((a + 4096 * j) / 128) = blockSeal ((bs.drop (4096 * j)).take 4096) := by
  induction n with
  | zero => omega
  | succ n ih =>
    rw [rowFold_succ, pStoreBlock_seal (rowFold_ok w a bs n)]
    by_cases e : j = n
    · subst e; simp
    · rw [if_neg (by omega), ih (by omega)]

/-- The first n rows of a tensor. -/
def rowsFold (c : SiteSt) (t : Tensor) (rows : List (List Nat)) (n : Nat) : SiteSt :=
  (List.range n).foldl (fun c r => rowFold c (rowAddr t r) (unElems t.e (rows.getD r [])) (cdiv (unElems t.e (rows.getD r [])).length 4096)) c

theorem rowsFold_succ (c : SiteSt) (t : Tensor) (rows : List (List Nat)) (n : Nat) :
    rowsFold c t rows (n + 1) = rowFold (rowsFold c t rows n) (rowAddr t n) (unElems t.e (rows.getD n []))
      (cdiv (unElems t.e (rows.getD n [])).length 4096) := by
  simp [rowsFold, List.range_succ]

theorem pWrite_eq (c : SiteSt) (t : Tensor) (rows : List (List Nat)) :
    pWrite c t rows (fun _ _ => true) (fun _ => none) = rowsFold c t rows rows.length := by
  rw [pWrite, zip_range_eq [], List.foldl_map]
  simp only [pWriteRow_eq, rowsFold]

theorem rowsFold_ok {c : SiteSt} (w : pantryOk c) (t : Tensor) (rows : List (List Nat)) (n : Nat) :
    pantryOk (rowsFold c t rows n) := by
  induction n with
  | zero => exact w
  | succ n ih => rw [rowsFold_succ]; exact rowFold_ok ih _ _ _

theorem unElems_length (e : Nat) (vs : List Nat) : (unElems e vs).length = vs.length * e := by
  have hl : ∀ n v, (leBytes n v).length = n := by
    intro n; induction n with
    | zero => intro v; rfl
    | succ n ih => intro v; simp [leBytes, ih]
  induction vs with
  | nil => simp [unElems]
  | cons v vs ih =>
    have hu : unElems e (v :: vs) = leBytes e v ++ unElems e vs := by simp [unElems]
    rw [hu, List.length_append, hl, ih, List.length_cons]; ring

theorem cdiv_blocks (n : Nat) : n ≤ 4096 * cdiv n 4096 := by simp [cdiv]; omega

section Rows
variable {c : SiteSt} {t : Tensor} {rows : List (List Nat)}

theorem rowsFold_byte_off (w : pantryOk c) (hl : ∀ r < rows.length, (rows.getD r []).length = t.inner) {n x : Nat}
    (hn : n ≤ rows.length) (h : ∀ r < n, x < rowAddr t r ∨ rowAddr t r + rowBytes t ≤ x) :
    spGet 0 (rowsFold c t rows n).pantry x = spGet 0 c.pantry x := by
  induction n with
  | zero => rfl
  | succ n ih =>
    have hb := h n (by omega)
    have := hl n (by omega)
    rw [rowsFold_succ, rowFold_byte (rowsFold_ok w _ _ _), unElems_length, this,
      if_neg (by unfold rowBytes at hb; omega), ih (by omega) fun r hr => h r (by omega)]

theorem rowsFold_byte_on (w : pantryOk c) (ra : RowsApart t) (hc : rows.length = rowCount t)
    (hl : ∀ r < rows.length, (rows.getD r []).length = t.inner) {n r x : Nat} (hn : n ≤ rows.length) (hr : r < n)
    (hx : x < rowBytes t) :
    spGet 0 (rowsFold c t rows n).pantry (rowAddr t r + x) = (unElems t.e (rows.getD r [])).getD x 0 := by
  induction n with
  | zero => omega
  | succ n ih =>
    have hb := hl n (by omega)
    rw [rowsFold_succ, rowFold_byte (rowsFold_ok w _ _ _), unElems_length, hb]
    have hcd := cdiv_blocks (t.inner * t.e)
    by_cases e : r = n
    · subst e
      rw [if_pos (by unfold rowBytes at hx; omega)]
      congr 1; omega
    · have := ra.apart r (by omega) n (by omega) e
      rw [if_neg (by unfold rowBytes at *; omega), ih (by omega) (by omega)]

theorem rowsFold_seal_on (w : pantryOk c) (ra : RowsApart t) (hc : rows.length = rowCount t)
    (hl : ∀ r < rows.length, (rows.getD r []).length = t.inner) {n r j : Nat} (hn : n ≤ rows.length) (hr : r < n)
    (hj : 4096 * j < rowBytes t) :
    spGet 0 (rowsFold c t rows n).seals ((rowAddr t r + 4096 * j) / 128) =
      blockSeal (((unElems t.e (rows.getD r [])).drop (4096 * j)).take 4096) := by
  induction n with
  | zero => omega
  | succ n ih =>
    have hb := hl n (by omega)
    rw [rowsFold_succ, unElems_length, hb]
    by_cases e : r = n
    · subst e
      exact rowFold_seal_on (rowsFold_ok w _ _ _) _ _ _ _ (by simp [cdiv]; unfold rowBytes at hj; omega)
    · have h1 := ra.apart r (by omega) n (by omega) e
      have h2 := ra.aligned r (by omega)
      have h3 := ra.aligned n (by omega)
      rw [rowFold_seal_off (rowsFold_ok w _ _ _), ih (by omega) (by omega)]
      intro i hi
      have : 4096 * i < rowBytes t := by simp [cdiv] at hi; unfold rowBytes; omega
      omega

theorem leNat_leBytes (n v : Nat) : leNat (leBytes n v) = v % 256 ^ n := by
  induction n generalizing v with
  | zero => simp [leBytes, leNat, Nat.mod_one]
  | succ n ih => simp [leBytes, leNat, ih, Nat.pow_succ, Nat.mul_comm (256 ^ n) 256, Nat.mod_mul]

theorem leBytes_length (n v : Nat) : (leBytes n v).length = n := by
  induction n generalizing v with
  | zero => rfl
  | succ n ih => simp [leBytes, ih]

theorem elems_unElems {e : Nat} (he : 0 < e) (vs : List Nat) : elems e (unElems e vs) = vs.map fun x => x % 2 ^ (8 * e) := by
  have hd : ∀ (vs : List Nat) (j : Nat), j < vs.length → leAt (unElems e vs) (j * e) e = vs.getD j 0 % 2 ^ (8 * e) := by
    intro vs
    induction vs with
    | nil => simp
    | cons v vs ih =>
      intro j hj
      have hu : unElems e (v :: vs) = leBytes e v ++ unElems e vs := by simp [unElems]
      cases j with
      | zero =>
        simp only [hu, leAt, slice, Nat.zero_mul, List.drop_zero]
        rw [List.take_left' (leBytes_length e v)]
        simp [leBytes_length, leNat_leBytes, Nat.pow_mul]
      | succ j =>
        have := ih j (by simpa using hj)
        simp only [leAt, slice, hu] at this ⊢
        rw [show (j + 1) * e = e + j * e by ring, ← List.drop_drop, List.drop_left' (leBytes_length e v)]
        simpa using this
  apply List.ext_getElem
  · simp [elems, unElems_length, he.ne', Nat.mul_div_cancel _ he]
  · intro j h1 h2
    simp at h2
    simp [elems, hd vs j h2, List.getD, h2]

theorem pWrite_ok (w : pantryOk c) (t : Tensor) (rows : List (List Nat)) :
    pantryOk (pWrite c t rows (fun _ _ => true) fun _ => none) := by
  rw [pWrite_eq]; exact rowsFold_ok w _ _ _

/-- One row of a tensor read. -/
def pStep (v : PView) (t : Tensor) (verify : Bool) (acc : List (List Nat) × Option Nat) (r : Nat) : List (List Nat) × Option Nat :=
  if acc.2.isSome then acc
  else match pReadRow v (rowAddr t r) (rowBytes t) verify false with
    | some bs => (acc.1 ++ [elems t.e bs], none)
    | none => (acc.1, some r)

theorem pRead_eq (v : PView) (t : Tensor) (verify : Bool) :
    pRead v t verify = (List.range (rowCount t)).foldl (pStep v t verify) ([], none) := by
  unfold pRead
  congr 1
  funext acc r
  obtain ⟨a, b⟩ := acc
  cases b with
  | some x => simp [pStep]
  | none => simp only [pStep, Option.isSome_none, Bool.false_eq_true, if_false] <;> split <;> simp_all

/-- A tensor written whole is read back, sealed. -/
theorem pRead_pWrite (w : pantryOk c) (ra : RowsApart t) (hc : rows.length = rowCount t)
    (hl : ∀ r < rows.length, (rows.getD r []).length = t.inner) :
    pRead (viewOf (pWrite c t rows (fun _ _ => true) fun _ => none)) t true =
      (rows.map fun r => r.map fun x => x % 2 ^ (8 * t.e), none) := by
  rw [pWrite_eq]
  have hrow : ∀ r < rowCount t, pReadRow (viewOf (rowsFold c t rows rows.length)) (rowAddr t r) (rowBytes t) true false =
      some (unElems t.e (rows.getD r [])) := by
    intro r hr
    have hlen : (unElems t.e (rows.getD r [])).length = rowBytes t := by rw [unElems_length, hl r (by omega), rowBytes]
    have hread : spRead 0 (rowsFold c t rows rows.length).pantry (rowAddr t r) (rowBytes t) = unElems t.e (rows.getD r []) := by
      apply List.ext_getElem
      · rw [spRead_length, hlen]
      · intro x h1 h2
        simp only [spRead, List.getElem_map, List.getElem_range]
        rw [rowsFold_byte_on w ra hc hl (le_refl _) (by omega) (by simpa [spRead] using h1)]
        rw [List.getD_eq_getElem?_getD, List.getElem?_eq_getElem h2, Option.getD_some]
    simp only [pReadRow, viewOf, hread]
    rw [if_neg]
    simp only [Bool.and_eq_true, not_and, Bool.not_eq_true, List.any_eq_false, List.mem_range, decide_eq_true_eq]
    intro _ j hj
    simp only [Bool.false_or, Bool.not_eq_true', Bool.not_eq_false', Bool.not_eq_true, decide_eq_true_eq]
    intro h
    have hs := rowsFold_seal_on (j := j) w ra hc hl (le_refl _) (show r < rows.length by omega) (by omega)
    simp only [sealOk, hs, beq_self_eq_true]
  have hfold : ∀ n ≤ rowCount t, (List.range n).foldl (pStep (viewOf (rowsFold c t rows rows.length)) t true) ([], none) =
      ((rows.take n).map fun r => r.map fun x => x % 2 ^ (8 * t.e), none) := by
    intro n
    induction n with
    | zero => simp
    | succ n ih =>
      intro h
      have hn : n < rows.length := by omega
      rw [List.range_succ, List.foldl_append, ih (by omega), List.foldl_cons, List.foldl_nil, pStep]
      simp only [Option.isSome_none, Bool.false_eq_true, if_false, hrow n (by omega), elems_unElems ra.size.1]
      rw [List.take_add_one, List.map_append, List.getElem?_eq_getElem hn, List.getD_eq_getElem?_getD,
        List.getElem?_eq_getElem hn]
      simp
  rw [pRead_eq, hfold _ (le_refl _), ← hc, List.take_length]

/-- Bytes outside the tensor stand. -/
theorem pWrite_off (w : pantryOk c) (hc : rows.length = rowCount t) (hl : ∀ r < rows.length, (rows.getD r []).length = t.inner)
    {x : Nat} (h : covers t x = false) :
    spGet 0 (pWrite c t rows (fun _ _ => true) fun _ => none).pantry x = spGet 0 c.pantry x := by
  rw [pWrite_eq]
  refine rowsFold_byte_off w hl (le_refl _) fun r hr => ?_
  simp only [covers, List.any_eq_false, List.mem_range] at h
  have := h r (by omega)
  simp at this
  omega

end Rows

/-- Elements none of whose bytes another operand covers stay what they are. -/
theorem freeWhere_apart {cov : Nat → Bool} {d : Tensor} {rows : List (List Nat)} (n : Nat)
    (h : ∀ x, cov x = true → covers d x = false) (hc : rows.length = rowCount d)
    (hl : ∀ r < rows.length, (rows.getD r []).length = d.inner) : freeWhere n cov d rows = rows := by
  unfold freeWhere
  apply List.ext_getElem
  · simp
  · intro r h1 h2
    have hlr := hl r h2
    simp only [List.getElem_map, List.getElem_zip, List.getElem_range]
    apply List.ext_getElem
    · simp
    · intro x h3 h4
      simp only [List.getElem_map, List.getElem_zip, List.getElem_range]
      rw [if_neg]
      simp only [Bool.not_eq_true, List.any_eq_false, List.mem_range]
      intro b hb
      by_contra hcov
      have hd := h _ (by simpa using hcov)
      simp only [covers, List.any_eq_false, List.mem_range] at hd
      have hr := hd r (by omega)
      simp only [List.getD, List.getElem?_eq_getElem h2, Option.getD_some] at hlr
      have hx : x < d.inner := by omega
      have : x * d.e + b < d.inner * d.e := by
        calc x * d.e + b < x * d.e + d.e := by omega
          _ = (x + 1) * d.e := by ring
          _ ≤ d.inner * d.e := Nat.mul_le_mul_right _ hx
      refine hr ?_
      rw [Bool.and_eq_true, decide_eq_true_eq, decide_eq_true_eq, rowBytes]
      constructor <;> omega

/-- Rows that no other operand overlaps stay what they are. -/
theorem overlapFree_apart {a d : Tensor} {rows : List (List Nat)} (n : Nat) (h : apartOrSame a d)
    (hc : rows.length = rowCount d) (hl : ∀ r < rows.length, (rows.getD r []).length = d.inner) : overlapFree n a d rows = rows := by
  unfold overlapFree
  rcases h with h | h
  · simp [h]
  · rw [freeWhere_apart n h hc hl, ite_self]

end Sys2Proof.Machine
end

