-- ==== Sys2Proof/Tests/Home.lean ====
section
/-! SUPPORT. A package in service for the tests: household 0 holds cluster 0 and runs on site 0; its memory is mapped, and
what an access of it reads is known. -/

namespace Sys2Proof.Tests
open Machine
set_option Elab.async false

/- A package in service: household 0 holds cluster 0 and runs on site 0, everything is powered. -/

def grant0 : Grant := { enabled := true, pool := none, vecBase := 0, vecCount := 4, excl := 1, floor := 0, gib := 8, signer := 0 }
def deed0 : Deed :=
  { terraceId := 0x12, twinId := 0x13, portEnable := 0xFFFF, pwEnable := 3, grants := .replicate 16 grant0, pools := [], pinmux := []
    timers := [], landing := none, powerOff := .replicate 64 false, pfVecBase := 0, pfVecCount := 8, routes := []
    ballast := ⟨0, 0, 20, 1800, 50, 610⟩, sequence := 7, digest := 1, pairDigest := 2, raiseFloor := true, image := [] }
/-- N = 2^12 with two chain primes and one special prime, each 1 modulo 2N. -/
def lease0 : Lease :=
  { log2n := 12, primes := [40961, 65537], specials := [114689], roots := [], decs := [15, 16], excl := 1, usePool := false, mode := 0
    naming := 0, sched := false, rowLog2 := 0, shelves := [], routes := [], timers := [], sequence := 1, digest := 3, image := [] }
/-- Page tables at CPA 0x1000: the first 16 GiB of household 0 lie at CPA 16 GiB, readable, writable, executable. -/
def tables0 : BMap := [(0x1000, 0x01), (0x1001, 0x20), (0x2000, 0x1F), (0x2004, 0x04)]
def served0 (f : HSet → HSet) (c : SiteSt) : SiteSt :=
  { c with inReset := false, served := some 0, shelves := .replicate 4 .on, sets := c.sets.set 0 (f HSet.init) }
/-- The package with household 0 in a lease, its set on site 0 changed by f. -/
def homeOf (l : Lease) (f : HSet → HSet) : State :=
  let s := State.reset
  { s with
    deed := some deed0
    sites := (s.sites.map fun c => { c with inReset := false, shelves := .replicate 4 .on }).set 0 (served0 f SiteSt.init)
    regions := s.regions.map fun g => { g with inReset := false }
    hhs := s.hhs.set 0 { HhSt.init with lease := some l, vfOn := true, tr := { HhTrans.init with root := 0x1000, valid := true } }
    cellar := { s.cellar with mem := tables0 }
    hearth := { s.hearth with domains := 2 ^ 64 - 1 }
    boot := { s.boot with stage := 15 } }
def home : State := homeOf lease0 id
/-- A command of household 0 in execution. -/
def work (r : Record) (a b d : Opnd) : Entry :=
  { newEntry home 0 r none 0xFFFFFFFF false with seq := 1, phase := .running, opA := a, opB := b, opD := d }
/-- The package with that command in the queue of an engine of cluster 0. -/
def atWork (en : Fin 5) (e : Entry) : State :=
  homeOf lease0 fun t => { t with queues := t.queues.set en.val ⟨[e], 2, false, 0, 0⟩ en.isLt }
/-- Rows of 4,096 words at a pantry address. -/
def rowsAt (a c1 : Nat) : Tensor := ⟨a, 4096, c1, 1, 4, 16384, 0⟩
def rec0 (op mod : Nat) : Record := ⟨op, 0, 0, 0, mod, 0, 0, 0⟩

theorem home_live : liveSet home 0 = some (0, 0) := by decide +kernel
theorem home_ready : coreReady home 0 := by unfold coreReady; decide +kernel

/-- The memory of household 0 is laid out as in `home`: its tables, and above 16 GiB anything. -/
structure Mapped (s : State) : Prop where
  root : (hhAt s 0).tr.root = 0x1000 ∧ (hhAt s 0).tr.valid = true ∧ (hhAt s 0).tr.tlb = []
  low : ∀ a < 2 ^ 34, cGet s a = spGet 0 tables0 a

theorem table3 : ∀ ix : Fin 32, leNat ((List.range 8).map fun i => spGet 0 tables0 (0x1000 + 8 * ix.val + i)) =
    if ix.val = 0 then 0x2001 else 0 := by decide +kernel
theorem table2 : ∀ ix : Fin 512, leNat ((List.range 8).map fun i => spGet 0 tables0 (0x2000 + 8 * ix.val + i)) =
    if ix.val = 0 then 0x40000001F else 0 := by decide +kernel

theorem mapped_read {s : State} (m : Mapped s) {a : Nat} (h : a + 8 ≤ 2 ^ 34) :
    cRead s a 8 = (List.range 8).map fun i => spGet 0 tables0 (a + i) := by
  unfold cRead
  apply List.map_congr_left
  intro i hi
  exact m.low _ (by simp at hi; omega)

theorem walk_root (s : State) (va e : Nat) (he : leNat (cRead s (0x1000 + 8 * bits va 43 5) 8) = e) :
    walkFrom s 3 0x1000 va = if !e.testBit 0 || decide (bits e 39 25 ≠ 0) || decide (bits e 6 6 ≠ 0) then none
      else if e.testBit 1 then none else if bits e 2 4 ≠ 0 then none else walkFrom s 2 (bits e 12 27 * 4096) va := by
  subst he; rfl
theorem walk_next (s : State) (t va e : Nat) (he : leNat (cRead s (t + 8 * bits va 34 9) 8) = e) :
    walkFrom s 2 t va = if !e.testBit 0 || decide (bits e 39 25 ≠ 0) || decide (bits e 6 6 ≠ 0) then none
      else if e.testBit 1 then leafPage 2 e va else if bits e 2 4 ≠ 0 then none
      else walkFrom s 1 (bits e 12 27 * 4096) va := by
  subst he; rfl
theorem leaf_home (va : Nat) (h : va < 2 ^ 34) :
    leafPage 2 0x40000001F va = some ⟨2 ^ 34 + va / 65536 * 65536, false, true, true, true⟩ := by
  have e : leafPage 2 0x40000001F va = some ⟨2 ^ 34 + va % 2 ^ 34 / 65536 * 65536, false, true, true, true⟩ := rfl
  rw [e, Nat.mod_eq_of_lt h]

theorem mapped_walk {s : State} (m : Mapped s) (va : Nat) :
    walk s 0 va = if va < 2 ^ 34 then some ⟨2 ^ 34 + va / 65536 * 65536, false, true, true, true⟩ else none := by
  have h3 : bits va 43 5 < 32 := Nat.mod_lt _ (by decide)
  have h2 : bits va 34 9 < 512 := Nat.mod_lt _ (by decide)
  have e3 := table3 ⟨_, h3⟩
  have e2 := table2 ⟨_, h2⟩
  rw [← mapped_read m (by dsimp only; omega)] at e3 e2
  simp only at e3 e2
  unfold walk
  simp only [m.root.1, m.root.2.1]
  rw [walk_root s va _ e3]
  by_cases hv : va ≥ 2 ^ 48
  · rw [if_pos (by simp; omega), if_neg (by omega)]
  rw [if_neg (by simp; omega)]
  by_cases z3 : bits va 43 5 = 0
  · rw [if_pos z3, if_neg (by decide), if_neg (by decide), if_neg (by decide),
      show bits 0x2001 12 27 * 4096 = 0x2000 by decide, walk_next s 0x2000 va _ e2]
    by_cases z2 : bits va 34 9 = 0
    · have : va < 2 ^ 34 := by unfold bits at z2 z3; omega
      rw [if_pos z2, if_neg (by decide), if_pos (by decide), if_pos this, leaf_home va this]
    · have : ¬ va < 2 ^ 34 := by unfold bits at z2; omega
      rw [if_neg z2, if_pos (by decide), if_neg this]
  · have : ¬ va < 2 ^ 34 := by unfold bits at z3; omega
    rw [if_neg z3, if_pos (by decide), if_neg this]

theorem mapped_page {s : State} (m : Mapped s) (va : Nat) : pageOf s 0 va = walk s 0 va := by
  simp [pageOf, m.root.2.2]
theorem mapped_xlate {s : State} (m : Mapped s) (agent : Bool) (acc : Acc) (va : Nat) : xlate s 0 agent acc va =
    if va < 2 ^ 34 then .ok ⟨2 ^ 34 + va / 65536 * 65536, false, true, true, true⟩ else .error stTrans := by
  simp only [xlate, mapped_page m, mapped_walk m]
  split <;> rename_i h
  · split at h <;> simp_all
  · split at h
    · injection h with h; subst h; cases acc <;> simp_all
    · cases h

theorem mapped_cpa {s : State} (m : Mapped s) {va : Nat} (h : va < 2 ^ 34) : cpaOf s 0 va = 2 ^ 34 + va := by
  simp only [cpaOf, mapped_xlate m, h, if_true]; omega

/-- Distinct addresses of the mapped range are a plain destination. -/
theorem mapped_plain {s : State} (m : Mapped s) (hp : s.cellar.poison = []) (hr : s.cellar.retired = none)
    (hw : spWf 0 s.cellar.mem = true) (W : List Nat) (hn : W.Nodup) (hW : ∀ va ∈ W, va < 2 ^ 34) : PlainDest s 0 W where
  pages va h := ⟨_, by rw [mapped_xlate m, if_pos (hW va h)], rfl, rfl⟩
  nodup := by
    refine List.Nodup.map_on ?_ hn
    intro x hx y hy e
    rw [mapped_cpa m (hW x hx), mapped_cpa m (hW y hy)] at e
    omega
  tables t ht acc va := by
    have mt : Mapped t := ⟨by rw [ht.1]; exact m.root, fun a ha => by
      rw [← m.low a ha]
      refine (ht.2.2.2.2 a ?_).1
      intro hc
      obtain ⟨v, hv, e⟩ := List.mem_map.mp hc
      rw [mapped_cpa m (hW v hv)] at e
      omega⟩
    rw [mapped_xlate mt, mapped_xlate m]
  clean va h := by simp [poisoned, hp]
  mem := ⟨hw, hr⟩

theorem vaRange_nodup (a n : Nat) (h : a + n ≤ 2 ^ 34) : (vaRange a n).Nodup := by
  refine List.Nodup.map_on ?_ List.nodup_range
  intro x hx y hy e
  simp at hx hy
  omega
theorem vaRange_low (a n : Nat) (h : a + n ≤ 2 ^ 34) : ∀ va ∈ vaRange a n, va < 2 ^ 34 := by
  intro va hv
  obtain ⟨i, hi, rfl⟩ := List.mem_map.mp hv
  simp at hi
  omega

/-- What a state built on `home` keeps of it. -/
theorem mapped_of {s : State} (h1 : (hhAt s 0).tr = (hhAt home 0).tr) (h2 : s.cellar = home.cellar) : Mapped s :=
  ⟨by rw [h1]; decide +kernel, fun a _ => by simp only [cGet, place, h2]; rfl⟩

theorem mapped_xlateRange {s : State} {agent : Bool} (m : Mapped s) (acc : Acc) (va n : Nat) (h : va + n ≤ 2 ^ 34) : xlateRange s 0 agent acc va n = none := by
  simp only [xlateRange, List.findSome?_eq_none_iff]
  intro a ha
  split at ha
  · simp at ha
  · obtain ⟨i, hi, rfl⟩ := List.mem_map.mp ha
    simp at hi
    rw [mapped_xlate m, if_pos (by split <;> omega)]

/-- A range of the mapped memory reads as its bytes of the cellar. -/
theorem mapped_bytes {s : State} {agent : Bool} (m : Mapped s) (acc : Acc) (va n : Nat) (h : va + n ≤ 2 ^ 34)
    (hp : ∀ j < n, poisoned s (2 ^ 34 + va + j) = false) :
    hRead s 0 agent acc va n = .ok ((List.range n).map fun j => cGet s (2 ^ 34 + va + j)) := by
  have hc : ∀ i < n, (match xlate s 0 agent acc ((va + i) % 2 ^ 64) with
      | .ok p => readCpa s 0 agent p ((va + i) % 2 ^ 64)
      | .error _ => 0) = 2 ^ 34 + va + i := by
    intro i hi
    rw [mapped_xlate m, if_pos (by omega)]
    simp only [readCpa]
    rw [if_neg (by decide)]
    omega
  simp only [hRead, mapped_xlateRange m acc va n h]
  rw [List.find?_eq_none.mpr (by
    intro i hi
    simp only [List.mem_range] at hi
    simp only [List.getD_eq_getElem?_getD, List.getElem?_map, List.getElem?_range hi, Option.map_some, Option.getD_some]
    exact fun e => Bool.false_ne_true (((congrArg (poisoned s) (hc i hi)).trans (hp i hi)).symm.trans e))]
  simp only
  congr 1
  apply List.ext_getElem (by simp)
  intro i h1 h2
  simp at h1
  simp only [List.getElem_map, List.getElem_range]
  exact congrArg (cGet s) (hc i h1)
/-- Bytes of the mapped range that nothing has written read as zeros. -/
theorem mapped_hRead {s : State} {agent : Bool} (m : Mapped s) (acc : Acc) (va n : Nat) (h : va + n ≤ 2 ^ 34)
    (hp : ∀ j < n, poisoned s (2 ^ 34 + va + j) = false) (hz : ∀ j < n, cGet s (2 ^ 34 + va + j) = 0) :
    hRead s 0 agent acc va n = .ok (List.replicate n 0) := by
  rw [mapped_bytes m acc va n h hp]
  congr 1
  apply List.ext_getElem (by simp)
  intro i h1 h2
  simp at h1
  simp only [List.getElem_map, List.getElem_range, List.getElem_replicate]
  exact hz i h1
/-- A block of zeros under a seal of zeros is read. -/
theorem mapped_block {s : State} (m : Mapped s) (va len sl : Nat) (h : va + len ≤ 2 ^ 34) (hs : sl + 4 ≤ 2 ^ 34)
    (hseal : blockSeal (List.replicate len 0) = 0) (hp : ∀ b, poisoned s b = false)
    (hz : ∀ j < len, cGet s (2 ^ 34 + va + j) = 0) (hw : ∀ j < 4, cGet s (2 ^ 34 + sl + j) = 0) :
    hReadBlock s 0 va len sl = .ok (List.replicate len 0) := by
  simp only [hReadBlock, mapped_hRead m .read va len h (fun _ _ => hp _) hz, mapped_hRead m .read sl 4 hs (fun _ _ => hp _) hw, hseal]
  rfl

/-- s with bytes at virtual address a of household 0, and nothing else above its tables. -/
def loaded (s : State) (a : Nat) (bs : List Byte) : State := { s with cellar := { s.cellar with mem := spWrite 0 tables0 (2 ^ 34 + a) bs } }
theorem loaded_get (s : State) (hr : s.cellar.retired = none) (a : Nat) (bs : List Byte) (b : Nat) : cGet (loaded s a bs) b =
    if 2 ^ 34 + a ≤ b ∧ b < 2 ^ 34 + a + bs.length then bs.getD (b - (2 ^ 34 + a)) 0 else spGet 0 tables0 b := by
  have : place (loaded s a bs) b = b := by simp [place, loaded, hr]
  rw [cGet, this]
  exact spGet_spWrite (by decide)
theorem loaded_mapped {s : State} (h1 : (hhAt s 0).tr.root = 0x1000 ∧ (hhAt s 0).tr.valid = true ∧ (hhAt s 0).tr.tlb = []) (hr : s.cellar.retired = none) (a : Nat)
    (bs : List Byte) : Mapped (loaded s a bs) := ⟨h1, fun x hx => by rw [loaded_get s hr, if_neg (by omega)]⟩
theorem tables0_high {b : Nat} (h : 0x3000 ≤ b) : spGet 0 tables0 b = 0 := by
  simp only [tables0, spGet]
  repeat' split
  all_goals first | rfl | omega
/-- What was loaded is read back. -/
theorem loaded_hRead {s : State} {agent : Bool} (h1 : (hhAt s 0).tr.root = 0x1000 ∧ (hhAt s 0).tr.valid = true ∧ (hhAt s 0).tr.tlb = []) (hr : s.cellar.retired = none)
    (hp : s.cellar.poison = []) (acc : Acc) (a k n : Nat) (bs : List Byte) (hk : k + n ≤ bs.length) (ha : a + bs.length ≤ 2 ^ 34) :
    hRead (loaded s a bs) 0 agent acc (a + k) n = .ok ((bs.drop k).take n) := by
  rw [mapped_bytes (loaded_mapped h1 hr a bs) acc _ n (by omega) (by intro j _; simp [poisoned, loaded, hp])]
  congr 1
  apply List.ext_getElem (by simp; omega)
  intro i h1 h2
  simp at h1
  simp only [List.getElem_map, List.getElem_range, List.getElem_take, List.getElem_drop, loaded_get s hr]
  rw [if_pos (by omega), List.getD_eq_getElem?_getD, List.getElem?_eq_getElem (by omega)]
  simp only [Option.getD_some]
  congr 1
  omega
/-- Elsewhere there are zeros. -/
theorem loaded_zero {s : State} (hr : s.cellar.retired = none) (a : Nat) (bs : List Byte) {b : Nat} (hb : 0x3000 ≤ b)
    (h : b < 2 ^ 34 + a ∨ 2 ^ 34 + a + bs.length ≤ b) : cGet (loaded s a bs) b = 0 := by
  rw [loaded_get s hr, if_neg (by omega), tables0_high hb]

/- Ranges of addresses. -/

def inRanges (xs : List (Nat × Nat)) : List Nat := xs.flatMap fun x => vaRange x.1 x.2
theorem mem_vaRange {a n va : Nat} (h : a + n ≤ 2 ^ 34) : va ∈ vaRange a n ↔ a ≤ va ∧ va < a + n := by
  simp only [vaRange, List.mem_map, List.mem_range]
  constructor
  · rintro ⟨i, hi, rfl⟩
    omega
  · intro h
    exact ⟨va - a, by omega, by omega⟩
theorem inRanges_nodup {xs : List (Nat × Nat)} (h : xs.Pairwise fun x y => x.1 + x.2 ≤ y.1 ∨ y.1 + y.2 ≤ x.1)
    (hb : ∀ x ∈ xs, x.1 + x.2 ≤ 2 ^ 34) : (inRanges xs).Nodup := by
  induction xs with
  | nil => exact List.nodup_nil
  | cons x xs ih =>
    obtain ⟨h1, h2⟩ := List.pairwise_cons.mp h
    refine List.nodup_append.mpr ⟨vaRange_nodup _ _ (hb x (by simp)), ih h2 (fun y hy => hb y (by simp [hy])), ?_⟩
    intro va hv vb hw e
    subst e
    obtain ⟨y, hy, hm⟩ := List.mem_flatMap.mp hw
    rw [mem_vaRange (hb x (by simp))] at hv
    rw [mem_vaRange (hb y (by simp [hy]))] at hm
    have := h1 y hy
    omega
theorem inRanges_bound {xs : List (Nat × Nat)} (hb : ∀ x ∈ xs, x.1 + x.2 ≤ 2 ^ 34) (lo : Nat) (hl : ∀ x ∈ xs, lo ≤ x.1) :
    ∀ va ∈ inRanges xs, lo ≤ va ∧ va < 2 ^ 34 := by
  intro va hv
  obtain ⟨y, hy, hm⟩ := List.mem_flatMap.mp hv
  rw [mem_vaRange (hb y hy)] at hm
  have := hb y hy
  have := hl y hy
  omega
/-- Ranges of the mapped memory that lie apart are a plain destination. -/
theorem ranges_plain {s : State} (m : Mapped s) (hp : s.cellar.poison = []) (hr : s.cellar.retired = none) (hw : spWf 0 s.cellar.mem = true)
    {W : List Nat} {xs : List (Nat × Nat)} (e : W = inRanges xs)
    (h : xs.Pairwise fun x y => x.1 + x.2 ≤ y.1 ∨ y.1 + y.2 ≤ x.1) (hb : ∀ x ∈ xs, x.1 + x.2 ≤ 2 ^ 34) : PlainDest s 0 W := by
  subst e
  exact mapped_plain m hp hr hw _ (inRanges_nodup h hb) fun va hv => (inRanges_bound hb 0 (fun _ _ => Nat.zero_le _) va hv).2
end Sys2Proof.Tests
end

