-- ==== Sys2Proof/Tests/Slice0.lean ====
section
/-! SUPPORT. Ill-formed commands that the checks refuse, the worked examples of the spec, and small steps. -/

namespace Sys2Proof.Tests
open Machine
set_option Elab.async false

/- Well-formedness: each term breaks one check. -/

theorem test_wf_registers : ([.registerWrite .pf (2 ^ 26) 4 0 0, .registerWrite .pf 0 0 0 0, .registerWrite .pf 0 9 0 0, .registerWrite .pf 0 4 (2 ^ 32) 0,
    .registerWrite .pf 0 4 0 (2 ^ 32), .registerRcRead .pf (2 ^ 26) 4 0, .registerRcRead .pf 0 4 (2 ^ 16), .csrWrite 0 4096 (.read 1) false, .coreLoad 0 1 2 0 0 (2 ^ 64), .coreStore 0 1 2 0 0 (2 ^ 64),
    .smbusBlockRead (2 ^ 26) 4, .smbusWrite (2 ^ 26)] : List Instr).all (fun i => !i.wf) = true := by decide +kernel
theorem test_wf_core : ([.tget 0 1 2 3 (some 4096), .tput 0 1 2 3 (some 4096), .tsave 0 1 (some 4096), .trestore 0 1 (some 4096), .trd 0 1 2 3 256,
    .twr 0 1 2 256 3] : List Instr).all (fun i => !i.wf) = true := by decide +kernel
theorem test_wf_values : ([.clSemWrite .pf 0 0 (2 ^ 32) none, .hhDtValidWrite .pf 0 0 (2 ^ 64), .hhCqBaseWrite .pf 0 (2 ^ 64), .xsqStart .pf 0 65536,
    .trafficGeneratorGo .pf 0 0 (2 ^ 64), .trafficGeneratorDone 0 0 (2 ^ 32), .tlbinvGo .pf 0 (2 ^ 64), .pwBulkGo .pf (2 ^ 64), .resetPin 1024, .powerOn 1024, .porchReset .perst 1024,
    .watchdogExpiry 1024, .houseCriticalError 1024, .thermalTrip 1024, .channelMigrationDone [(2 ^ 27, .clean)],
    .rstReqGo .pf (2 ^ 32), .blockResetIdle 16384, .trSqTailWrite .pf 0 65536, .ackTimeout 0 (2 ^ 32), .trRouteWrite .pf 0 (2 ^ 32) false,
    .hePdreqGo .pf (2 ^ 32), .dbRaise .pf 1024, .dbEoi .pf 128 0, .dbEoi .pf 0 1024, .sbHreqGo .pf 0 (2 ^ 48), .strongboxComplete (some 65536),
    .porchLinkUp 16 16 true, .porchLinkUp 4 3 true, .bootFwGo .pf (2 ^ 32) none, .scrubRead 0 (2 ^ 25) .clean] : List Instr).all (fun i => !i.wf) = true := by decide +kernel
def sum1 (pos col : Nat) (off : Int) : List SumFault := [⟨pos, col, off⟩]
theorem test_wf_upsets : ([.mm 0 ⟨sum1 (2 ^ 40) 0 1, [], []⟩, .mm 0 ⟨sum1 0 512 1, [], []⟩, .keyip 0 ⟨[], sum1 0 0 (2 ^ 80), []⟩, .keyip 0 ⟨[], sum1 (2 ^ 40) 0 1, []⟩,
    .mm 0 ⟨[], [], [⟨2 ^ 32, true⟩]⟩, .accst 0 [⟨2 ^ 32, true⟩], .chacc 0 [⟨2 ^ 32, false⟩], .fwd 0 ⟨some 128, none⟩, .inv 0 ⟨none, some 128⟩,
    .fwdct 0 ⟨some 128, none⟩, .invct 0 ⟨none, some 128⟩] : List Instr).all (fun i => !i.wf) = true := by decide +kernel
theorem test_wf_memory : ([.cellarReadReturn (.mve 0) (2 ^ 39) .clean, .cellarWriteAck (.mve 0) (some 8192), .pantryApertureAccess .pf 0 (2 ^ 17) 4 none,
    .pantryApertureAccess .pf 0 0 0 none, .pantryApertureAccess .pf 0 0 4 (some (2 ^ 32)), .porchBar2Read .pf (2 ^ 36) 4, .porchBar2Read .pf 0 0,
    .porchBar2Read .pf 4095 2, .porchBar2Write .pf (2 ^ 36) [0] none, .porchBar2Write .pf 0 [] none, .porchBar2Write .pf 4095 [0, 0] none, .porchBar2Write .pf 0 [0] (some 1),
    .porchBar2Write .pf 0 (List.replicate 513 0) none] : List Instr).all (fun i => !i.wf) = true := by decide +kernel
def hb (x : Nat → Nat) : Heartbeat := ⟨x 0, true, .replicate 16 (x 1), x 2, x 3, x 4, x 5⟩
/-- All ones below the widths of the fields but for one field, which is a bit too wide. -/
def widths (ws : List Nat) (n k : Nat) : Nat := if k = n then 2 ^ ws.getD k 0 else 0
theorem test_wf_wall : ((List.range 6).map (fun n => (.heartbeat 0 (hb (widths [8, 32, 128, 39, 16, 16] n)) : Instr)) ++ ([.frame 0 (2 ^ 32) 0 true (List.replicate 65536 0), .frame 0 0 (2 ^ 22) true (List.replicate 65536 0), .frame 0 0 0 true [0], .commitMark 0 (2 ^ 32) 0 0,
    .commitMark 0 0 (2 ^ 21) 0, .commitMark 0 0 0 (2 ^ 384), .pwAck 0 (2 ^ 32), .bulk (2 ^ 39) (List.replicate 65536 0), .bulk 1 (List.replicate 65536 0), .bulk 0 [],
    .regs (.reg (2 ^ 26) 4 0), .regs (.reg 0 4 (2 ^ 64)), .yield (.replicate 16 (2 ^ 32))] : List Instr)).all (fun i => !i.wf) = true := by decide +kernel
def pkOf (x : Nat → Nat) (n : Nat) : Packet := ⟨x 0, x 1, x 2, x 3, x 4, x 5, x 6, x 7, x 8, x 9, x 10, x 11, x 12, List.replicate n 0⟩
theorem test_wf_terrace : ((List.range 13).map (fun n => (.trWrite 0 (pkOf (widths [8, 8, 8, 4, 4, 16, 16, 32, 16, 8, 8, 64, 64] n) 0) none : Instr)) ++ ([.trWrite 0 (pkOf (fun _ => 0) 4101) none, .trWrite 0 (pkOf (fun _ => 0) 0) (some 4096), .trAck 0 (pkOf (fun _ => 65536) 0), .trNotify 0 (pkOf (fun _ => 65536) 0),
    .hello 0 ⟨65536, 0, 0, 0⟩ (pkOf (fun _ => 0) 0), .hello 0 ⟨0, 256, 0, 0⟩ (pkOf (fun _ => 0) 0), .hello 0 ⟨0, 0, 65536, 0⟩ (pkOf (fun _ => 0) 0),
    .hello 0 ⟨0, 0, 0, 256⟩ (pkOf (fun _ => 0) 0), .hello 0 ⟨0, 0, 0, 0⟩ (pkOf (fun _ => 65536) 0), .fence 0 0 0 (pkOf (fun _ => 65536) 0), .fenceAck 0 0 0 (pkOf (fun _ => 65536) 0),
    .routeClaim 0 0 0 (pkOf (fun _ => 65536) 0), .fence 0 9 8 (.bare 0x11 0), .routeClaim 0 4096 0 (.bare 0x13 0), .fenceAck 0 0 4096, .fenceLapse 4096 0 true, .fenceLapse 0 4096] : List Instr)).all (fun i => !i.wf) = true := by decide +kernel
def bi (samples trainFail chanFail testFail : List Nat) (twin : Option Nat) (twinId : Nat) : BootInput :=
  ⟨samples, List.replicate 64 0, none, none, trainFail, chanFail, testFail, none, twin, twinId, false⟩
theorem test_wf_boot : ([bi [0] [] [] [] none 0, bi (List.replicate 8 2048) [] [] [] none 0, bi (List.replicate 8 0) [8] [] [] none 0, bi (List.replicate 8 0) [] [256] [] none 0,
    bi (List.replicate 8 0) [] [] [34] none 0, bi (List.replicate 8 0) [] [] [] (some 8) 0, bi (List.replicate 8 0) [] [] [] none 65536, { bi (List.replicate 8 0) [] [] [] none 0 with header := [] }].map
      fun x => Instr.bootStageAdvance x).all (fun i => !i.wf) = true := by decide +kernel
theorem test_wf_readings : ([.hearthTick ⟨2 ^ 32, 0⟩, .hearthTick ⟨0, 256⟩, .coolantSample (some 65536) none, .coolantSample none (some 65536)] : List Instr).all
    (fun i => !i.wf) = true := by decide +kernel
theorem test_wf_images : (Mirror.deed (List.replicate (2 ^ 20 + 1) 0)).wf = false ∧ (Mirror.lease 0 (List.replicate (2 ^ 20 + 1) 0)).wf = false := by
  simp only [Mirror.wf, List.length_replicate]
  decide
/-- Commands within their fields pass. -/
theorem test_wf_accepts : ([.registerWrite .pf 0x1008 8 (2 ^ 64 - 1) 0, .mm 0 ⟨sum1 (2 ^ 40 - 1) 511 (-1), [], [⟨2 ^ 32 - 1, true⟩]⟩, .coreLoad 0 1 2 0 0 (2 ^ 64 - 1), .dbRaise .pf 1023, .porchBar2Read .pf 4092 4,
    .bootStageAdvance (bi (List.replicate 8 2047) [7] [255] [33] (some 7) 65535), .porchLinkUp 15 16 true] : List Instr).all Instr.wf = true := by decide +kernel

/- Worked examples of the spec. -/

/-- The block of the example of R21: w0 = 3, w1 = 2^31, w1023 as given, the others 0. -/
def sealExample (last : Byte) : List Byte := [3, 0, 0, 0, 0, 0, 0, 128] ++ List.replicate 4084 0 ++ [last, 255, 255, 255]
theorem test_seal_example : blockSeal (sealExample 255) = 0x1008 := by decide +kernel
theorem test_seal_example_flipped : blockSeal (sealExample 254) = 0xC08 := by decide +kernel
/-- R291: CPA 0x12_3456_7900 lies in channel 9. -/
theorem test_channel_example : chanOf (0x1234567900 / 256) = 9 ∧ 0x1234567900 / 256 / 256 = 0x123456 := by decide
/-- R298: after channel 9 is retired, that granule lies in channel 157 at lg 8,360,518. -/
theorem test_retire_example : chanOf (retireTarget 9 0x123456) = 157 ∧ retireTarget 9 0x123456 / 256 = 8360518 := by decide
/-- R432 on P-384, and for a 4,096-bit MODEXP. -/
theorem test_run_times : opTime 1 384 384 0 0 = 798720 ∧ opTime 3 384 384 0 0 = 959296 ∧ opTime 4 384 384 0 0 = 1599104 ∧ opTime 5 0 0 4096 0 = 134774912 := by decide

/-- R380: the published check value of CRC-32C, over the nine digits. -/
theorem test_crc32c : crc32c ((List.range 9).map fun n => BitVec.ofNat 8 (0x31 + n)) = 0xE3069283 := by decide +kernel

/- Small steps. -/

/-- A queue without commands idles (log 1). -/
theorem test_idle : (match step State.reset with
    | .next s => decide (s.pending = [] ∧ s.us = 0)
    | _ => false) = true := by decide +kernel
/-- POWER_ON with one command behind it leaves that command in the queue. -/
theorem test_queue_order : (match step { State.reset with pending := [.powerOn 0, .jtagTrst] } with
    | .next s => decide (s.pending = [.jtagTrst])
    | _ => false) = true := by decide +kernel
/-- R361: a power-on records its cause. -/
theorem test_power_on : (match step { State.reset with pending := [.powerOn 0] } with
    | .next s => s.rst.por
    | _ => false) = true := by decide +kernel
/-- The table gives the commands no bits. -/
theorem test_no_word : decodeTableWord 32 0 = none ∧ State.reset.withFetchWord 32 7 = State.reset := ⟨rfl, rfl⟩
end Sys2Proof.Tests
end

