-- ==== Sys2Proof/Tests/WitnessCore.lean ====
section
/-! SUPPORT. States that meet the hypotheses of the statements on the queue of commands, the control core, registers and
queues. -/

namespace Sys2Proof.Tests
open Machine
set_option Elab.async false

/-- `home` with the core of region 0 changed. -/
def coreIs (f : Core → Core) : State := upCore home 0 f
/-- That core in the context of household 0, its pc in the mapped range. -/
def inHome (f : Core → Core) : State := coreIs fun c => f { c with ctx := 0 }
def setX (i : XReg) (v : Word) (c : Core) : Core := { c with x := c.x.set i.val v i.isLt }

theorem ready_of {s : State} (h : coreRuns s 0 = true ∧ irqDue s 0 = false ∧ fetchTrap s 0 = none) : coreReady s 0 := h

theorem witness_StepTakesFront : ({ home with pending := [.powerOn 0, .svc 0] }).pending = .powerOn 0 :: [.svc 0] ∧
    home.pending = [] := by decide +kernel
theorem witness_AtticKeepsIdentityAndFloor : ∃ t, exec .heartbeatPeriod home = .next t ∧ home.attic = Attic.init ∧ 0 ≤ home.deedFloor :=
  ⟨_, rfl, by decide +kernel, by decide⟩

theorem witness_IntegerResults : coreReady home 0 ∧ intSpec .add (xGet home 0 1) (intSrcVal home 0 (.imm 3)) = some 3 ∧
    intSpec .shl (1 : BitVec 32) (31 : BitVec 32) = some 0x80000000#32 ∧
    intSpec .div ((xGet home 0 1).setWidth 32) ((intSrcVal home 0 (.imm 5)).setWidth 32) = some 0#32 :=
  ⟨home_ready, by decide +kernel, by decide +kernel, by decide +kernel⟩
theorem witness_MulmodAndControlFlow : coreReady (coreIs (setX 3 0xFFFFFFFF)) 0 ∧
    (0 < xNat (coreIs (setX 3 0xFFFFFFFF)) 0 3 ∧ xNat (coreIs (setX 3 0xFFFFFFFF)) 0 3 < 2 ^ 32) ∧
    2 ^ 32 ≤ xNat (coreIs (setX 3 0x100000000)) 0 3 ∧ xNat home 0 3 = 0 ∧ coreReady (coreIs (setX 3 0x100000000)) 0 :=
  ⟨ready_of (by decide +kernel), by decide +kernel, by decide +kernel, by decide +kernel, ready_of (by decide +kernel)⟩
theorem witness_FloatingPointResults : coreReady home 0 ∧ fpArg home 0 true 1 ≠ .nan ∧
    (0 ≤ fToInt (fpArg home 0 true 1) ∧ fToInt (fpArg home 0 true 1) < 2 ^ 63) := ⟨home_ready, by decide +kernel, by decide +kernel⟩
theorem witness_CsrReadsAndWrites : coreReady home 0 ∧ (coreAt home 0).level = 2 ∧
    xNat (coreIs (setX 1 16)) 0 1 ≤ 16 ∧ coreReady (coreIs (setX 1 17)) 0 ∧ 16 < xNat (coreIs (setX 1 17)) 0 1 ∧
    coreReady (coreIs fun c => { c with level := 1 }) 0 ∧ coreReady (coreIs fun c => { c with level := 0 }) 0 ∧ isCsr 0x7FF = false ∧
    coreReady (inHome id) 0 ∧ coreHh (inHome id) 0 = some 0 ∧ 1 ≤ (coreAt (inHome id) 0).level :=
  ⟨home_ready, by decide +kernel, by decide +kernel, ready_of (by decide +kernel), by decide +kernel, ready_of (by decide +kernel),
    ready_of (by decide +kernel), by decide +kernel, ready_of (by decide +kernel), by decide +kernel, by decide +kernel⟩
/-- PRG with SVC and breakpoints routed to SUP. -/
def routed : State := coreIs fun c => { c with level := 0, route := ⟨true, true, true, true, true⟩ }
theorem witness_TrapEntryAndReturn :
    coreReady routed 0 ∧ coreReady (coreIs fun c => { c with level := 1, sup := { c.sup with prev := 2 } }) 0 ∧
    (coreAt routed 0).level = 0 ∧ (coreAt routed 0).route.svc = true ∧ (coreAt routed 0).route.brk = true ∧
    (1 ≤ (coreAt home 0).level ∧ (coreAt home 0).mon.prev ≤ (coreAt home 0).level) ∧
    coreRuns (coreIs fun c => { c with irq := true }) 0 = true ∧ irqDue (coreIs fun c => { c with irq := true }) 0 = true :=
  ⟨ready_of (by decide +kernel), ready_of (by decide +kernel), by decide +kernel⟩

/-- Tile T1 of the core with a shape of `rows` rows of `words` words. -/
def tiled (rows words : Nat) (c : Core) : Core := { c with tiles := c.tiles.set 1 ⟨true, rows - 1, words - 1, true, .replicate 16 (.replicate 256 7)⟩ }
/-- An earlier tile instruction of the core stalls. -/
def stalledTile : State := coreIs fun c => { c with tileStall := true }
theorem witness_TileInstructions :
    coreReady (coreIs (tiled 16 64)) 0 ∧ coreReady stalledTile 0 ∧ ((coreAt (coreIs (tiled 16 64)) 0).tiles.get 1).conf = true ∧
    xNat (coreIs (tiled 16 64)) 0 2 ≤ ((coreAt (coreIs (tiled 16 64)) 0).tiles.get 1).rowsM1 ∧ (248 : Nat) % 8 = 0 ∧
    248 + 8 ≤ 4 * (((coreAt (coreIs (tiled 16 64)) 0).tiles.get 1).bprwM1 + 1) ∧
    4 * (((coreAt (coreIs (tiled 1 1)) 0).tiles.get 1).bprwM1 + 1) < 0 + 8 ∧ ((coreAt home 0).tiles.get 1).conf = false ∧
    (0x8F3F < 2 ^ 16 ∧ bits 0x8F3F 12 3 = 0 ∧ bits 0x8F3F 6 2 = 0) ∧ ¬ (bits 0x8F40 6 2 = 0) ∧
    (coreAt (coreIs (tiled 16 64)) 0).tileStall = false ∧ (coreAt stalledTile 0).tileStall = true :=
  ⟨ready_of (by decide +kernel), ready_of (by decide +kernel), by decide +kernel⟩
def summed (n : Nat) : State := inHome fun c => tiled 2 4 { c with sumqs := c.sumqs.set 0 ⟨List.replicate n ⟨5, 1, 0, 2, 0⟩, 1, false⟩ }
theorem witness_SummaryPops :
    coreReady (summed 1) 0 ∧ coreReady (summed 0) 0 ∧ coreReady (summed 3) 0 ∧ (coreAt (summed 1) 0).ctx = (0 : Hh).val ∧
    ((coreAt (summed 1) 0).sumqs.get 0).ents = ⟨5, 1, 0, 2, 0⟩ :: [] ∧ ((coreAt (summed 0) 0).sumqs.get 0).ents = [] ∧
    ((coreAt (summed 3) 0).tiles.get 1).conf = true ∧ 16 ≤ 4 * (((coreAt (summed 3) 0).tiles.get 1).bprwM1 + 1) ∧
    ((coreAt (summed 3) 0).tiles.get 1).rowsM1 < 16 :=
  ⟨ready_of (by decide +kernel), ready_of (by decide +kernel), ready_of (by decide +kernel), by decide +kernel⟩
theorem witness_DebugHaltAndStep : agentUp home .house = true ∧ ownRegion .house 0 = true ∧ regionUp home 0 = true ∧
    agentUp home (.cc 0) = true ∧ ownRegion (.cc 0) 0 = true := by decide +kernel

theorem cacheOk_none {s : State} (h1 : (coreAt s 0).cache = []) (h2 : spWf 0 s.cellar.mem = true) (h3 : s.cellar.retired = none) :
    CacheOk s 0 := ⟨by simp [h1], by simp [h1], by simp [h1], h2, h3⟩
theorem home_cacheOk : CacheOk home 0 := cacheOk_none (by decide +kernel) (by decide +kernel) (by decide +kernel)
theorem home_frames : openFrames (fetched (inHome id) 0) 0 0x10000 8 = .ok (fetched (inHome id) 0) := by
  have e : xlate (fetched (inHome id) 0) 0 true .write 0x10000 = .ok ⟨2 ^ 34 + 65536, false, true, true, true⟩ := by decide +kernel
  simp [openFrames, e]
/-- A load or a store of the two bytes at CPA 0x5000 in context 16; at 16 GiB and above, in the context of household 0; in
the range of BAR0; misaligned; past the mapped range. -/
theorem witness_CoreAccess :
    let f := fetched home 0
    let g := fetched (inHome id) 0
    coreReady home 0 ∧ CacheOk home 0 ∧ coreReady (inHome id) 0 ∧ CacheOk (inHome id) 0 ∧ openFrames g 0 0x10000 8 = .ok g ∧
    inBar home 0 0x5000 = false ∧ 0x5000 % 2 ^ (1 : Fin 4).val = 0 ∧ coreFault f 0 .read 0x5000 2 = none ∧
    coreFault f 0 .write 0x5000 2 = none ∧ (∀ c ∈ coreCpas f 0 .read 0x5000 2, poisoned home c = false) ∧
    (coreCpas f 0 .write 0x5000 2).Nodup ∧ coreHh home 0 = none ∧ inBar home 0 0x8000001000 = true ∧ (0x8000001000 : Nat) % 4 = 0 ∧
    inBar (inHome id) 0 (2 ^ 34) = false ∧ coreFault g 0 .read (2 ^ 34) 8 = some (stTrans, 2 ^ 34) ∧
    coreFault g 0 .write (2 ^ 34) 8 = some (stTrans, 2 ^ 34) ∧ coreHh (inHome id) 0 = some 0 ∧ commitHolds g 0 0x10000 8 = false ∧
    coreFault g 0 .write 0x10000 8 = none ∧ (coreCpas g 0 .write 0x10000 8).Nodup :=
  ⟨home_ready, home_cacheOk, ready_of (by decide +kernel),
    cacheOk_none (by decide +kernel) (by decide +kernel) (by decide +kernel), home_frames, by decide +kernel⟩
theorem witness_FenceAndInvalidate : coreReady home 0 ∧ CacheOk home 0 ∧ coreHh home 0 = none ∧
    xNat home 0 1 ≤ 0 ∧ (0 : Nat) < xNat home 0 1 + xNat (coreIs (setX 2 64)) 0 2 :=
  ⟨home_ready, home_cacheOk, by decide +kernel, by decide +kernel, by decide +kernel⟩
def tileHome : State := coreIs fun c => tiled 2 1 (setX 2 64 (setX 1 0x40 c))
theorem witness_TileMovesByRows :
    coreReady tileHome 0 ∧ CacheOk tileHome 0 ∧ coreHh tileHome 0 = none ∧ ((coreAt tileHome 0).tiles.get 1).conf = true ∧
    ((coreAt tileHome 0).tiles.get 1).rowsM1 < 16 ∧ ((coreAt tileHome 0).tiles.get 1).bprwM1 < 64 ∧ xNat tileHome 0 1 % 4 = 0 ∧
    xNat tileHome 0 2 % 4 = 0 ∧ xNat tileHome 0 2 ≠ 0 ∧
    (∀ i < 2, (xNat tileHome 0 1 + i * xNat tileHome 0 2) % 2 ^ 64 + 4 ≤ 2 ^ 39) ∧
    ∀ i < 2, ∀ j < 4, poisoned tileHome ((xNat tileHome 0 1 + i * xNat tileHome 0 2) % 2 ^ 64 + j) = false :=
  ⟨ready_of (by decide +kernel), cacheOk_none (by decide +kernel) (by decide +kernel) (by decide +kernel), by decide +kernel⟩
theorem witness_TileSaveAndRestore : coreReady tileHome 0 ∧ CacheOk tileHome 0 ∧ coreHh tileHome 0 = none ∧ xNat tileHome 0 1 % 64 = 0 ∧
    xNat tileHome 0 1 + (saveImage (coreAt tileHome 0)).length ≤ 2 ^ 39 ∧ headOk ((saveImage (coreAt tileHome 0)).take 64) = true ∧
    ∀ t, (((coreAt tileHome 0).tiles.get t).rowsM1 < 16 ∧ ((coreAt tileHome 0).tiles.get t).bprwM1 < 64) ∧
      (((coreAt tileHome 0).tiles.get t).live = true → ((coreAt tileHome 0).tiles.get t).conf = true) :=
  ⟨ready_of (by decide +kernel), cacheOk_none (by decide +kernel) (by decide +kernel) (by decide +kernel), by decide +kernel,
    by decide +kernel, by decide +kernel, by decide +kernel, by decide +kernel⟩
/-- Memory that holds the save area of the tile file. -/
def savedHome : State := cWrite tileHome 0x40 (saveImage (coreAt tileHome 0))
def savedArea (k : Nat) : List Byte := (List.range k).map fun i => coreByte savedHome 0 (0x40 + i)
theorem witness_TileRestore : headOk (savedArea 64) = true ∧ 0x40 + areaOff (savedArea 64) 8 ≤ 2 ^ 39 ∧
    ∀ i < areaOff (savedArea 64) 8, poisoned savedHome (0x40 + i) = false := by decide +kernel
end Sys2Proof.Tests
end

