-- ==== Sys2Proof/Tests/WitnessQueue.lean ====
section
/-! SUPPORT. States that meet the hypotheses of the statements on pushes, registers, queues, sequencers and registers. -/

namespace Sys2Proof.Tests
open Machine
set_option Elab.async false

/-- A record in X4 to X7 is pushed to cluster 0, engine 4; X3 names the queue. -/
def pushing : State := inHome (setX 3 0x400)
/-- A full queue of that engine. -/
def crowded : State := upSet pushing 0 0 fun t => { t with queues := t.queues.set 4 ⟨List.replicate 64 (work (rec0 0x80 0) .none .none .none), 65, false, 0, 0⟩ }
theorem witness_EnginePushes :
    coreReady pushing 0 ∧ coreHh pushing 0 = some 0 ∧
    ((selQueue (xNat pushing 0 3)).any fun q => !isAbsent pushing q && mayPush pushing 0 q && (entryWait pushing q 0).isNone) = true ∧
    (4 : XReg).val % 4 = 0 ∧ (4 : XReg) ≠ 0 ∧ (5 : XReg).val % 4 ≠ 0 ∧ ((coreAt (inHome (tiled 2 8)) 0).tiles.get 1).conf = true ∧
    32 ≤ 4 * (((coreAt (inHome (tiled 2 8)) 0).tiles.get 1).bprwM1 + 1) :=
  ⟨ready_of (by decide +kernel), by decide +kernel⟩
theorem witness_EnginePushRefusals : selQueue (xNat (inHome (setX 3 0x10000)) 0 3) = none ∧
    coreReady crowded 0 ∧ ((selQueue (xNat crowded 0 3)).any fun q => (entryWait crowded q 0).isSome && mayPush crowded 0 q && !isAbsent crowded q) = true ∧
    mayPush pushing 0 (.cluster 1 4) = false ∧ isAbsent pushing (.cluster 1 4) = false ∧
    isAbsent { pushing with map := pushing.map.set 1 0x3F } (.cluster 1 4) = true ∧ coreHh home 0 = none :=
  ⟨by decide +kernel, ready_of (by decide +kernel), by decide +kernel⟩

theorem witness_RegisterFieldsFlagsAndCounters : pfOrHouse .pf = true ∧ pfOrHouse .house = true ∧ agentUp home (.cc 0) = true ∧
    (∀ h, Agent.cc 0 ≠ .vf h) ∧ home.discCount < 2 ^ 16 := ⟨rfl, rfl, by decide +kernel, (by intro h; simp), by decide +kernel⟩
theorem witness_RefusedAccesses : agentUp home (.vf 0) = true ∧ (5 : Nat) ≠ 4 ∧ agentUp (inHome id) (.cc 0) = false ∧ agentUp home (.vf 1) = false ∧
    hhCommandOf (.txCommit (.vf 0) 1) = some (.vf 0, 1) ∧ houseCommandOf (.sbGo (.vf 0)) = some (.vf 0) ∧ pfOrHouse (.vf 0) = false ∧
    clCommandOf (.xsqStop (.vf 0) 1) = some (.vf 0, 1) ∧ vfSees home 0 1 = false ∧
    siteOf { home with map := home.map.set 1 0x3F } 1 = none ∧ clCommandOf (.psSkip .pf 0) = some (.pf, 0) ∧
    siteOf State.reset 0 = some 0 ∧ siteWritable (upSite home 0 fun c => { c with inReset := true }) 0 = false :=
  ⟨by decide +kernel, by decide, by decide +kernel, by decide +kernel, rfl, rfl, rfl, rfl, by decide +kernel, by decide +kernel, rfl,
    by decide +kernel, by decide +kernel⟩
theorem home_open {a : Agent} (h : a = .vf 0 ∨ a = .pf) : clusterOpen home a 0 0 := by
  rcases h with rfl | rfl
  · exact ⟨by decide +kernel, by decide +kernel, by decide +kernel, fun h e => by injection e with e; subst e; decide +kernel⟩
  · exact ⟨by decide +kernel, by decide +kernel, by decide +kernel, fun h e => by cases e⟩
theorem home_hhOpen : hhOpen home (.vf 0) 0 := ⟨by decide +kernel, fun g e => by injection e with e; exact e.symm⟩
theorem witness_SemaphoreWrite : clusterOpen home (.vf 0) 0 0 ∧ liveSet home 0 = some (0, 0) := ⟨home_open (.inl rfl), home_live⟩
theorem witness_TableAndRingRegisterWrites : hhOpen home (.vf 0) 0 := home_hhOpen

/-- One queued command of household 0 at an engine of cluster 0. -/
def waiting (en : Fin 5) (r : Record) : State := atWork en { work r .none .none .none with phase := .queued }
/-- SETGEO of slot 1 to words of 4 bytes, 1,024 in a row. -/
def geoRec : Record := ⟨0x9F, 0, 0, 0, 1, 2 + 1024 * 2 ^ 38, 0, 0⟩
def verdict (d : Decoded) : Option Nat := match d with
  | .good .. => none
  | .bad st _ => some st
/-- What the clauses ask of the next command: its verdict, and whether its WAIT holds it. -/
def starts (s : State) (v : Option Nat) (wait held : Bool) : Bool := (nextToStart s (.cluster 0 4)).any fun e =>
  e.t0.isNone && (verdict (decode s (.cluster 0 4) e) == v) && e.cmd.waitEn == wait && !e.cmd.credit && (takeWait s (.cluster 0 4) e).isNone == held
theorem witness_CommandsStart : nextToStart home (.cluster 0 4) = none ∧ starts (waiting 4 (rec0 0x80 0)) none false false = true ∧
    starts (waiting 4 (rec0 0xA0 0)) (some stBadOpcode) false false = true ∧ stBadOpcode ≠ stEngAbsent ∧
    starts (waiting 4 ⟨0x80, 0, 0x80, 0, 0, 0, 0, 0⟩) none true true = true ∧
    starts (upSet (waiting 4 ⟨0x80, 0, 0x8F, 0, 0, 0, 0, 0⟩) 0 0 fun t => { t with sems := t.sems.set 15 ⟨1, false⟩ }) none true false = true := by decide +kernel
/-- The next command of a queue starts now: it waits for nothing, and it decodes, or fails with a status. -/
def goes (s : State) (q : QueueId) (v : Option Nat) : Bool := (nextToStart s q).any fun e =>
  e.phase == .queued && e.t0.isNone && !semYields s q e && (match takeWait s q e with
    | some s1 => match decode s1 q e with
      | .good a _ d => v.isNone && !poolWaits s q e a false && !poolWaits s q e d true
      | .bad st none => v == some st
      | .bad _ (some _) => false
    | none => false)
/-- A WAIT on semaphore 1 at the head of engine queue 4, and at the head of queue 0, which comes first. -/
def rivals : State := upSet (waiting 4 ⟨0x80, 0, 0x81, 0, 0, 0, 0, 0⟩) 0 0 fun t => { t with
  sems := t.sems.set 1 ⟨1, false⟩
  queues := t.queues.set 0 ⟨[{ work ⟨0x00, 0, 0x81, 0, 0, 0, 0, 0⟩ .none .none .none with phase := .queued }], 2, false, 0, 0⟩ }
/-- A pantry operand of 1,024 words at byte 128 b. -/
def pantryField (b : Nat) : Nat := 2 ^ 61 + b * 2 ^ 40 + 1024 * 2 ^ 22
/-- GATHER at the head of the PME's queue, with the landing buffers of its region as `f` has them. -/
def gathering (f : Vector (Option (Fin 34)) 2 → Vector (Option (Fin 34)) 2) : State :=
  upReg (waiting 2 ⟨0x43, 0, 0, 0, 0, pantryField 0, pantryField 32, pantryField 64⟩) 0 fun g => { g with landing := f g.landing }
/-- The landing buffer that the head of the PME's queue takes; none where that command takes none. -/
def turnOf (s : State) : Option (Option (Fin 2)) := match nextToStart s (.cluster 0 2) with
  | none => none
  | some e => if needsLanding e.cmd && !noOperands e.cmd && pmeOwnsLanding s 0 then some (landingTurn s 0 (0, e.hh, e.seq)) else none
/-- A COPY between the pantries of clusters 1 and 0, with cluster 1 retired; and one that has been resumed. -/
def copying (r : Record) (p : Phase) : State := upReg { home with map := home.map.set 1 0x3F } 0 fun g =>
  { g with mve := { g.mve with ents := [{ newEntry home 0 r (some 0) 0xFFFFFFFF false with phase := p }] } }
theorem witness_CommandStartCases : goes (waiting 4 (rec0 0x80 0)) (.cluster 0 4) none = true ∧
    goes (waiting 4 (rec0 0xA0 0)) (.cluster 0 4) (some stBadOpcode) = true ∧
    goes (copying ⟨0xA1, 0, 0, 0, 2 ^ 30, pantryField 0, 0, pantryField 32⟩ .queued) (.mve 0) (some stEngAbsent) = true ∧
    ((nextToStart (copying (rec0 0xA1 0) .resumed) (.mve 0)).any fun e => e.phase == .resumed) = true ∧
    ((nextToStart rivals (.cluster 0 4)).any fun e => semYields rivals (.cluster 0 4) e && (takeWait rivals (.cluster 0 4) e).isSome) = true ∧
    goes (gathering id) (.cluster 0 2) none = true ∧ turnOf (gathering id) = some (some 1) ∧
    goes (gathering fun v => v.set 1 (some 3)) (.cluster 0 2) none = true ∧ turnOf (gathering fun v => v.set 1 (some 3)) = some none := by decide +kernel
/-- A timed NOP whose schedule check finds another generation. -/
def timedNop : Entry := { work (rec0 0x80 0) .none .none .none with t0 := some 5, checks := [⟨false, 3, 9⟩] }
theorem witness_NopViolation : liveSet (atWork 4 timedNop) 0 = some (0, 0) ∧
    ((qEnts (atWork 4 timedNop) (.cluster 0 4)).find? fun e => e.phase == .running && e.cmd.op == 0) = some timedNop ∧
    timedNop.t0.isSome = true ∧ checksPass (atWork 4 timedNop) 0 timedNop = false := by decide +kernel
theorem witness_NopAndSetgeo : liveSet (atWork 4 (work geoRec .none .none .none)) 0 = some (0, 0) ∧
    ((qEnts (atWork 4 (work geoRec .none .none .none)) (.cluster 0 4)).find? fun e => e.phase == .running && e.cmd.op == 31) = some (work geoRec .none .none .none) ∧
    ((qEnts (atWork 4 (work (rec0 0x80 0) .none .none .none)) (.cluster 0 4)).find? fun e => e.phase == .running && e.cmd.op == 0) = some (work (rec0 0x80 0) .none .none .none) ∧
    (0 < geoRec.mod ∧ geoRec.mod < 16) ∧ bits geoRec.opa 0 2 ≠ 3 ∧ 0 < bits geoRec.opa 38 18 ∧ bits geoRec.opa 38 18 ≤ 131072 ∧
    bits geoRec.opa 56 8 = 0 ∧ bits geoRec.opa 2 14 ≠ 1 := by decide +kernel

/-- A finished command with WAIT, SIGNAL and REPORT clear, in compute queue 0. -/
def finished (st : Nat) : Entry := { work (rec0 0x00 0) .none .none .none with phase := .done, status := st }
/-- The ring of household 0 is in use, at VA 0x20000. -/
def ringed (s : State) : State := upCmd s 0 fun c => { c with cqEnable := true, cqBase := 0x20000 }
theorem witness_CommandsComplete : completing home (.cluster 0 0) = none ∧ completing (atWork 0 (finished stOk)) (.cluster 0 0) = some (finished stOk) ∧
    (finished stOk).phase = .done ∧ (finished stOk).summary = none ∧ frozenFor (atWork 0 (finished stOk)) 0 0 = false ∧ (finished stOk).cmd.handoff = false ∧
    (hhAt (atWork 0 (finished stOk)) 0).cmd.cqWait = [] ∧ ¬ ((finished stOk).cmd.report = true ∨ (finished stOk).status ≠ stOk) ∧
    completing (ringed (atWork 0 (finished stRange))) (.cluster 0 0) = some (finished stRange) ∧
    (hhAt (ringed (atWork 0 (finished stRange))) 0).cmd.cqEnable = true ∧ ringState (ringed (atWork 0 (finished stRange))) 0 = .free ∧
    modeOf (ringed (atWork 0 (finished stRange))) 0 ≠ 2 ∧ (hhAt (ringed (atWork 0 (finished stRange))) 0).tx.opened = false ∧
    (finished stRange).status ≠ stAbft := by decide +kernel
/-- An OK command of the stream unit with HANDOFF to queue 2, which holds n fields; SIGNAL is 5. -/
def handing (n : Nat) : State := upSet (atWork 4 { work ⟨0x80, 0x22, 0, 0x85, 0, 0, 0, 0⟩ .none .none (.pantry (rowsAt 0 1) 7) with phase := .done }) 0 0
  fun t => { t with hqs := t.hqs.set 2 (.replicate n 1) }
/-- What the clauses ask of a command that is over. -/
def endsAt (s : State) (q : QueueId) (h : Hh) (p : Phase) (ok : Bool) : Bool := (completing s q).any fun e =>
  e.hh == h && e.phase == p && (e.status == stOk) == ok && e.summary.isNone && !e.worded && !e.keyFail && !e.fromPsq && !queueFrozen s q &&
  e.status != stAbft && (hhAt s h).cmd.cqWait.isEmpty && (!(e.cmd.report || e.status != stOk) || ((hhAt s h).cmd.cqEnable && ringState s h == .free))
theorem home_calm : calm home := by
  refine ⟨fun i => ?_, by decide +kernel⟩
  revert i
  decide +kernel
theorem witness_CompletionCases : calm (atWork 0 (finished stOk)) ∧ endsAt (atWork 0 (finished stOk)) (.cluster 0 0) 0 .done true = true ∧
    endsAt (ringed (atWork 0 (finished stRange))) (.cluster 0 0) 0 .done false = true ∧
    endsAt (ringed (atWork 0 { finished stTrans with phase := .faulted })) (.cluster 0 0) 0 .faulted false = true ∧
    endsAt (handing 15) (.cluster 0 4) 0 .done true = true ∧ ((completing (handing 15) (.cluster 0 4)).any fun e =>
      handoffOf (handing 15) (.cluster 0 4) e == some (0, 2, 7) && e.cmd.sigEn && e.t0.isNone) = true ∧
    endsAt (handing 16) (.cluster 0 4) 0 .done true = true ∧ 16 ≤ ((setAt (handing 16) 0 0).hqs.get 2).length ∧
    modeOf (ringed (atWork 0 (finished stRange))) 0 ≠ 2 :=
  ⟨⟨home_calm.1, home_calm.2⟩, by decide +kernel⟩
/-- A word that waits for the ring. -/
def holding (s : State) : State := upCmd s 0 fun c => { c with cqWait := [⟨List.replicate 16 0, none⟩] }
/-- A ring outside the mapped range. -/
def lostRing : State := upCmd (holding home) 0 fun c => { c with cqEnable := true, cqBase := 2 ^ 34 }
theorem witness_CompletionRing : ((walk (ringed home) 0 0x20000).any fun p => !p.tx && p.frame % 65536 == 0) = true ∧
    (hhAt (ringed home) 0).cmd.cqBase % 16 = 0 ∧ (ringed home).cellar.retired = none ∧ spWf 0 (ringed home).cellar.mem = true ∧
    (hhAt home 0).cmd.cqWait = [] ∧ ringState (holding (ringed home)) 0 = .free ∧ ringState lostRing 0 = .fault stTrans (2 ^ 34) ∧
    (hhAt lostRing 0).cmd.cqFault = false := by decide +kernel
theorem witness_ResumeAndFlush :
    clusterOpen home .pf 0 0 ∧ liveSet home 0 = some (0, 0) ∧ calm home ∧ modeOf home 0 ≠ 2 ∧ (hhAt home 0).tx.opened = false ∧
    (∀ y ∈ ((setAt home 0 0).queues.get 0).ents, y.hh = 0) ∧ agentUp home .house = true ∧ ownRegion .house 0 = true ∧
    regionUp home 0 = true ∧ larderUp home 0 = true ∧
    ∀ y ∈ (regAt home 0).larder.ents, ¬ (y.hh = 0 ∧ y.phase = .suspended ∧ y.cmd.opcode = 0xC1) :=
  ⟨home_open (.inr rfl), home_live, home_calm, by decide +kernel⟩

/-- Household 0 in decoupled mode (1) or timed mode (2), with an XSQ. -/
def xsqOf (mode : Nat) (f : Xsq → Xsq) : State :=
  homeOf { lease0 with mode := mode, sched := true } fun t => { t with xsq := f t.xsq }
/-- A program of one record in line 0 of its cache. -/
def running (mode : Nat) (raw : List Byte) (f : Xsq → Xsq) : State :=
  xsqOf mode fun x => f { x with run := true, cache := [(0, raw ++ List.replicate (1024 - raw.length) 0)] }
def xrec (op ctrl delta mod opa : Nat) : List Byte :=
  leBytes 1 op ++ leBytes 1 ctrl ++ leBytes 2 delta ++ leBytes 4 mod ++ leBytes 8 opa ++ leBytes 16 0
theorem witness_SequencerControl :
    clusterOpen home .pf 0 0 ∧ calm (xsqOf 1 fun x => { x with halting := true }) ∧ liveSet (xsqOf 1 id) 0 = some (0, 0) ∧
    modeOf (xsqOf 1 id) 0 ≠ 0 ∧ (setAt (xsqOf 1 id) 0 0).xsq.run = false ∧ (hhAt (xsqOf 1 id) 0).lease.isSome = true ∧
    frozenFor (xsqOf 1 fun x => { x with run := true }) 0 5 = false ∧
    (∀ l ∈ (setAt (xsqOf 1 fun x => { x with run := true }) 0 0).xsq.cache, l.1 ≠ 0) ∧ (hhAt (xsqOf 1 id) 0).cmd.cqEnable = false ∧
    hRead (xsqOf 1 fun x => { x with run := true, base := 2 ^ 34 }) 0 true .read (2 ^ 34) 1024 = .error (.fault stTrans (2 ^ 34)) ∧
    (let x := (setAt (xsqOf 1 id) 0 0).xsq
     x.suspended = false ∧ x.halting = false ∧ x.due = none) ∧
    (setAt (xsqOf 1 fun x => { x with halting := true }) 0 0).xsq.halting = true ∧
    (setAt (xsqOf 1 fun x => { x with suspended := true }) 0 0).xsq.suspended = true ∧ modeOf (xsqOf 2 id) 0 = 2 :=
  ⟨home_open (.inr rfl), ⟨home_calm.1, home_calm.2⟩, by decide +kernel⟩
theorem witness_SequencerControl_fill : hRead (xsqOf 1 fun x => { x with run := true, base := 0x30000 }) 0 true .read 0x30000 1024 = .ok (List.replicate 1024 0) :=
  mapped_hRead ⟨by decide +kernel, fun a _ => rfl⟩ .read 0x30000 1024 (by decide) (fun _ _ => rfl) (by decide +kernel)
/-- What the clauses of the records ask of a state. -/
def atRecord (s : State) (op : Nat) (timed : Bool) : Bool := match xsqNext s 0 with
  | some (i, h, r) => (xsqBytes (setAt s i h).xsq ((setAt s i h).xsq.pc + 1)).isSome && (hhAt s h).cmd.cqWait.isEmpty && r.opcode == op && h == 0 && modeOf s 0 != 0 && (modeOf s 0 == 2) == timed && timed == (r.delta != 0) && r.opb == 0 && r.opd == 0
  | none => false
theorem witness_SequencerRecords : atRecord (running 1 (xrec 0xE0 0 0 0 0) id) 0xE0 false = true ∧ atRecord (running 2 (xrec 0xE1 0 1 65535 0) id) 0xE1 true = true ∧
    atRecord (running 1 (xrec 0xE2 0 0 0 0) fun x => { x with loops := [⟨0, 0⟩] }) 0xE2 false = true ∧
    atRecord (running 1 (xrec 0xE2 0 0 0 0) fun x => { x with loops := [⟨31, 65535⟩] }) 0xE2 false = true ∧
    (xsqBytes (setAt (running 1 (xrec 0xE2 0 0 0 0) id) 0 0).xsq 31).isSome = true ∧
    (let x := (setAt (running 1 (xrec 0xE5 0 0 0 0) id) 0 0)
     x.xsq.worded = false ∧ x.psq.busy = false ∧ x.queues.all fun q => decide (q.ents.length < 64)) ∧
    (let s := upSet (running 1 (xrec 0x60 0 0 0 0) id) 0 0 fun t => { t with queues := vmod t.queues 3 fun q => { q with halted := true } }
     atRecord s 0x60 false = true ∧ ((setAt s 0 0).queues.get 3).halted = true) ∧
    atRecord (ringed (running 1 (xrec 0xE5 0 0 0 0) id)) 0xE5 false = true ∧ ringState (ringed (running 1 (xrec 0xE5 0 0 0 0) id)) 0 = .free ∧
    xsqInflight (setAt (running 1 (xrec 0xE5 0 0 0 0) id) 0 0) = false ∧
    atRecord (running 1 (xrec 0xE3 38 0 0 (5 * 2 ^ 61 + 0xFFFFFFFF)) id) 0xE3 false = true ∧
    ((setAt (running 1 (xrec 0xE3 38 0 0 (5 * 2 ^ 61)) id) 0 0).hqs.get 6).length < 16 ∧
    atRecord (running 1 (xrec 0x00 0 0 0 0) id) 0x00 false = true ∧ (∀ j : Fin 5, j.val < 4 → ((setAt (running 1 (xrec 0x00 0 0 0 0) id) 0 0).queues.get j).halted = false) ∧
    (xsqNext (running 2 (xrec 0xE4 0 0 (2 ^ 15 + 63 * 2 ^ 8 + 255) 0) id) 0).isSome = true ∧ schedOn (running 2 (xrec 0xE4 0 0 0 0) id) 0 = true ∧
    schedOn (running 1 (xrec 0xE4 0 0 0 0) id) 0 = false ∧ (xsqBytes (setAt (running 2 (xrec 0xE4 0 0 0 0) id) 0 0).xsq 1).isSome = true ∧
    (setAt (xsqOf 2 fun x => { x with adv := [(5, 63, false)] }) 0 0).xsq.adv = [] ++ (5, 63, false) :: [] := by decide +kernel
end Sys2Proof.Tests
end

