-- ==== Sys2Proof/Tests/WitnessEngine.lean ====
section
/-! SUPPORT. Commands of the compute engines at work that meet the hypotheses of the statements on engines. -/

namespace Sys2Proof.Tests
open Machine
set_option Elab.async false

/-- Sources below an address and a destination from it on lie apart. -/
theorem apart_below {a d : Tensor} (m : Nat) (h : ((List.range (rowCount a)).all (fun r => decide (rowAddr a r + rowBytes a ≤ m)) &&
    (List.range (rowCount d)).all fun r => decide (m ≤ rowAddr d r)) = true) : apartOrSame a d := by
  refine .inr fun x hx => ?_
  simp only [Bool.and_eq_true, List.all_eq_true, List.mem_range, decide_eq_true_eq] at h
  simp only [covers, List.any_eq_true, List.mem_range, Bool.and_eq_true, decide_eq_true_eq] at hx
  obtain ⟨r, hr, -, lt⟩ := hx
  simp only [covers, List.any_eq_false, List.mem_range, Bool.and_eq_true, decide_eq_true_eq, not_and]
  intro r' hr' le
  have := h.1 r hr
  have := h.2 r' hr'
  omega
/-- The command of an engine is at work on site 0, and no key window stands in its way. -/
def engaged (s : State) (en : Fin 5) (op : Nat) (e : Entry) : Prop := AtWork s 0 en op 0 e ∧ windowsClear s 0 e
theorem engaged_of {s : State} {en : Fin 5} {op : Nat} {e : Entry} (h : (decide (liveSet s 0 = some (0, e.hh)) && !(siteAt s 0).inReset &&
    !frozenFor s 0 en.val && !switching s 0 && decide (runningEntry s (.cluster 0 en) op = some e) && e.t0.isNone &&
    siteMemOk (siteAt s 0) && !hitsWindow (setAt s 0 e.hh) e.opD && decide (verdictOf s 0 e = .go)) = true) : engaged s en op e := by
  simp only [Bool.and_eq_true, decide_eq_true_eq, Bool.not_eq_true', Option.isNone_iff_eq_none] at h
  obtain ⟨⟨⟨⟨⟨⟨⟨⟨h1, h2⟩, h3⟩, h4⟩, h5⟩, h6⟩, h7⟩, h8⟩, h9⟩ := h
  exact ⟨⟨h1, ⟨h2, h3, h4⟩, h5, h6, h7⟩, h8, h9⟩
def apart (t : Tensor) : Bool := (List.range (rowCount t)).all fun r => decide (rowAddr t r % 128 = 0) && (List.range (rowCount t)).all fun r' =>
  decide (r = r') || decide (rowAddr t r + rowBytes t ≤ rowAddr t r') || decide (rowAddr t r' + rowBytes t ≤ rowAddr t r)
theorem rows_apart {t : Tensor} (h : (decide (0 < t.e ∧ 0 < t.inner) && apart t) = true) : RowsApart t := by
  simp only [apart, Bool.and_eq_true, List.all_eq_true, List.mem_range, decide_eq_true_eq, Bool.or_eq_true] at h
  exact ⟨h.1, fun r hr => (h.2 r hr).1, fun r hr r' hr' ne => by
    rcases (h.2 r hr).2 r' hr' with (h | h) | h
    · exact absurd h ne
    · exact .inl h
    · exact .inr h⟩

/-- A modulus set over prime 0. -/
def mset0 : MSet := ⟨true, List.replicate 512 0, List.replicate 128 0⟩
/-- A command of an engine with modulus set 1 loaded. -/
def withSet (en : Fin 5) (e : Entry) : State := upSet (atWork en e) 0 0 fun t => { t with msets := t.msets.set 1 mset0 }
def mmA (e : Nat) : Tensor := ⟨0, 16, 2, 1, e, 128, 0⟩
def mmB (e : Nat) : Tensor := ⟨4096, 4, 2, 1, e, 128, 0⟩
def mmD : Tensor := ⟨8192, 16, 4, 1, 4, 128, 0⟩
def mmWork (fm dest e : Nat) (d : Opnd) : Entry := work (rec0 0x01 (fm * 2 ^ 27 + dest * 2 ^ 25 + if fm = 0 then 2 ^ 22 else 0)) (.pantry (mmA e) 0) (.pantry (mmB e) 0) d
/-- The hypotheses that the clauses of MM share. -/
def mmReady (en : Entry) (a b : Tensor) (fm : Nat) : Prop := engaged (withSet 0 en) 0 0x01 en ∧ mmCase (withSet 0 en) 0 en = .ok (a, b) ∧
  mmSeals (viewOf (siteAt (withSet 0 en) 0)) a b (fm == 5) = none
/-- Operands of four bit planes each, 256 bytes apart. -/
def planesA : Tensor := ⟨0, 16, 2, 4, 1, 128, 256⟩
def planesB : Tensor := ⟨4096, 4, 2, 4, 1, 128, 256⟩
def int4Work : Entry := work (rec0 0x01 (5 * 2 ^ 27 + 2 * 2 ^ 25)) (.pantry planesA 0) (.pantry planesB 0) (.pantry mmD 0)
theorem int4_apart (x : Nat) (h : planeCovers planesA x = true ∨ planeCovers planesB x = true) : covers mmD x = false := by
  have low : ∀ t : Tensor, ((List.range (rowCount t)).all fun r => decide (rowAddr t r + checkRowBytes t true ≤ 8192)) = true →
      planeCovers t x = true → x < 8192 := by
    intro t ht hx
    simp only [planeCovers, List.any_eq_true, List.all_eq_true, List.mem_range, Bool.and_eq_true, decide_eq_true_eq] at ht hx
    obtain ⟨r, hr, -, lt⟩ := hx
    have := ht r hr
    omega
  have hx : x < 8192 := h.elim (low _ (by decide)) (low _ (by decide))
  have hd : ∀ r < rowCount mmD, 8192 ≤ rowAddr mmD r := by decide
  simp only [covers, List.any_eq_false, List.mem_range, Bool.and_eq_true, decide_eq_true_eq, not_and]
  intro r hr le
  have := hd r hr
  omega
theorem witness_MatrixMultiply : (hhAt home 0).lease = some lease0 ∧ mmReady (mmWork 1 1 1 (.imm 5)) (mmA 1) (mmB 1) 1 ∧
    mmReady (mmWork 0 2 4 (.pantry mmD 0)) (mmA 4) (mmB 4) 0 ∧ mmReady int4Work planesA planesB 5 ∧
    (∀ x, planeCovers planesA x = true ∨ planeCovers planesB x = true → covers mmD x = false) ∧
    RowsApart mmD ∧ apartOrSame (mmA 4) mmD ∧ apartOrSame (mmB 4) mmD ∧
    (let f : SumFault := ⟨15, 127, -1⟩
     f.off ≠ 0 ∧ f.pos < (mmA 4).inner ∧ f.col < 128 * 2 ^ 0) :=
  ⟨rfl, ⟨engaged_of (by decide +kernel), by decide +kernel, by decide +kernel⟩, ⟨engaged_of (by decide +kernel), by decide +kernel, by decide +kernel⟩,
    ⟨engaged_of (by decide +kernel), by decide +kernel, by decide +kernel⟩, int4_apart,
    rows_apart (by decide), apart_below 8192 (by decide), apart_below 8192 (by decide), by decide⟩

def keyA : Tensor := ⟨0, 32, 2, 1, 4, 128, 0⟩
def keyB : Tensor := ⟨4096, 32, 2, 2, 4, 128, 256⟩
def keyD : Tensor := ⟨8192, 32, 2, 2, 4, 128, 256⟩
def keyWork (d : Opnd) (dest : Nat) : Entry := work (rec0 0x03 (dest * 2 ^ 25 + 2 ^ 22)) (.pantry keyA 0) (.pantry keyB 0) d
def acczWork : Entry := work (rec0 0x04 4095) (.imm 0) .none .none
def accstWork (lay : Nat) (d : Tensor) : Entry := work (rec0 0x05 (lay * 2 ^ 30 + 2 ^ 22)) (.imm 3) .none (.pantry d 0)
def modsetWork : Entry := work (rec0 0x02 7) (.pantry ⟨0, 160, 1, 1, 4, 0, 0⟩ 0) .none .none
theorem witness_KeyProductAndAccumulators :
    engaged (withSet 0 (keyWork (.imm 0) 1)) 0 0x03 (keyWork (.imm 0) 1) ∧
    engaged (withSet 0 (keyWork (.pantry keyD 0) 2)) 0 0x03 (keyWork (.pantry keyD 0) 2) ∧ RowsApart keyD ∧ apartOrSame keyA keyD ∧
    apartOrSame keyB keyD ∧ engaged (withSet 0 acczWork) 0 0x04 acczWork ∧
    engaged (withSet 0 (accstWork 3 keyD)) 0 0x05 (accstWork 3 keyD) ∧
    engaged (withSet 0 (accstWork 0 mmD)) 0 0x05 (accstWork 0 mmD) ∧ engaged (withSet 0 modsetWork) 0 0x02 modsetWork ∧
    keyipCase (withSet 0 (keyWork (.imm 0) 1)) 0 (keyWork (.imm 0) 1) = .ok (keyA, keyB) ∧
    keyipCase (withSet 0 (keyWork (.pantry keyD 0) 2)) 0 (keyWork (.pantry keyD 0) 2) = .ok (keyA, keyB) ∧
    keyipSeals (viewOf (siteAt home 0)) keyA keyB 1 = none ∧
    accstCase (withSet 0 (accstWork 3 keyD)) 0 (accstWork 3 keyD) = .ok (3, keyD) ∧
    accstCase (withSet 0 (accstWork 0 mmD)) 0 (accstWork 0 mmD) = .ok (3, mmD) ∧
    (∀ x ∈ (spRead 0 (siteAt home 0).pantry 0 640).map BitVec.toNat, x < 2) ∧ modeOf home 0 ≠ 2 ∧
    arrayReady home 0 0 0 none = false ∧ arrayReady (withSet 0 (keyWork (.imm 0) 1)) 0 0 0 none = true ∧
    (hhAt home 0).lease.isSome = true ∧
    (let m (f : MxRegs → MxRegs) : MxRegs := (siteAt (upSite home 0 fun c => { c with mx := f c.mx }) 0).mx
     (m fun x => { x with step := 7 }).rampDown = false ∧ 0 < (m fun x => { x with step := 7 }).step ∧ (m fun x => { x with step := 1, rampDown := true }).rampDown = true ∧
     (m fun x => { x with rampDown := true }).step = 0 ∧ (m id).rampUp = false) :=
  ⟨engaged_of (by decide +kernel), engaged_of (by decide +kernel), rows_apart (by decide), apart_below 8192 (by decide),
    apart_below 8192 (by decide), engaged_of (by decide +kernel), engaged_of (by decide +kernel), engaged_of (by decide +kernel),
    engaged_of (by decide +kernel), by decide +kernel⟩

/-- Ring size 2, q = 5 and psi = 2 with psi^2 = -1. -/
theorem witness_TransformIsEvaluation : (1 : Nat) ≤ 17 ∧ 2 < 5 ∧ (∀ d, d ∣ 5 → d = 1 ∨ d = 5) ∧ 2 ^ 2 ^ 1 % 5 = 5 - 1 ∧ [3, 4].length = 2 ^ 1 :=
  ⟨by decide, by decide, fun d h => (Nat.dvd_prime (by decide)).mp h, by decide, rfl⟩

def limbs0 : Tensor := rowsAt 0 2
def limbs1 : Tensor := rowsAt 0x100000 2
def limbWork (op mod : Nat) (d : Tensor) : Entry := work (rec0 op mod) (.pantry limbs0 0) .none (.pantry d 0)
/-- A bad seal at the first block of the source. -/
def tornSeal (s : State) : State := upSite s 0 fun c => { c with seals := [(0, 1)] }
/-- A lease whose rows are too long to be transposed. -/
def flatHome : State := homeOf { lease0 with rowLog2 := 8 } fun t => { t with queues := t.queues.set 1 ⟨[limbWork 0x21 0 limbs1], 2, false, 0, 0⟩ }
theorem witness_LimbTransforms : engaged (atWork 1 (limbWork 0x21 0 limbs1)) 1 0x21 (limbWork 0x21 0 limbs1) ∧
    engaged (atWork 1 (limbWork 0x22 (2 ^ 24) limbs0)) 1 0x22 (limbWork 0x22 (2 ^ 24) limbs0) ∧ RowsApart limbs1 ∧ apartOrSame limbs0 limbs1 ∧
    apartOrSame limbs0 limbs0 ∧ transposed lease0 = true ∧ transposed { lease0 with rowLog2 := 8 } = false ∧
    (hhAt flatHome 0).lease = some { lease0 with rowLog2 := 8 } ∧
    (pRead (viewOf (siteAt home 0)) limbs0 true).2 = none ∧ (pRead (viewOf (siteAt (tornSeal flatHome) 0)) limbs0 true).2 = some 0 ∧
    engaged (tornSeal flatHome) 1 0x21 (limbWork 0x21 0 limbs1) :=
  ⟨engaged_of (by decide +kernel), engaged_of (by decide +kernel), rows_apart (by decide), apart_below 0x100000 (by decide), .inl (by decide), by decide, by decide,
    by decide +kernel, by decide +kernel, by decide +kernel, engaged_of (by decide +kernel)⟩

def idx0 : Tensor := ⟨0x200000, 32, 1, 1, 4, 0, 0⟩
def vals0 (a : Nat) : Tensor := ⟨a, 32, 1, 1, 4, 0, 0⟩
def permWork (op mod : Nat) (a d : Tensor) (b : Opnd) : Entry := work (rec0 op mod) (.pantry a 0) b (.pantry d 0)
/-- A destination of one whole block. -/
def block1 : Tensor := ⟨0x1000, 1024, 1, 1, 4, 0, 0⟩
theorem witness_Permutations : engaged (atWork 2 (permWork 0x41 5 limbs0 limbs1 .none)) 2 0x41 (permWork 0x41 5 limbs0 limbs1 .none) ∧
    engaged (atWork 2 (permWork 0x41 (8191 + 2 ^ 24 + 2 ^ 31) limbs0 limbs1 .none)) 2 0x41 (permWork 0x41 (8191 + 2 ^ 24 + 2 ^ 31) limbs0 limbs1 .none) ∧
    engaged (atWork 2 (permWork 0x43 0 (vals0 0) (vals0 0x1000) (.pantry idx0 0))) 2 0x43 (permWork 0x43 0 (vals0 0) (vals0 0x1000) (.pantry idx0 0)) ∧
    engaged (atWork 2 (permWork 0x44 0 (vals0 0) (vals0 0x1000) (.cellar idx0 0x280000))) 2 0x44 (permWork 0x44 0 (vals0 0) (vals0 0x1000) (.cellar idx0 0x280000)) ∧
    RowsApart (vals0 0x1000) ∧ apartOrSame (vals0 0) (vals0 0x1000) ∧ pRead (viewOf (siteAt home 0)) (vals0 0) true = ([List.replicate 32 0], none) ∧
    pRead (viewOf (siteAt home 0)) idx0 true = ([List.replicate 32 0], none) ∧ pmeOwnsLanding home 0 = true ∧
    apartOrSame (vals0 0x200000) (vals0 0x201000) ∧
    engaged (atWork 2 (permWork 0x44 0 (vals0 0) block1 (.pantry idx0 0))) 2 0x44 (permWork 0x44 0 (vals0 0) block1 (.pantry idx0 0)) ∧
    RowsApart block1 ∧ apartOrSame (vals0 0) block1 ∧ (∀ n < blockCount block1, scatterBad (viewOf (siteAt home 0)) block1 (List.replicate 32 0) (n / rowBlocks block1) (n % rowBlocks block1) = false) ∧
    blockCount block1 = 1 ∧ scatterBad (viewOf (siteAt (upSite home 0 fun c => { c with seals := [(32, 1)] }) 0)) block1 (List.replicate 32 0) 0 0 = true :=
  ⟨engaged_of (by decide +kernel), engaged_of (by decide +kernel), engaged_of (by decide +kernel), engaged_of (by decide +kernel), rows_apart (by decide),
    apart_below 0x1000 (by decide), by decide +kernel, by decide +kernel, by decide +kernel, apart_below 0x201000 (by decide),
    engaged_of (by decide +kernel), rows_apart (by decide), apart_below 0x1000 (by decide), by decide +kernel, by decide, by decide +kernel⟩

/-- A command of the vector engine over a program in slot 0, with constants of every position and modulus set 1. -/
def chainHome (prog : List Nat) (e : Entry) : State := upSet (withSet 3 e) 0 0 fun t =>
  { t with progs := t.progs.set 0 ⟨true, prog ++ List.replicate (32 - prog.length) 0⟩, consts := t.consts.map fun _ => some (List.replicate 16 1) }
def addProg : List Nat := [0x04800000, 0x09000000, 0x20140000, 0xC4000000]
def chainWork (op mod : Nat) (a b : Opnd) : Entry := work (rec0 op mod) a b (.pantry (vals0 0x1000) 0)
def caseIs (r : Except Nat (ChainMod × Lease × Tensor × Nat × Nat)) (d : Tensor) : Bool := match r with
  | .ok (_, _, t, _, _) => t == d
  | .error _ => false
/-- CHAIN on chain position 0, and CHACC of layout 0 on cleartext words. -/
def chain0 : Entry := chainWork 0x61 0 (.pantry (vals0 0) 0) (.imm 7)
def chacc0 : Entry := chainWork 0x62 (2 ^ 31) (.imm 5) (.pantry (vals0 0x1000) 0)
def copyProg : List Nat := [0x04800000, 0xC2000000]
theorem witness_VectorChains : engaged (chainHome addProg chain0) 3 0x61 chain0 ∧ caseIs (chainCase (chainHome addProg chain0) 0 chain0 false) (vals0 0x1000) = true ∧
    (chainSource (viewOf (siteAt home 0)) chain0.opA 0 1).2 = none ∧ (chainSource (viewOf (siteAt home 0)) chain0.opB 0 1).2 = none ∧
    engaged (chainHome copyProg chacc0) 3 0x62 chacc0 ∧ caseIs (chainCase (chainHome copyProg chacc0) 0 chacc0 true) (vals0 0x1000) = true ∧
    (chainSource (viewOf (siteAt home 0)) chacc0.opB 0 1).2 = none ∧
    progOps ((setAt (chainHome addProg chain0) 0 0).progs.get 0).words = addProg ∧
    (rowPrime (chainHome addProg chain0) 0 0 lease0 (chainMod 0) 0).map Prod.fst = some 40961 :=
  ⟨engaged_of (by decide +kernel), by decide +kernel, by decide +kernel, by decide +kernel, engaged_of (by decide +kernel), by decide +kernel, by decide +kernel,
    by decide +kernel, by decide +kernel⟩
def chload0 : Entry := work (rec0 0x63 15) (.pantry (vals0 0) 0) .none .none
def kload0 : Entry := work (rec0 0x64 (2 ^ 23)) (.pantry ⟨0, 16, 2, 1, 4, 128, 0⟩ 0) .none .none
/-- The words of that program in row 0. -/
def progRow (s : State) : State := upSite s 0 fun c => { c with pantry := spWrite 0 [] 0 (unElems 4 addProg) , seals := [(0, blockSeal (unElems 4 addProg))] }
/-- A finished command whose summary is due, and the summary queue of its core filled to n. -/
def owing (n : Nat) (stalled : Bool) : State := upCore (atWork 3 { work (rec0 0x61 0) .none .none .none with phase := .done, summary := some 9, sumStalled := stalled }) 0
  fun c => { c with sumqs := vmod c.sumqs 0 fun q => { q with ents := List.replicate n ⟨0, 0, 0, 0, 0⟩ } }
theorem witness_VectorStateAndSummaries :
    engaged (atWork 3 chload0) 3 0x63 chload0 ∧ engaged (atWork 3 kload0) 3 0x64 kload0 ∧
    engaged (progRow (atWork 3 chload0)) 3 0x63 chload0 ∧
    (pRead (viewOf (siteAt (progRow (atWork 3 chload0)) 0)) (vals0 0) true) = ([addProg ++ List.replicate 28 0], none) ∧
    progOk (addProg ++ List.replicate 28 0) = true ∧ progOk (List.replicate 32 0) = false ∧
    pRead (viewOf (siteAt home 0)) (vals0 0) true = ([List.replicate 32 0], none) ∧
    ((qEnts (owing 31 false) (.cluster 0 3)).find? owesSummary).isSome = true ∧
    ((coreAt (owing 31 false) 0).sumqs.get 0).ents.length < 32 ∧ 32 ≤ ((coreAt (owing 32 false) 0).sumqs.get 0).ents.length ∧
    ((qEnts (owing 32 true) (.cluster 0 3)).find? fun e => owesSummary e && e.sumStalled).isSome = true ∧
    liveSet (owing 32 true) 0 = some (0, 0) ∧ frozenFor (owing 32 true) 0 3 = false :=
  ⟨engaged_of (by decide +kernel), engaged_of (by decide +kernel), engaged_of (by decide +kernel), by decide +kernel⟩
end Sys2Proof.Tests
end

