-- ==== Sys2Proof/Tests/WitnessMemory.lean ====
section
/-! SUPPORT. Commands on household memory, streams and sequenced jobs that meet the hypotheses of the statements. -/

namespace Sys2Proof.Tests
open Machine
set_option Elab.async false

/-- A lease of ring size 2^10. -/
def lease1 : Lease := { lease0 with log2n := 10 }
/-- A state that memory is loaded into: household 0 has its tables, nothing is poisoned or retired. -/
structure Clean (s : State) : Prop where
  root : (hhAt s 0).tr.root = 0x1000 ∧ (hhAt s 0).tr.valid = true ∧ (hhAt s 0).tr.tlb = []
  poison : s.cellar.poison = []
  retired : s.cellar.retired = none
theorem clean_mapped {s : State} (c : Clean s) (a : Nat) (bs : List Byte) : Mapped (loaded s a bs) := loaded_mapped c.root c.retired a bs
theorem clean_wf (s : State) (a : Nat) (bs : List Byte) : spWf 0 (loaded s a bs).cellar.mem = true := spWf_spWrite (by decide)
theorem clean_zero {s : State} (c : Clean s) (a : Nat) (bs : List Byte) (va len : Nat) (h : va + len ≤ a ∨ a + bs.length ≤ va) :
    ∀ j < len, cGet (loaded s a bs) (2 ^ 34 + va + j) = 0 := fun j hj =>
  loaded_zero c.retired a bs (by omega) (by omega)
theorem clean_poison {s : State} (c : Clean s) (a : Nat) (bs : List Byte) (b : Nat) : poisoned (loaded s a bs) b = false := by
  simp [poisoned, loaded, c.poison]
theorem zero_bytes (n : Nat) : unElems 4 (List.replicate n 0) = List.replicate (4 * n) 0 := by
  induction n with
  | zero => rfl
  | succ n ih => simp [unElems, List.replicate_succ, Nat.mul_add] at ih ⊢; rw [ih]; rfl
theorem zero_elems : elems 4 ([] ++ List.replicate 4096 0) = List.replicate 1024 0 := by
  have h := elems_unElems (e := 4) (by decide) (List.replicate 1024 0)
  rw [zero_bytes, List.map_replicate] at h
  exact h
theorem zero_seal : blockSeal (List.replicate 4096 0) = 0 := by decide +kernel
/-- A whole block of zeros away from what was loaded. -/
theorem clean_block {s : State} (c : Clean s) (a : Nat) (bs : List Byte) (va sl : Nat) (h : va + 4096 ≤ a ∨ a + bs.length ≤ va)
    (hs : sl + 4 ≤ a ∨ a + bs.length ≤ sl) (hv : va + 4096 ≤ 2 ^ 34) (hw : sl + 4 ≤ 2 ^ 34) :
    hReadBlock (loaded s a bs) 0 va 4096 sl = .ok (List.replicate 4096 0) :=
  mapped_block (clean_mapped c a bs) va 4096 sl hv hw zero_seal (clean_poison c a bs) (clean_zero c a bs va 4096 h) (clean_zero c a bs sl 4 hs)

/- Ciphertext forms: the source descriptor at 0x10000 with limbs from 0x8000 on, the destination at 0x10040. -/

def descBytes (level domain limb sl : Nat) : List Byte :=
  leBytes 1 1 ++ leBytes 1 10 ++ leBytes 1 level ++ leBytes 1 0 ++ leBytes 1 2 ++ leBytes 1 domain ++ leBytes 1 2 ++ leBytes 1 0 ++
    leBytes 8 0x77 ++ leBytes 4 1000 ++ leBytes 4 1 ++ leBytes 8 limb ++ leBytes 4 4096 ++ leBytes 4 0 ++ leBytes 8 sl ++ leBytes 16 0
def ctBytes (level domain : Nat) : List Byte := descBytes level domain 0x8000 0xC000 ++ descBytes 1 0 0x20000 0x30000
def ctWork (op mod : Nat) : Entry := work (rec0 op mod) (.desc 0x10000) .none (.desc 0x10040)
/-- The same command, its descriptors held. -/
def ctGoing (level domain op mod : Nat) : Entry := { ctWork op mod with held := ctBytes level domain }
/-- The site's stream unit has these streams. -/
def streamsOn (x : List Strm) (s : State) : State := upSite s 0 fun c => { c with st := { c.st with streams := x } }
/-- The stream of the command with SEQ 1 of an engine code: all of n blocks has been read. -/
def arrived (en n : Nat) : Strm := ⟨0, 1, en, false, 0, 0x4000, n, n, [], []⟩
theorem read_all {s : State} {q : QueueId} {e : Entry} {f : Feed} {en n : Nat} (h : strmOf s q e false = some (arrived en n)) (hn : f.count ≤ n) :
    ∀ b < f.count, blockRead s q e f b = true := by
  intro b hb
  have : b < (arrived en n).upto := Nat.lt_of_lt_of_le hb hn
  have r : ((arrived en n).left ++ (arrived en n).out).all (fun r => r.blk != b) = true := rfl
  simp only [blockRead, h, this, r, decide_true, Bool.and_self, Bool.true_or]
theorem homeOf_site (l : Lease) (f : HSet → HSet) : siteOf (homeOf l f) 0 = some 0 := (by decide +kernel : siteOf State.reset 0 = some 0)
theorem streams_on {s : State} {a : Nat} {bs : List Byte} {xs : List Strm} {en : Fin 5} (h : siteOf s 0 = some 0) :
    qStreams (loaded (streamsOn xs s) a bs) (.cluster 0 en) = xs := by
  have h1 : siteOf (loaded (streamsOn xs s) a bs) 0 = some 0 := h
  have h2 : siteAt (loaded (streamsOn xs s) a bs) 0 = siteAt (streamsOn xs s) 0 := rfl
  simp only [qStreams, h1, h2]
  simp only [streamsOn, siteAt_upSite, if_true]
def ctBase (en : Fin 5) (e : Entry) (x : List Strm) : State :=
  streamsOn x (homeOf lease1 fun t => { t with queues := t.queues.set en.val ⟨[e], 2, false, 0, 0⟩ en.isLt })
def ctHome (level domain : Nat) (en : Fin 5) (e : Entry) (x : List Strm) : State := loaded (ctBase en e x) 0x10000 (ctBytes level domain)
theorem ct_clean (en : Fin 5) (e : Entry) (x : List Strm) : Clean (ctBase en e x) := ⟨⟨rfl, rfl, rfl⟩, rfl, rfl⟩
def ctSrc (level domain : Nat) : Desc := ⟨0x10000, descBytes level domain 0x8000 0xC000⟩
def ctDst : Desc := ⟨0x10040, descBytes 1 0 0x20000 0x30000⟩
/-- The destination descriptor and its limbs of one slot a part, blocks and seals. -/
def ctRanges : List (Nat × Nat) := [(0x10040, 64), (0x20000, 4096), (0x30000, 4), (0x22000, 4096), (0x30008, 4)]
theorem desc_length (a b c d : Nat) : (descBytes a b c d).length = 64 := by simp [descBytes, leBytes]
theorem bytes_length (level domain : Nat) : (ctBytes level domain).length = 128 := by simp [ctBytes, desc_length]

theorem ct_descs (level domain : Nat) (en : Fin 5) (e : Entry) (x : List Strm) :
    readDesc (ctHome level domain en e x) 0 0x10000 = .ok (ctSrc level domain) ∧ readDesc (ctHome level domain en e x) 0 0x10040 = .ok ctDst := by
  have c := ct_clean en e x
  constructor
  · have h := loaded_hRead (agent := true) c.root c.retired c.poison .read 0x10000 0 64 (ctBytes level domain) (by simp [bytes_length]) (by simp [bytes_length])
    unfold readDesc ctHome
    simp only [Nat.add_zero] at h
    rw [h]
    simp [ctSrc, ctBytes, desc_length]
  · have h := loaded_hRead (agent := true) c.root c.retired c.poison .read 0x10000 64 64 (ctBytes level domain) (by simp [bytes_length]) (by simp [bytes_length])
    unfold readDesc ctHome
    simp only [show 0x10000 + 64 = 0x10040 from rfl] at h
    rw [h]
    simp [ctDst, ctBytes, desc_length]
theorem ct_fault {s : State} (m : Mapped s) {n : Nat} {d : Desc} {p i : Nat} (acc : Acc) (h1 : d.slotVa p i + 4 * n ≤ 2 ^ 34)
    (h2 : d.slotSeal n p i + 4 * (n / 1024) ≤ 2 ^ 34) : limbFault s 0 n d p i acc = none := by
  unfold limbFault
  rw [mapped_xlateRange m acc _ _ h1, mapped_xlateRange m acc _ _ h2]
/-- The first limb and the first part of both descriptors translate. -/
theorem cipher_starts {level domain : Nat} {en : Fin 5} {op mod : Nat} (hl : level = 1 ∨ level = 2) (hd : domain < 2) (feed : Feed)
    (hf : feed = limbFeed (ctHome level domain en (ctWork op mod) []) 0 lease1 (ctSrc level domain) ctDst ∨
      level = 2 ∧ feed = partFeed (ctHome level domain en (ctWork op mod) []) 0 lease1 (ctSrc level domain) ctDst 1) :
    CipherStarts (ctHome level domain en (ctWork op mod) []) (ctWork op mod) lease1 0x10000 0x10040 (ctSrc level domain) ctDst feed := by
  have c := ct_clean en (ctWork op mod) []
  have m : Mapped (ctHome level domain en (ctWork op mod) []) := clean_mapped c 0x10000 (ctBytes level domain)
  refine ⟨⟨rfl, rfl, rfl, rfl, rfl⟩, ⟨rfl, by decide, rfl⟩, ct_descs _ _ _ _ _,
    ranges_plain m rfl rfl (clean_wf _ _ _) (xs := [(0x10040, 64)]) (by simp [inRanges]) (by decide) (by decide), ?_⟩
  rcases hf with rfl | ⟨rfl, rfl⟩
  · simp only [limbFeed, Bool.and_eq_true, Option.isNone_iff_eq_none, show ringN lease1 = 1024 from rfl]
    rcases hl with rfl | rfl <;> rcases (by omega : domain = 0 ∨ domain = 1) with rfl | rfl <;>
      exact ⟨ct_fault m _ (by decide) (by decide), ct_fault m _ (by decide) (by decide)⟩
  · simp only [partFeed, partFault, Bool.and_eq_true, Option.isNone_iff_eq_none, show ringN lease1 = 1024 from rfl, List.findSome?_eq_none_iff, List.mem_range]
    rcases (by omega : domain = 0 ∨ domain = 1) with rfl | rfl <;>
      exact ⟨fun i hi => by
        rw [show (ctSrc 2 _).level = 2 by decide] at hi
        rcases (by omega : i = 0 ∨ i = 1) with rfl | rfl <;> exact ct_fault m _ (by decide) (by decide),
        fun i hi => by
        rw [show (ctSrc 2 _).level - 1 = 1 by decide] at hi
        rw [show i = 0 by omega]
        exact ct_fault m _ (by decide) (by decide)⟩

theorem cipher_ready {level domain : Nat} {en : Fin 5} {op mod slots total cnt n : Nat} {before : Nat → Nat} {feed : Feed} (xs : List (Nat × Nat))
    (hd : cipherVas ctDst 1024 slots total = inRanges xs) (hx : xs.Pairwise fun x y => x.1 + x.2 ≤ y.1 ∨ y.1 + y.2 ≤ x.1)
    (hb : ∀ x ∈ xs, x.1 + x.2 ≤ 2 ^ 34)
    (hn : ((List.range cnt).all fun x => (cipherVas ctDst 1024 slots (before x)).all fun va => decide (0x10040 ≤ va ∧ va < 2 ^ 34)) = true)
    (hs : ∀ x < cnt, let p := x / (ctSrc level domain).slots; let i := x % (ctSrc level domain).slots
      (ctSrc level domain).slotVa p i + 4096 ≤ 0x10000 ∧ (ctSrc level domain).slotSeal 1024 p i + 4 ≤ 0x10000)
    (hf : feed.count ≤ n) :
    CipherReady (ctHome level domain en (ctGoing level domain op mod) [arrived en n]) (.cluster 0 en) (ctGoing level domain op mod) lease1 0x10000 0x10040
      (ctSrc level domain) ctDst feed slots total cnt before fun _ => List.replicate 1024 0 := by
  have c := ct_clean en (ctGoing level domain op mod) [arrived en n]
  have m := clean_mapped c 0x10000 (ctBytes level domain)
  refine ⟨⟨rfl, rfl, rfl, rfl, Nat.zero_le _⟩, ⟨rfl, by decide, rfl⟩, ⟨rfl, desc_length _ _ _ _, rfl, desc_length _ _ _ _⟩,
    ⟨ctDst, (ct_descs _ _ _ _ _).2, rfl, rfl, rfl, rfl⟩, ranges_plain m rfl rfl (clean_wf _ _ _) hd hx hb, ?_, ?_⟩
  · intro x hxc t ht
    have far : ∀ b < 2 ^ 34 + 0x10040, b ∉ (cipherVas ctDst 1024 slots (before x)).map (cpaOf (ctHome level domain en (ctGoing level domain op mod) [arrived en n]) 0) := by
      intro b hb' hm
      obtain ⟨v, hv, e⟩ := List.mem_map.mp hm
      simp only [List.all_eq_true, List.mem_range, decide_eq_true_eq] at hn
      have := hn x hxc v hv
      rw [ctHome, mapped_cpa m this.2] at e
      omega
    have eq : ∀ b < 2 ^ 34 + 0x10040, cGet t b = cGet (ctHome level domain en (ctGoing level domain op mod) [arrived en n]) b ∧
        poisoned t b = poisoned (ctHome level domain en (ctGoing level domain op mod) [arrived en n]) b :=
      fun b hb' => ht.2.2.2.2 b (far b hb')
    have mt : Mapped t := ⟨by rw [show (hhAt t 0).tr = _ from ht.1]; exact m.root, fun a ha => by rw [(eq a (by omega)).1]; exact m.low a ha⟩
    obtain ⟨h1, h2⟩ := hs x hxc
    have z : ∀ va len, va + len ≤ 0x10000 → ∀ j < len, cGet t (2 ^ 34 + va + j) = 0 := fun va len h j hj => by
      rw [(eq _ (by omega)).1]
      exact clean_zero c 0x10000 _ va len (.inl h) j hj
    have p : ∀ va len, va + len ≤ 0x10000 → ∀ j < len, poisoned t (2 ^ 34 + va + j) = false := fun va len h j hj => by
      rw [(eq _ (by omega)).2]
      exact clean_poison c 0x10000 _ _
    constructor
    · rw [show (ctGoing level domain op mod).hh = 0 from rfl, show ringN lease1 = 1024 from rfl]
      exact ct_fault mt .read (by omega) (by omega)
    · have b : hReadBlock t 0 ((ctSrc level domain).slotVa (x / (ctSrc level domain).slots) (x % (ctSrc level domain).slots) + 4096 * 0) 4096
          ((ctSrc level domain).slotSeal 1024 (x / (ctSrc level domain).slots) (x % (ctSrc level domain).slots) + 4 * 0) = .ok (List.replicate 4096 0) := by
        simp only [hReadBlock]
        rw [mapped_hRead mt .read _ 4096 (by omega) (p _ _ (by omega)) (z _ _ (by omega)),
          mapped_hRead mt .read _ 4 (by omega) (p _ _ (by omega)) (z _ _ (by omega)), ]
        simp only [zero_seal]
        rfl
      rw [show (ctGoing level domain op mod).hh = 0 from rfl, show ringN lease1 = 1024 from rfl]
      unfold readLimb
      rw [show List.range (1024 / 1024) = [0] from rfl]
      simp only [List.foldl_cons, List.foldl_nil]
      rw [b]
      exact congrArg Except.ok zero_elems
  · refine read_all (en := en) (n := n) ?_ hf
    unfold strmOf ctHome ctBase
    rw [streams_on (homeOf_site _ _)]
    simp [arrived, Strm.serves, qEng, ctGoing, ctWork, work, newEntry]
theorem ct_vas : cipherVas ctDst 1024 1 2 = inRanges ctRanges := by
  simp only [cipherVas, inRanges, ctRanges, show List.range 2 = [0, 1] from rfl, List.flatMap_cons, List.flatMap_nil, List.append_nil, List.append_assoc,
    show ctDst.va = 0x10040 from rfl, show ctDst.slotVa (0 / 1) (0 % 1) = 0x20000 by decide, show ctDst.slotVa (1 / 1) (1 % 1) = 0x22000 by decide,
    show ctDst.slotSeal 1024 (0 / 1) (0 % 1) = 0x30000 by decide, show ctDst.slotSeal 1024 (1 / 1) (1 % 1) = 0x30008 by decide,
    show 4 * (1024 / 1024) = 4 from rfl, show 4 * 1024 = 4096 from rfl]
/-- At level 1, and from level 2 down to level 1. -/
theorem ct_one (domain : Nat) (hd : domain < 2) (en : Fin 5) (op mod : Nat) :
    CipherReady (ctHome 1 domain en (ctGoing 1 domain op mod) [arrived en 2]) (.cluster 0 en) (ctGoing 1 domain op mod) lease1 0x10000 0x10040 (ctSrc 1 domain) ctDst
      (limbFeed (ctHome 1 domain en (ctGoing 1 domain op mod) [arrived en 2]) 0 lease1 (ctSrc 1 domain) ctDst) 1 2 2 id fun _ => List.replicate 1024 0 := by
  exact cipher_ready ctRanges ct_vas (by decide) (by decide) (by decide +kernel)
    (by rcases (by omega : domain = 0 ∨ domain = 1) with rfl | rfl <;> decide)
    (show (ctSrc 1 domain).parts * (ctSrc 1 domain).slots ≤ 2 by rcases (by omega : domain = 0 ∨ domain = 1) with rfl | rfl <;> decide)
theorem ct_two (en : Fin 5) (op mod : Nat) :
    CipherReady (ctHome 2 0 en (ctGoing 2 0 op mod) [arrived en 2]) (.cluster 0 en) (ctGoing 2 0 op mod) lease1 0x10000 0x10040 (ctSrc 2 0) ctDst
      (partFeed (ctHome 2 0 en (ctGoing 2 0 op mod) [arrived en 2]) 0 lease1 (ctSrc 2 0) ctDst 1) 1 2 4 (fun x => x / 2 * 1) fun _ => List.replicate 1024 0 := by
  exact cipher_ready ctRanges ct_vas (by decide) (by decide) (by decide +kernel) (by decide)
    (show (ctSrc 2 0).parts ≤ 2 by decide)
/-- A descriptor form is at work, at its start and with its source read. -/
def ctAtWork (level domain : Nat) (en : Fin 5) (op mod : Nat) : Prop :=
  engaged (ctHome level domain en (ctWork op mod) []) en op (ctWork op mod) ∧
    engaged (ctHome level domain en (ctGoing level domain op mod) [arrived en 2]) en op (ctGoing level domain op mod)
theorem witness_CiphertextForms :
    ctAtWork 1 0 1 0x23 0 ∧ ctAtWork 1 1 1 0x24 0 ∧ ctAtWork 1 1 2 0x42 2047 ∧ ctAtWork 2 0 3 0x65 0 ∧
    sourceCheck lease1 (ctSrc 1 0) (some 0) = none ∧ sourceCheck lease1 (ctSrc 1 1) (some 1) = none ∧
    sourceCheck lease1 (ctSrc 1 1) none = none ∧ sourceCheck lease1 (ctSrc 2 0) (some 0) = none ∧ destCheck lease1 ctDst 1 = none ∧
    (ctSrc 1 0).slots = 1 ∧ (ctSrc 1 0).parts = 2 ∧ (ctSrc 2 0).slots = 2 ∧ (ctSrc 2 0).special = 0 ∧ (ctSrc 2 0).level - 1 = 1 :=
  ⟨⟨engaged_of (by decide +kernel), engaged_of (by decide +kernel)⟩,
    ⟨engaged_of (by decide +kernel), engaged_of (by decide +kernel)⟩,
    ⟨engaged_of (by decide +kernel), engaged_of (by decide +kernel)⟩,
    ⟨engaged_of (by decide +kernel), engaged_of (by decide +kernel)⟩, by decide +kernel⟩

/- The stream unit: LOAD and STORE of one row of 32 words, KWIN and its CLOSE. -/

def cellarVals : Tensor := ⟨0x20000, 32, 1, 1, 4, 0, 0⟩
def loadWork : Entry := work (rec0 0x81 0) (.cellar cellarVals 0x30000) .none (.pantry (vals0 0x1000) 0)
def storeWork : Entry := work (rec0 0x82 0) (.pantry (vals0 0) 0) .none (.cellar cellarVals 0x30000)
theorem home_clean {s : State} (h1 : (hhAt s 0).tr = (hhAt home 0).tr) (h2 : s.cellar = home.cellar) : Mapped s := mapped_of h1 h2
theorem tail_seal : blockSeal (List.replicate 128 0) = 0 := by decide +kernel
/-- One row of zeros in the cellar reads as such. -/
theorem row_read {s : State} (m : Mapped s) (h : s.cellar = home.cellar) : hReadTensor s 0 cellarVals 0x30000 = .ok [List.replicate 128 0] := by
  have z : ∀ b, 0x3000 ≤ b → cGet s b = 0 := fun b hb => by
    simp only [cGet, place, h]
    exact tables0_high hb
  have p : ∀ b, poisoned s b = false := fun b => by
    have : s.cellar.poison = [] := by rw [h]; rfl
    simp [poisoned, this]
  have b := mapped_block m 0x20000 128 0x30000 (by decide) (by decide) tail_seal p (fun _ _ => z _ (by omega)) (fun _ _ => z _ (by omega))
  unfold hReadTensor
  simp only [show rowCount cellarVals = 1 from rfl, show rowBytes cellarVals = 128 from rfl, show cdiv 128 4096 = 1 from rfl,
    show List.range 1 = [0] from rfl, List.foldl_cons, List.foldl_nil, show (rowAddr cellarVals 0 + 4096 * 0) % 2 ^ 64 = 0x20000 from rfl,
    show blockLen 128 0 = 128 from rfl, show sealAddr 0x30000 1 0 0 = 0x30000 from rfl, b]
  rfl
theorem row_dest {s : State} (m : Mapped s) (h : s.cellar = home.cellar) : PlainDest s 0 (tensorVas cellarVals 0x30000) :=
  ranges_plain m (by rw [h]; rfl) (by rw [h]; rfl) (by rw [h]; decide) (xs := [(0x20000, 128), (0x30000, 4)]) (by decide +kernel) (by decide) (by decide)
/-- The streams of LOAD with its block outstanding, and of STORE with it issued and with its write outstanding. -/
def loadStrm : Strm := { arrived 4 1 with out := [⟨0x400020000, 128, 0, 0⟩] }
def storeStrm (out : List Request) : Strm := { arrived 4 1 with write := true, out := out }
theorem witness_LoadAndStoreWaits : stuEntry (streamsOn [loadStrm] (atWork 4 loadWork)) 0 (fun r => r.opcode == 0x81) = some (0, loadWork) ∧
    blockRead (streamsOn [loadStrm] (atWork 4 loadWork)) (.cluster 0 4) loadWork (tensorFeed (streamsOn [loadStrm] (atWork 4 loadWork)) 0 .read cellarVals 0x30000) 0 = false ∧
    blockRead (streamsOn [arrived 4 1] (atWork 4 loadWork)) (.cluster 0 4) loadWork (tensorFeed (streamsOn [arrived 4 1] (atWork 4 loadWork)) 0 .read cellarVals 0x30000) 0 = true ∧
    blockCount cellarVals = 1 ∧ (∀ out, storeStrm out ∈ [storeStrm [], storeStrm [⟨0x400020000, 128, 0, 0⟩]] →
      blockIssued (streamsOn [storeStrm out] (atWork 4 storeWork)) (.cluster 0 4) storeWork
        (tensorFeed (streamsOn [storeStrm out] (atWork 4 storeWork)) 0 .write cellarVals 0x30000) 0 = true) ∧
    writesOut (streamsOn [storeStrm []] (atWork 4 storeWork)) (.cluster 0 4) storeWork = false ∧
    writesOut (streamsOn [storeStrm [⟨0x400020000, 128, 0, 0⟩]] (atWork 4 storeWork)) (.cluster 0 4) storeWork = true := by
  refine ⟨by decide +kernel, by decide +kernel, by decide +kernel, by decide, ?_, by decide +kernel, by decide +kernel⟩
  intro out h
  simp only [List.mem_cons, List.not_mem_nil, or_false, storeStrm, Strm.mk.injEq, true_and] at h
  rcases h with rfl | rfl <;> decide +kernel
theorem witness_LoadAndStore : stuEntry (atWork 4 loadWork) 0 (fun r => r.opcode == 0x81) = some (0, loadWork) ∧ RowsApart (vals0 0x1000) ∧
    hitsWindow (setAt (atWork 4 loadWork) 0 0) (.pantry (vals0 0x1000) 0) = false ∧
    hReadTensor (atWork 4 loadWork) 0 cellarVals 0x30000 = .ok [List.replicate 128 0] ∧
    stuEntry (atWork 4 storeWork) 0 (fun r => r.opcode == 0x82) = some (0, storeWork) ∧
    pReadRow (viewOf (siteAt (atWork 4 storeWork) 0)) (rowAddr (vals0 0) 0) (rowBytes (vals0 0)) true true = some (List.replicate 128 0) ∧
    PlainDest (atWork 4 storeWork) 0 (tensorVas cellarVals 0x30000) ∧ liveSet (atWork 4 storeWork) 0 = some (0, 0) ∧ siteMemOk (siteAt home 0) = true :=
  ⟨by decide +kernel, rows_apart (by decide), by decide +kernel, row_read (mapped_of rfl rfl) rfl, by decide +kernel, by decide +kernel,
    row_dest (mapped_of rfl rfl) rfl, by decide +kernel, by decide +kernel⟩

def winRange : Tensor := ⟨0x1000, 1024, 1, 2, 4, 4096, 4096⟩
def kwinWork (g : Nat) : Entry := work (rec0 0x83 3) (.desc 0x10000) (.imm g) (.pantry winRange 0)
def closeWork : Entry := work (rec0 0x83 (2 ^ 31 + 3)) .none .none .none
/-- KWIN at work over a loaded descriptor, with window 3 in a state. -/
def winHome (st : KwState) (e : Entry) : State := loaded (homeOf lease1 fun t => { t with
  queues := t.queues.set 4 ⟨[e], 2, false, 0, 0⟩, wins := t.wins.set 3 { KWin.shut with state := st } }) 0x10000 (ctBytes 1 0)
theorem witness_KeyWindows :
    hRead (winHome .closed (kwinWork 2047)) 0 true .read (0x10000 + 0) 64 = .ok (((ctBytes 1 0).drop 0).take 64) ∧
    stuEntry (winHome .closed (kwinWork 2047)) 0 (fun r => r.opcode == 0x83 && !r.mod.testBit 31) = some (0, kwinWork 2047) ∧
    sourceCheck lease1 ⟨0x10000, ((ctBytes 1 0).drop 0).take 64⟩ none = none ∧ wholeRange winRange = true ∧
    2047 < 2 ^ (lease1.log2n + 1) ∧ (∀ j, j ≠ 3 → winOpen ((setAt (winHome .closed (kwinWork 2047)) 0 0).wins.get j) = false) ∧
    ((setAt (winHome .closed (kwinWork 2047)) 0 0).wins.get 3).state = .closed ∧
    stuEntry (winHome .opened (kwinWork 1)) 0 (fun r => r.opcode == 0x83 && !r.mod.testBit 31) = some (0, kwinWork 1) ∧
    ((setAt (winHome .opened (kwinWork 1)) 0 0).wins.get 3).state ≠ .closed ∧
    stuEntry (winHome .filled closeWork) 0 (fun r => r.opcode == 0x83 && r.mod.testBit 31) = some (0, closeWork) ∧
    ((setAt (winHome .filled closeWork) 0 0).wins.get 3).state ≠ .bound :=
  ⟨loaded_hRead (⟨rfl, rfl, rfl⟩) rfl rfl .read 0x10000 0 64 (ctBytes 1 0) (by simp [bytes_length]) (by simp [bytes_length]),
    by decide +kernel⟩

/- Requests of a stream. -/

def strm0 (write : Bool) (left out : List Request) : Strm := ⟨0, 1, 4, write, 100, 6400, 2, 1, left, out⟩
def streaming (e : Entry) (x : List Strm) : State := streamsOn x (atWork 4 e)
def req0 : Request := ⟨0x400020000, 64, 0, 0⟩
/-- A stream of the PME whose deadline passes before that of `strm0`. -/
def soon : Strm := ⟨0, 1, 2, false, 200, 64, 2, 1, [req0], []⟩
def q4 : QueueId := .cluster 0 4
theorem witness_StreamRequests : qStreams (streaming loadWork [strm0 false [req0] [], soon]) q4 = [strm0 false [req0] []] ++ soon :: [] ∧
    issuable (streaming loadWork [strm0 false [req0] [], soon]) q4 = [(strm0 false [req0] [], req0), (soon, req0)] ∧
    nextDeadline soon req0 / 64 < nextDeadline (strm0 false [req0] []) req0 / 64 ∧
    issuable (streaming loadWork [{ soon with out := List.replicate 128 req0 }]) q4 = [] ∧ qStreams home q4 = [] ∧
    calm (streaming loadWork [strm0 false [] [req0]]) ∧ (streaming loadWork [strm0 false [] [req0]]).cellar.second = none ∧
    (strm0 false [] [req0]).out.find? (fun z => z.cpa ≤ 0x40002003F && 0x40002003F < z.cpa + z.bytes) = some req0 ∧
    (streaming loadWork [strm0 false [] [req0]]).cellar.poison = [] ∧
    ((qStreams (streaming storeWork [strm0 true [] [req0]]) q4).find? fun x => x.write && x.eng == qEng q4 && !x.out.isEmpty) = some (strm0 true [] [req0]) ∧
    siteOf home 0 = some 0 ∧ missing (streaming loadWork [strm0 false [req0] []]) q4 = some loadWork ∧ modeOf home 0 ≠ 2 ∧ missing home q4 = none :=
  ⟨by decide +kernel, by decide +kernel, by decide, by decide +kernel, by decide +kernel, ⟨home_calm.1, home_calm.2⟩, by decide +kernel⟩

/- STREAM and PREX of a key of one digit over positions 0 and 64; the larder of region 0 carries them. -/

def keyBytes (compressed : Nat) : List Byte := leBytes 8 0x77 ++ leBytes 1 1 ++ leBytes 1 1 ++ leBytes 1 10 ++ leBytes 1 1 ++ leBytes 1 1 ++ leBytes 1 1 ++
  leBytes 1 1 ++ leBytes 1 compressed ++ leBytes 4 1 ++ leBytes 12 0 ++ leBytes 8 0x20000 ++ leBytes 8 0x40000 ++ leBytes 208 0
def inLarder (e : Entry) (xs : List Strm) (f : HSet → HSet) (s : State) : State :=
  upReg (upSet s 0 0 f) 0 fun g => { g with larder := { g.larder with ents := [e], next := 2, streams := xs } }
def streamWork : Entry := work (rec0 0xC1 (2 ^ 28 + 2 ^ 7)) (.desc 0x10000) (.imm 1) (.pantry winRange 0)
def openWin : KWin := ⟨.opened, 0, 0x77, 10, 1, 1, 0x1000, 2, 0, []⟩
/-- The larder's command, its stream, window 0 and hand-off queue 3, over the key. -/
def streamBase (e : Entry) (n : Nat) (w : KWin) (hq : List Nat) : State :=
  inLarder e [arrived 6 n] (fun t => { t with wins := t.wins.set 0 w, hqs := t.hqs.set 3 hq }) (homeOf lease1 id)
theorem stream_clean (e : Entry) (n : Nat) (w : KWin) (hq : List Nat) : Clean (streamBase e n w hq) := ⟨⟨rfl, rfl, rfl⟩, rfl, rfl⟩
def streamHome : State := loaded (streamBase streamWork 1 openWin []) 0x10000 (keyBytes 0)
/-- The header is held and the body has arrived; HANDOFF to queue 3. -/
def streamGoing : Entry := { work ⟨0xC1, 0x23, 0, 0, 2 ^ 28 + 2 ^ 7, 0, 0, 0⟩ (.desc 0x10000) (.imm 1) (.pantry winRange 0) with held := keyBytes 0 ++ leBytes 1 1 }
def streamFed (n : Nat) : State := loaded (streamBase streamGoing 2 { openWin with state := .bound } (.replicate n 1)) 0x10000 (keyBytes 0)
def prexWork : Entry := work (rec0 0xC2 0) (.desc 0x10000) .none (.cellar ⟨0x50000, 1024, 1, 1, 4, 0, 0⟩ 0x60000)
def ann0 : Announce := ⟨0, keyBytes 1, 0, 0x10000, 0x50000, false⟩
def prexHome (n : Nat) : State := loaded (upReg (inLarder prexWork [] id (homeOf lease1 id)) 0 fun g => { g with ld := { g.ld with ann := List.replicate n ann0 } }) 0x10000 (keyBytes 1)
/-- The regenerator of region 0 runs and has an announcement to expand. -/
def expanding (area : Nat) : State := let s := homeOf lease1 id
  { upReg s 0 (fun g => { g with ld := { g.ld with ann := [{ ann0 with area := area }] } }) with hearth := { s.hearth with running := [⟨2, 0, 0⟩] } }
theorem key_length (c : Nat) : (keyBytes c).length = 256 := by simp [keyBytes, leBytes_length]
theorem key_read (c : Nat) {s : State} (h : Clean s) : hRead (loaded s 0x10000 (keyBytes c)) 0 true .read (0x10000 + 0) 256 = .ok (((keyBytes c).drop 0).take 256) :=
  loaded_hRead h.root h.retired h.poison .read 0x10000 0 256 (keyBytes c) (by simp [key_length]) (by simp [key_length])
theorem key_blocks (n : Nat) : ∀ b < 2, ∃ a sl, keySrc 1024 ⟨keyBytes 0⟩ none 0 b 0 0 = .stored a sl ∧ hReadBlock (streamFed n) 0 a 4096 sl = .ok (List.replicate 4096 0) := by
  intro b hb
  have c := stream_clean streamGoing 2 { openWin with state := .bound } (.replicate n 1)
  rcases (by omega : b = 0 ∨ b = 1) with rfl | rfl
  · exact ⟨0x20000, 0x40000, by decide, clean_block c _ _ _ _ (by simp [key_length]) (by simp [key_length]) (by decide) (by decide)⟩
  · exact ⟨0x22000, 0x40008, by decide, clean_block c _ _ _ _ (by simp [key_length]) (by simp [key_length]) (by decide) (by decide)⟩
/-- What the clauses of STREAM ask of their subscriber: that it is served, its memory in order and its window in a state. -/
def subscribed (s : State) (e : Entry) (w : KwState) : Bool := ownedSubs s 0 e == [(0, 0, 0)] && popCount 4 (e.cmd.mod / 2 ^ 28 % 16) == 1 && serves s 0 0 &&
  siteMemOk (siteAt s 0) && ((setAt s 0 0).wins.get 0).state == w && ((setAt s 0 0).wins.get 0).fill == 0
theorem witness_StreamBinds : runningEntry streamHome (.larder 0) 0xC1 = some streamWork ∧ (hhAt streamHome 0).lease = some lease1 ∧
    subscribed streamHome streamWork .opened = true ∧ (setAt streamHome 0 0).wins.get 0 = openWin ∧
    hRead streamHome 0 true .read 0x10000 256 = .ok (keyBytes 0) ∧ (keyBytes 0).length = 256 ∧ wholeRange winRange = true ∧
    blockRead streamHome (.larder 0) streamWork (headerFeed streamHome 0 0x10000) 0 = true ∧ keyCheck lease1 0x10000 ⟨keyBytes 0⟩ (some 1) = none ∧
    winRange.inner = 2 ^ lease1.log2n ∧ winRange.c2 = 2 * cdiv 1 (KeyHdr.alpha ⟨keyBytes 0⟩) := by
  refine ⟨by decide +kernel, rfl, by decide +kernel, by decide +kernel, ?_, by decide +kernel, by decide, ?_, by decide +kernel, by decide, by decide⟩
  · have := key_read 0 (stream_clean streamWork 1 openWin [])
    exact this.trans (congrArg Except.ok (List.take_of_length_le (by rw [List.drop_zero, key_length])))
  · exact read_all (en := 6) (n := 1) (by decide +kernel) (Nat.le_refl 1) 0 (Nat.lt_add_one 0)
theorem witness_StreamDelivers : (∀ n, n = 15 ∨ n = 16 → runningEntry (streamFed n) (.larder 0) 0xC1 = some streamGoing ∧
      subscribed (streamFed n) streamGoing .bound = true ∧ ((setAt (streamFed n) 0 0).hqs.get 3).length = n ∧
      preExpanded (streamFed n) 0 0 0x10000 ⟨keyBytes 0⟩ = none) ∧
    (∀ n, n = 15 ∨ n = 16 → ∀ b < 2, blockRead (streamFed n) (.larder 0) streamGoing (bodyFeed (streamFed n) 0 streamGoing lease1 0x10000 ⟨keyBytes 0⟩) b = true) ∧
    streamCount lease1 streamGoing ⟨keyBytes 0⟩ = 2 := by
  refine ⟨?_, fun n hn b hb => read_all (en := 6) (n := 2) ?_ (show streamCount lease1 streamGoing ⟨keyBytes 0⟩ ≤ 2 by decide)
    b (show b < streamCount lease1 streamGoing ⟨keyBytes 0⟩ from hb), by decide⟩
  · rintro n (rfl | rfl) <;> decide +kernel
  · rcases hn with rfl | rfl <;> decide +kernel
theorem area_plain : PlainDest (expanding 0x50000) 0 (inRanges [(0x50000, 8192), (0x52000, 8)]) :=
  ranges_plain (s := expanding 0x50000) (mapped_of rfl rfl) rfl rfl (by decide) rfl (by decide) (by decide)
theorem witness_KeyStreams : (∀ c, Clean c → hRead (loaded c 0x10000 (keyBytes 1)) 0 true .read 0x10000 256 = .ok (keyBytes 1)) ∧
    runningEntry (prexHome 7) (.larder 0) 0xC2 = some prexWork ∧ keyCheck lease1 0x10000 ⟨keyBytes 1⟩ none = none ∧ KeyHdr.compressed ⟨keyBytes 1⟩ = true ∧
    (regAt (prexHome 7) 0).ld.ann.length < 8 ∧ 8 ≤ (regAt (prexHome 8) 0).ld.ann.length ∧ expansionOn (expanding 0x50000) 0 = true ∧
    (regAt (expanding 0x50000) 0).ld.ann.find? (fun a => !a.done) = some ann0 ∧
    areaBad (expanding 0x50000) 0 0x50000 8192 = false ∧ areaBad (expanding 0x50000) 0 0x52000 8 = false ∧
    PlainDest (expanding 0x50000) 0 (inRanges [(0x50000, 8192), (0x52000, 8)]) ∧ areaBad (expanding (2 ^ 34)) 0 (2 ^ 34) 8192 = true ∧
    expansionOn home 0 = false := by
  refine ⟨fun c h => ?_, by decide +kernel, by decide +kernel, by decide +kernel, by decide +kernel, by decide +kernel, by decide +kernel, by decide +kernel,
    by decide +kernel, by decide +kernel, area_plain, by decide +kernel, by decide +kernel⟩
  have := key_read 1 h
  exact this.trans (congrArg Except.ok (List.take_of_length_le (by rw [List.drop_zero, key_length])))

/- COPY, in the MVE of region 0. -/

def inMve (e : Entry) : State := upReg home 0 fun g => { g with mve := { g.mve with ents := [e], next := 2 } }
def block0 (a : Nat) : Tensor := ⟨a, 1024, 1, 1, 4, 0, 0⟩
def copyWork (a d : Opnd) : Entry := work (rec0 0xA1 0) a .none d
/-- Its streams when its source has arrived and n writes are outstanding. -/
def copyFed (n : Nat) : State := upReg home 0 fun g => { g with mve := { g.mve with
  ents := [copyWork (.cellar cellarVals 0x30000) (.cellar { cellarVals with base := 0x20100 } 0x30004)]
  streams := [arrived 5 1, { arrived 5 1 with write := true, out := List.replicate n ⟨0x400020100, 128, 0, 0⟩ }] } }
def copyCellar : State := inMve (copyWork (.cellar cellarVals 0x30000) (.cellar { cellarVals with base := 0x20100 } 0x30004))
theorem witness_CopyMovesTensor :
    runningEntry (inMve (copyWork (.pantry (block0 0) 0) (.pantry (block0 0x1000) 0))) (.mve 0) 0xA1 = some (copyWork (.pantry (block0 0) 0) (.pantry (block0 0x1000) 0)) ∧
    siteOf home (clusterOf 0 0) = some 0 ∧ holdsExcl home 0 (clusterOf 0 0) = true ∧ (∀ w ∈ (setAt home 0 0).wins.toList, w.state = .closed) ∧
    (pRead (viewOf (siteAt home 0)) (block0 0) true).2 = none ∧ rowAddr (block0 0) 0 + rowBytes (block0 0) ≤ pantrySize ∧
    (∀ u, covers (block0 0) u = true → covers (block0 0x1000) u = false) ∧ RowsApart (block0 0x1000) ∧ rowBytes (block0 0x1000) % 4096 = 0 ∧
    runningEntry copyCellar (.mve 0) 0xA1 =
      some (copyWork (.cellar cellarVals 0x30000) (.cellar { cellarVals with base := 0x20100 } 0x30004)) ∧
    hReadTensor copyCellar 0 cellarVals 0x30000 = .ok [List.replicate 128 0] ∧
    PlainDest copyCellar 0 (tensorVas { cellarVals with base := 0x20100 } 0x30004) ∧
    blockIssued copyCellar (.mve 0) (copyWork (.cellar cellarVals 0x30000) (.cellar { cellarVals with base := 0x20100 } 0x30004))
      (tensorFeed copyCellar 0 .write { cellarVals with base := 0x20100 } 0x30004) 0 = true ∧
    writesOut copyCellar (.mve 0) (copyWork (.cellar cellarVals 0x30000) (.cellar { cellarVals with base := 0x20100 } 0x30004)) = false ∧
    writesOut (copyFed 1) (.mve 0) (copyWork (.cellar cellarVals 0x30000) (.cellar { cellarVals with base := 0x20100 } 0x30004)) = true ∧
    (∀ u, covers cellarVals u = true → covers { cellarVals with base := 0x20100 } u = false) := by
  refine ⟨by decide +kernel, by decide +kernel, by decide +kernel, by decide +kernel, by decide +kernel, by decide, ?_, rows_apart (by decide), by decide,
    by decide +kernel, row_read (mapped_of rfl rfl) rfl,
    ranges_plain (s := copyCellar) (mapped_of rfl rfl) rfl rfl (by decide) (xs := [(0x20100, 128), (0x30004, 4)]) (by decide +kernel) (by decide) (by decide),
    by decide +kernel, by decide +kernel, by decide +kernel, ?_⟩
  · exact (apart_below 0x1000 (by decide)).resolve_left (by decide)
  · exact (apart_below 0x20100 (by decide)).resolve_left (by decide)

/- The polynomial sequencer: a job of one limb with one row and one column. -/

def jobBytes : List Byte := leBytes 1 1 ++ leBytes 1 0xC0 ++ leBytes 1 1 ++ leBytes 1 0 ++ leBytes 2 1 ++ leBytes 2 1 ++ leBytes 1 1 ++ leBytes 1 1 ++ leBytes 1 1 ++
  leBytes 1 0 ++ leBytes 4 32 ++ leBytes 4 0 ++ leBytes 4 0 ++ leBytes 4 0x1000 ++ leBytes 12 0 ++ leBytes 4 0x2000 ++ leBytes 12 0 ++ leBytes 4 0x100000 ++ leBytes 4 0
def psqOf (f : Psq → Psq) : State := upSet (ringed home) 0 0 fun t => { t with psq := f t.psq, sems := t.sems.set 0 ⟨1, false⟩ }
def psqJob : State := psqOf fun p => { p with enable := true, busy := true, jobRec := jobBytes }
def psqDone : State := psqOf fun p => { p with enable := true, busy := true, jobRec := jobBytes, allIssued := true, lastDone := true }
/-- A job whose first field is wrong. -/
def psqBad : State := psqOf fun p => { p with enable := true, busy := true, jobRec := jobBytes.set 0 9 }
theorem psq_read {s : State} (c : Clean s) : hRead (loaded s 0x10000 jobBytes) 0 true .read (0x10000 + 0) 64 = .ok ((jobBytes.drop 0).take 64) :=
  loaded_hRead c.root c.retired c.poison .read 0x10000 0 64 jobBytes (by decide) (by decide)
theorem job_length : jobBytes.length = 64 := by simp [jobBytes, leBytes_length]
theorem psq_anyRead {s : State} (c : Clean s) : hRead (loaded s 0x10000 jobBytes) 0 true .read 0x10000 64 = .ok jobBytes :=
  (psq_read c).trans (congrArg Except.ok (List.take_of_length_le (by rw [List.drop_zero, job_length])))
theorem witness_PolynomialSequencer :
    (∀ c, Clean c → hRead (loaded c 0x10000 jobBytes) 0 true .read 0x10000 64 = .ok jobBytes) ∧ clusterOpen home .pf 0 0 ∧
    (let s := psqOf fun p => { p with enable := true, base := 0x10000 }
     liveSet s 0 = some (0, 0) ∧ (hhAt s 0).tx.committing = false ∧ stopping s 0 = false ∧ modeOf s 0 ≠ 2 ∧ 0 < ((setAt s 0 0).sems.get 0).count ∧ ∀ q ∈ semQueues 0, semTaker s q ≠ some (0, 0, 0)) ∧
    (let s := upSet (psqOf fun p => { p with enable := true }) 0 0 fun t => { t with
        queues := t.queues.set 4 ⟨[{ work ⟨0x80, 0, 0x80, 0, 0, 0, 0, 0⟩ .none .none .none with phase := .queued }], 2, false, 0, 0⟩ }
     ∃ q ∈ semQueues 0, semTaker s q = some (0, 0, 0)) ∧
    jobCheck (siteAt psqJob 0) (setAt psqJob 0 0) lease0 ⟨jobBytes⟩ = none ∧
    (jobCheck (siteAt psqBad 0) (setAt psqBad 0 0) lease0 ⟨jobBytes.set 0 9⟩).isSome = true ∧
    bufferBusy ((setAt psqJob 0 0).queues.get 0).ents ⟨jobBytes⟩ 0 = false ∧
    ((setAt psqJob 0 0).queues.get 0).ents.length + Job.records ⟨jobBytes⟩ ≤ 64 ∧ ((setAt psqJob 0 0).queues.get 0).next < 2 ^ 32 ∧
    siteMemOk (siteAt psqJob 0) = true ∧ (siteAt psqJob 0).inReset = false ∧ (hhAt psqDone 0).cmd.cqEnable = true ∧
    (hhAt psqDone 0).cmd.cqWait = [] ∧ ringState psqDone 0 = .free ∧ (setAt psqDone 0 0).psq.worded = false ∧ jobBytes.length = 64 ∧
    (setAt (psqOf fun p => { p with failed := true, jobRec := jobBytes }) 0 0).psq.failed = true ∧
    (setAt (psqOf fun p => { p with suspended := true, base := 0x10000 }) 0 0).psq.suspended = true :=
  ⟨fun _ c => psq_anyRead c, home_open (.inr rfl), by decide +kernel⟩

/- An index vector in the cellar. -/

/-- GATHER with its index vector in the cellar. -/
def permCellar : Entry := permWork 0x43 0 (vals0 0) (vals0 0x1000) (.cellar cellarVals 0x30000)
theorem witness_PermutationIndex : engaged (atWork 2 permCellar) 2 0x43 permCellar ∧ hReadTensor (atWork 2 permCellar) 0 cellarVals 0x30000 = .ok [List.replicate 128 0] ∧
    modeOf (atWork 2 permCellar) 0 ≠ 2 ∧ elemCount (vals0 0x1000) = elemCount cellarVals ∧ elems 4 (List.replicate 128 0) = List.replicate 32 0 :=
  ⟨engaged_of (by decide +kernel), row_read (mapped_of rfl rfl) rfl, by decide +kernel, by decide, by decide +kernel⟩
end Sys2Proof.Tests
end

