-- ==== Sys2Proof/Tests/WitnessHouse.lean ====
section
/-! SUPPORT. States that meet the hypotheses of the statements on shelves, channels, transactions, pools, images, losses,
pairing and resets. -/

namespace Sys2Proof.Tests
open Machine
set_option Elab.async false

theorem calm_at {s : State} (h : (s.pools.toList.all fun p => p.stage == .none) = true ∧ s.loader.job = none) : calm s := by
  refine ⟨fun i => ?_, h.2⟩
  have := List.all_eq_true.mp h.1 (s.pools.get i) (by simp [Vector.get])
  simpa using this
def shelfState (x : Shelf) : State := upSite home 1 fun c => { c with shelves := c.shelves.set 2 x }
theorem upSite_calm {s : State} (c : calm s) (i : Site) (f : SiteSt → SiteSt) : calm (upSite s i f) := c
theorem witness_PantryShelvesAndAperture :
    calm (shelfState .waking) ∧ pfOrHouse .pf = true ∧ siteMemOk (siteAt (shelfState .waking) 1) = true ∧
    (siteAt (shelfState .waking) 1).shelves.get 2 = .waking ∧ (siteAt home 1).shelves.get 2 ≠ .waking ∧
    (siteAt (upSite home 1 fun c => { c with pn := { c.pn with zeroBusy := true } }) 1).pn.zeroBusy = true ∧
    (siteAt home 1).pn.zeroBusy = false ∧ siteOf home 1 = some 1 ∧ siteWritable home 1 = true ∧ (siteAt home 1).served = none ∧
    ((siteAt home 1).pn.apBase * 0x20000 + 0x1FFF8) / 3145728 = 0 ∧ (siteAt home 1).shelves.get 0 = .on ∧
    (siteAt (shelfState .off) 1).shelves.get 2 ≠ .on ∧ (siteAt home 0).served.isSome = true :=
  ⟨upSite_calm home_calm _ _, rfl, by decide +kernel⟩

/-- Channel 38 of stack 1 with its counters changed. -/
def channel (f : ChanSt → ChanSt) : State := upChan home 1 6 f
/-- Channel 38 is at its limit, with AUTO, while channel 5 stands retired. -/
def tired : State := let s := upStack (channel fun x => { x with ueTimes := List.replicate 300 0 }) 1 fun k => { k with auto := true }
  { s with cellar := { s.cellar with retired := some (5, false) } }
theorem witness_CellarControllers : home.cellar.poison.contains (4 * granuleOf 38 (7 / 4) + 7 % 4) = false ∧
    (lastSecond home.us (chanAt home 38).ceTimes).length ≤ (home.cellar.stackSts.get 1).ceLimit ∧ (chanAt home 38).ueTimes.length < (home.cellar.stackSts.get 1).ueLimit ∧
    (lastSecond home.us (chanAt home 38).ueTimes).length < (home.cellar.stackSts.get 1).ueLimit ∧ domainIsOn home 51 = true ∧ home.cellar.retired = none ∧
    (home.cellar.stackSts.get 1).ceLimit < (chanAt (channel fun x => { x with ceTimes := List.replicate 70000 0 }) 38).ceTimes.length ∧
    agentUp home .pf = true ∧ (chanAt home 38).tgBusy = false ∧ tgWriteOk { home with deed := none } 38 = true ∧
    (chanAt (channel fun x => { x with tgBusy := true, tgRunMix := 2 }) 38).tgBusy = true ∧ spWf 0 home.cellar.mem = true ∧ home.cellar.second = none ∧
    (home.cellar.stackSts.get 1).ueLimit ≤ (lastSecond tired.us (chanAt tired 38).ueTimes).length ∧ (tired.cellar.stackSts.get 1).auto = true ∧
    tired.cellar.retired = some (5, false) ∧ tired.cellar.second = none ∧ tired.pw.role ≠ .primary := by decide +kernel

/-- Household 0 in a group with journal at 0x100000, pair 5 in its write set. -/
def inGroup (f : HhTx → HhTx) : State := upTx home 0 fun t => f { t with journal := 0x100000, opened := true, writeSet := [(5, true)] }
/-- An invalidation of all pages is in progress; a page is cached, and some requests are outstanding. -/
def caching (out : List Request) : State := streamsOn [strm0 false [] out] (upTr home 0 fun t => { t with
  tlbBusy := true, tlbSpan := 31, tlb := [⟨0, 5, ⟨2 ^ 34, false, true, true, true⟩⟩] })
theorem witness_TransactionGroups :
    hhOpen home (.vf 0) 0 ∧ calm (inGroup id) ∧ spWf 0 home.cellar.mem = true ∧ home.cellar.retired = none ∧
    (hhAt home 0).cmd.cqWait = [] ∧ home.loader.waits ≠ some 0 ∧ (hhAt (inGroup id) 0).tx.opened = true ∧
    (hhAt home 0).tx.opened = false ∧ (hhAt (inGroup fun t => { t with opened := false }) 0).tx.journal ≠ 0 ∧
    ({ home with loader := { home.loader with waits := some 0 } }).loader.waits = some 0 ∧
    (hhAt (inGroup fun t => { t with committing := true }) 0).tx.committing = true ∧
    commitWaits (inGroup fun t => { t with committing := true }) 0 = false ∧
    commitWaits (upSet (inGroup fun t => { t with committing := true }) 0 0 fun t => { t with psq := { t.psq with busy := true } }) 0 = true ∧
    prevSent (inGroup fun t => { t with committing := true }) 0 = true ∧ (inGroup id).pw.role ≠ .primary ∧
    (((hhAt (inGroup id) 0).tx.writeSet.map Prod.fst).Nodup) ∧
    ¬ (0x100000 ≤ home.selBase + 5 / 8 ∧ home.selBase + 5 / 8 < 0x100000 + 4096) ∧ (hhAt (inGroup id) 0).cmd.cqEnable = false ∧
    (hhAt (inGroup id) 0).sb.pending = false ∧ (inGroup id).sb.cur = none ∧ (hhAt (caching []) 0).tr.tlbBusy = true ∧
    requestsOut (caching []) 0 = false ∧ requestsOut (caching [req0]) 0 = true ∧
    (∃ e ∈ (hhAt (caching [req0]) 0).tr.tlb, tlbinvNames (hhAt (caching [req0]) 0).tr e = true) ∧
    (∀ i, ∀ y ∈ setEntries (setAt (inGroup id) i 0), descForm y.cmd.opcode = true → y.phase = .queued ∨ y.phase = .done) :=
  ⟨home_hhOpen, calm_at (by decide +kernel), by decide +kernel⟩

/-- Pool 0 over cluster 0, of households 0 and 3, which runs household 0; each has what `work0` and `work3` say. -/
def pool0 : PoolDef := ⟨true, 10, 15, 1, 9, .replicate 16 2⟩
def pooled (work0 work3 given : Nat) : State :=
  let g : Grant := { grant0 with pool := some 0 }
  let l : Lease := { lease0 with excl := 0, usePool := true }
  let s := homeOf l id
  let q (n : Nat) : EQueue := ⟨List.replicate n (finished stOk), 2, false, 0, 0⟩
  let s := { s with
    deed := some { deed0 with grants := .replicate 16 g, pools := [pool0] }
    hhs := s.hhs.set 3 { HhSt.init with lease := some l, vfOn := true }
    pools := s.pools.set 0 { PoolSt.init with running := some 0, left := 0, given := given, idle := 1 } }
  upSet (upSet s 0 0 fun t => { t with queues := t.queues.set 0 (q work0) }) 0 3 fun t => { t with queues := t.queues.set 0 (q work3) }
theorem pooled_calm : calm (pooled 1 0 1) ∧ calm (pooled 0 0 1) ∧ calm (pooled 1 1 2) ∧ calm (pooled 0 1 1) :=
  ⟨calm_at (by decide +kernel), calm_at (by decide +kernel), calm_at (by decide +kernel), calm_at (by decide +kernel)⟩
/-- The pool serves none; household 0 was the last. -/
def vacant : State := upPool (pooled 0 1 1) 0 fun p => { p with running := none, last := some 0 }
theorem witness_PoolQuanta : poolDef (pooled 1 0 1) 0 = some pool0 ∧ ((pooled 1 0 1).pools.get 0).running = some 0 ∧ (hhAt (pooled 1 0 1) 0).nextLease = none ∧
    ((pooled 1 0 1).pools.get 0).given < pool0.weights.get 0 ∧ memberReady (pooled 1 0 1) 0 0 = true ∧ (∀ g, g ≠ 0 → memberReady (pooled 0 0 1) 0 g = false) ∧
    memberReady (pooled 0 0 1) 0 0 = false ∧ memberReady (pooled 1 1 2) 0 3 = true ∧
    (∀ j : Hh, (j.val + 15 - 0) % 16 < (3 + 15 - 0) % 16 → memberReady (pooled 1 1 2) 0 j = false) ∧ ((pooled 1 1 2).pools.get 0).given ≥ pool0.weights.get 0 ∧
    pendingWork (pooled 1 0 1) 0 0 = true ∧ pendingWork (pooled 0 1 1) 0 0 = false ∧ memberReady (pooled 0 1 1) 0 3 = true ∧
    (poolSites (pooled 1 1 2) 0).map (fun x => x.2.2) = [0] ∧ mustComplete (pooled 1 1 2) 0 0 = true ∧ mustComplete (pooled 0 1 1) 0 0 = false ∧
    ((pooled 1 0 1).pools.get 0).left = 0 ∧ ((pooled 1 0 1).pools.get 0).idle ≠ 0 ∧ (poolSites (pooled 0 1 1) 0 ≠ []) ∧
    ((upPool (pooled 1 0 1) 0 fun p => { p with left := 1 }).pools.get 0).left ≠ 0 ∧ (vacant.pools.get 0).running = none ∧
    memberReady vacant 0 3 = true ∧ (∀ j : Hh, (j.val + 15 - 0) % 16 < (3 + 15 - 0) % 16 → memberReady vacant 0 j = false) := by decide +kernel

/-- An image of 512 bytes is named to the loader. -/
def loading (s : State) (f : Loader → Loader) : State := { s with loader := f { s.loader with addr := 0x40000, len := 512 } }
/-- An image whose header is in order and names a signer. -/
def imageOf (kind hh signer : Nat) : List Byte := leBytes 4 imgMagic ++ leBytes 1 1 ++ leBytes 1 kind ++ leBytes 1 hh ++ leBytes 1 0 ++ leBytes 4 512 ++
  leBytes 4 9 ++ leBytes 16 0 ++ beBytes 48 signer ++ leBytes 432 0
def inRole (r : Role) (f : PwSt → PwSt) : State := { home with pw := f { home.pw with role := r } }
/-- The Strongbox works for the house. -/
def sbWorks (s : State) : State := { s with sb := { s.sb with cur := some ⟨.house, [], .fetched, [], [], 0⟩ } }
theorem witness_ImageLoadsEarly : (imageOf 1 0xFF 1).length = 512 ∧ deedEarly { sbWorks home with deed := none } (imageOf 1 0xFF 1) 512 = none ∧
    leaseEarly (sbWorks home) deed0 1 (imageOf 2 1 0) 512 none = none ∧ (sbWorks home).sb.cur.isSome = true ∧ home.sb.cur = none ∧ home.boot.stage = 15 ∧
    alive home = true ∧ (inRole .standby id).pw.role = .standby ∧ (inRole .deposed id).pw.role = .deposed ∧
    lostCluster { home with map := home.map.set 0 0x3F } 1 = true := by decide +kernel
theorem witness_ImageLoads :
    pfOrHouse .house = true ∧ (∀ i, (home.pools.get i).stage = .none) ∧
    ({ loading home id with deed := none } : State).deed = none ∧
    (loading home fun l => { l with busy := true }).loader.busy = true ∧ (loading home id).loader.addr % 64 = 0 ∧
    512 ≤ (loading home id).loader.len ∧ (loading home id).loader.len ≤ 2 ^ 20 ∧ (loading home id).loader.len % 64 = 0 ∧
    (List.replicate 512 (0 : Byte)).length = (loading home id).loader.len ∧ (loading home id).loader.busy = false ∧
    (loading home id).loader.waits = none ∧ (loading home id).loader.job = none ∧ (home.deed.isSome = true) ∧
    (deed0.grants.get 1).enabled = true ∧ home.pw.role ≠ .standby ∧ home.pw.role ≠ .deposed ∧ (hhAt home 1).lease = none ∧
    (hhAt home 0).lease = some lease0 ∧ sitesOfMask home lease0.excl ≠ [] ∧
    (siteAt (upSite home 0 fun c => { c with pn := { c.pn with zeroBusy := true } }) 0).pn.zeroBusy = true ∧
    lostCluster home home.loader.needs = false ∧
    ({ home with loader := { home.loader with job := some (.retire 0) } } : State).loader.job = some (.retire 0) ∧
    (∀ y : Site, home.loader.watch.testBit y.val = false) :=
  ⟨rfl, home_calm.1, rfl, by decide +kernel⟩

def dead0 : State := upSite home 0 fun c => { c with dead := true }
/-- Reserve 32 has failed while it serves nobody. -/
def deadReserve : State := upSite home 32 fun c => { c with dead := true }
/-- A port in a state. -/
def portIn (s : State) (p : PortId) (x : PortState) : State := upPort s p fun y => { y with state := x }
theorem witness_LossOfClusterRegionDie :
    calm dead0 ∧ siteOf home 0 = some 0 ∧ globalOf home 0 = some 0 ∧ (siteAt home 0).retired = false ∧
    (siteAt home 0).dead = false ∧ holdsExcl home 0 0 = true ∧ (siteAt dead0 0).dead = true ∧ globalOf dead0 0 = some 0 ∧
    reserveAvail dead0 0 = true ∧ reserveAvail (upSite dead0 32 fun c => { c with dead := true }) 0 = false ∧
    home.rst.active = none ∧ fusedSite home 0 = false ∧ home.fo.regionFaults = 0 ∧ home.sb.cur = none ∧ inRegion home 0 0 = true ∧
    home.pw.role ≠ .deposed ∧ (inRole .primary id).pw.role = .primary ∧ agentUp home .house = true ∧ 32 ≤ (32 : Gl).val ∧
    globalOf deadReserve 32 = some 32 ∧ (siteAt deadReserve 32).dead = true ∧ (siteAt deadReserve 32).retired = false ∧
    (∀ h ∈ runsOn home 0, ∀ y ∈ setEntries (setAt home 0 h), descForm y.cmd.opcode = true → y.phase = .queued ∨ y.phase = .done) ∧
    1 ≤ ({ home with fo := { home.fo with regionFaults := 1 } } : State).fo.regionFaults ∧
    pinHas { home with deed := some { deed0 with pinmux := [(5, 9)] } } 9 = true ∧
    (inRole .primary fun w => { w with linkUp := true }).pw.linkUp = true ∧
    wallUp (portIn (inRole .primary fun w => { w with linkUp := true }) 16 .active) = true ∧ (portAt home 3).state = .off ∧
    portEnabled home 3 = true :=
  ⟨upSite_calm home_calm _ _, by decide +kernel⟩

def beat (twin : Nat) : Heartbeat := ⟨2, false, .replicate 16 0, digest16 2, 0, twin, 0x13⟩
def aliveDeed : Deed := { deed0 with pinmux := [(3, 8), (4, 7)] }
theorem witness_HeartbeatsAndTakeover : home.deed = some deed0 ∧ home.pw.take = .none ∧ home.pw.bulkBusy = false ∧
    wallTalks (portIn (inRole .primary id) 16 .active) = true ∧ pinHas { home with deed := some aliveDeed } 8 = true ∧ (inRole .primary id).pw.missed < 2 ∧
    (inRole .primary fun w => { w with missed := 2 }).pw.missed = 2 ∧ wallUp (inRole .primary fun w => { w with missed := 2 }) = false ∧
    ({ inRole .standby (fun w => { w with missed := 2, paired := true, pinAlive := true }) with deed := some aliveDeed } : State).pw.pinAlive = true ∧
    pinHas (inRole .standby fun w => { w with missed := 2, paired := true }) 8 = false ∧ portActive (portIn (inRole .primary id) 16 .active) 16 = true ∧
    rolesPair .primary 2 = true ∧ pairBad home deed0 (beat 0x12) = false ∧ pairBad home deed0 (beat 0x99) = true ∧ rolesPair .primary 1 = false ∧
    (∀ n < 16, portActive (inRole .standby id) n = false) ∧ portActive (portIn (inRole .standby id) 4 .active) 4 = true ∧
    wallUp (portIn (inRole .survivor fun w => { w with linkUp := true }) 17 .active) = true ∧
    (let w := (inRole .survivor fun w => { w with linkUp := true, candidate := true }).pw
     w.candidate = true ∧ w.linkUp = true ∧ w.bulkBusy = false ∧ w.syncing = false ∧ ∀ h, w.ship.get h = none) ∧
    (inRole .primary fun w => { w with syncing := true }).pw.syncing = true ∧
    (∀ q : PortId, 16 ≤ q.val → q.val ≠ 16 → (portAt (inRole .primary id) q).replay = []) ∧ home.pw.evPairFail = false ∧ home.pw.role = .solo := by decide +kernel

/-- A paired standby that mirrors, with a set of household 0 received. -/
def mirroring : State := inRole .standby fun w => { w with paired := true, frames := [⟨0, 9, 5, true⟩] }
theorem witness_MirroredSets :
    (List.replicate 65536 (0 : Byte)).length = 65536 ∧ (inRole .primary id).pw.role = .primary ∧ mirrors home = false ∧
    mirrors mirroring = true ∧ mirroring.cellar.retired = none ∧ spWf 0 mirroring.cellar.mem = true ∧
    (mirroring.pw.frames.filter fun f => f.hh == 0 && f.seq == 9).length = 1 ∧
    (hhAt (upTx mirroring 0 fun t => { t with journal := 0x100000 }) 0).tx.journal ≠ 0 ∧
    ¬ (0x100000 ≤ mirroring.selBase + 5 / 8 ∧ mirroring.selBase + 5 / 8 < 0x100000 + 4096 + 8) ∧
    (inRole .primary id).pw.bulkBusy = false ∧ quiescing home 0x54 = false ∧ (∀ h, home.pw.ship.get h = none) ∧
    home.pw.syncing = false ∧ wallUp (inRole .primary id) = false ∧ wallUp (portIn (inRole .primary id) 16 .active) = true :=
  ⟨by rw [List.length_replicate], rfl, by decide +kernel⟩

def watched : Deed := { deed0 with timers := [⟨0, 1, 1000⟩] }
theorem witness_ResetsKeepAndClear : home.boot.powered = true ∧ home.boot.tripped = false ∧ ({ home with deed := some watched } : State).deed = some watched ∧
    (∃ x ∈ watched.timers, x.func = 1) ∧ porchStrap { home with boot := { home.boot with strap := ⟨true, false, 4, 400⟩ } } = true ∧ porchStrap home = false ∧
    alive home = true ∧ alive { home with boot := { home.boot with powered := false } } = false ∧ (∀ d, home.deed = some d → ∀ x ∈ d.timers, x.func ≠ 1) ∧
    (0x50 / 16 % 64 ≠ 0 ∧ (8 : Nat) / 16 % 64 = 0 ∧ (0x200 : Nat).testBit 4 = false) :=
  ⟨by decide +kernel, by decide +kernel, rfl, ⟨_, List.mem_singleton.mpr rfl, rfl⟩, by decide +kernel, by decide +kernel, by decide +kernel, by decide +kernel,
    fun d h => by cases h; decide, by decide⟩

def resetting (code : Nat) : State := { home with rst := { home.rst with active := some ⟨code, false⟩ } }
def testing0 : State := upSite home 1 fun c => { c with testing := true }
theorem witness_BlockResets :
    calm home ∧ home.rst.active = none ∧ blockRefused home 0 = false ∧ blockRefused home 0x60 = true ∧
    blockRefused home 0xFF = true ∧ (resetting 0x50).rst.active = some ⟨0x50, false⟩ ∧ blockOf 0x50 = some .strongbox ∧
    blockOf 0x21 = some (.cluster 33) ∧ blockOf 0x47 = some (.region 7) ∧ blockOf 0x48 = some (.larder 0) ∧
    blockIdle (resetting 0x50) .strongbox = true ∧ (resetting 0x63).rst.active = some ⟨0x63, false⟩ ∧
    blockOf 0x63 = some (.stack 3) ∧ blockOf 0x54 = some .wall ∧ agentUp home .pf = true ∧ 0 ≤ home.rst.timeout ∧
    blockIdle (atWork 0 (work (rec0 0 0) .none .none .none)) (.cluster 0) = false ∧ (hhAt home 0).lease.isSome = true ∧
    (hhAt home 1).lease = none ∧ (siteAt home 1).testing = false ∧ (siteAt testing0 1).testing = true ∧
    (siteAt testing0 1).retired = false ∧ (siteAt testing0 1).dead = false :=
  ⟨home_calm, by decide +kernel⟩
end Sys2Proof.Tests
end

