-- ==== Sys2Proof/Tests/WitnessPorts.lean ====
section
/-! SUPPORT. States that meet the hypotheses of the statements on start-up, terrace, porch, doorbells, Hearth and Strongbox. -/

namespace Sys2Proof.Tests
open Machine
set_option Elab.async false

/-- The package at a stage of its start-up. -/
def bootAt (n : Nat) (f : BootSt → BootSt) : State := { home with boot := f { home.boot with stage := n } }
/-- A boot header whose images are 512 bytes long, and what a stage reads. -/
def header0 : List Byte := leBytes 4 0x4E524F42 ++ leBytes 1 1 ++ leBytes 3 0 ++
  leBytes 4 0x1000 ++ leBytes 4 512 ++ leBytes 4 0x2000 ++ leBytes 4 512 ++ leBytes 4 0x3000 ++ leBytes 4 512 ++ leBytes 32 0
def input0 : BootInput := ⟨[], header0, some (List.replicate 512 0), some (List.replicate 512 0), [], [], [], none, none, 0x13, false⟩
def sampled (v : List Nat) : BootInput := { input0 with samples := v }
/-- It waits for firmware from the host. -/
def awaiting : State := bootAt 3 fun b => { b with fwOk := false, strap := ⟨true, false, 5, 500⟩ }
theorem witness_StartUpSteps : alive home = true ∧ home.pw.role ≠ .deposed ∧ (bootAt 1 id).boot.stage = 1 ∧
    (bootAt 2 id).boot.error = 0 ∧ (bootAt 2 fun b => { b with measure := true }).boot.measure = true ∧ (sampled (List.replicate 8 470)).samples.length = 8 ∧
    (∀ v ∈ (sampled (List.replicate 8 470)).samples, 100 * 5 ≤ v + 30 ∧ v ≤ 100 * 5 + 30) ∧
    (∃ v ∈ (sampled [100, 200, 100, 100, 100, 100, 100, 100]).samples, ∃ w ∈ (sampled [100, 200, 100, 100, 100, 100, 100, 100]).samples, v + 60 < w ∧ v < 1470) ∧
    strapSource ⟨true, false, 2, 200⟩ = 0 ∧ strapSource ⟨true, false, 5, 500⟩ = 1 ∧ (bootAt 3 fun b => { b with fwOk := false }).boot.fwOk = false ∧
    home.boot.status = 0 ∧ home.boot.fwWait = none ∧ home.sb.cur = none ∧ flashCopy input0 0x0C input0.fw1 = some (List.replicate 512 0) ∧
    flashCopy input0 0x14 (some [0]) = none ∧ (firmwareErr (bootAt 3 id) (List.replicate 512 0)).isNone = false ∧
    (∀ j : Site, j.val = 48 → fusedSite home j = false) ∧ { input0 with trainFail := [2] }.trainFail ≠ [] ∧ { input0 with chanFail := [255] }.chanFail = [255] ∧
    { input0 with testFail := [47] }.testFail = [47] ∧ fusedSite home 47 = false ∧ (siteAt home 47).retired = false ∧ (siteAt home 47).dead = false ∧
    home.boot.warm = false ∧ home.cellar.retired = none ∧ home.rst.wasServing = false ∧ (∀ h, (hhAt home h).tx.journal = 0) ∧ (bootAt 9 id).deed.isSome = true ∧
    ({ home with deed := none, loader := { home.loader with busy := true } } : State).loader.busy = true ∧ home.loader.busy = false ∧ home.loader.done = false ∧
    (bootAt 9 fun b => { b with fwHost := true }).boot.fwHost = true ∧ home.boot.fwHost = false ∧ flashCopy input0 0x1C input0.deed = none ∧
    home.pw.role = .solo ∧ (inRole .primary id).pw.role = .primary ∧ roleCode .survivor = 4 ∧ { input0 with twin := some 4 }.twin = some 4 ∧
    { input0 with twin := some 1, twinStarting := true }.twinStarting = true ∧ 11 < (bootAt 15 id).boot.stage ∧ agentUp home .pf = true ∧
    fwAwaited awaiting = true ∧ fwAwaited home = false ∧ awaiting.boot.fwBusy = false ∧ awaiting.boot.fwAddr % 64 = 0 ∧ (sbWorks awaiting).sb.cur.isSome = true ∧
    (upBoot awaiting fun b => { b with fwBusy := true, fwWait := some (List.replicate 512 0) }).boot.fwWait = some (List.replicate 512 0) := by decide +kernel
theorem witness_StartUpSteps_calm : calm (bootAt 5 id) := calm_at (by decide +kernel)
/-- An APPLYING journal of household 0 with one entry: pair 2^17, new selector 1. -/
def journaled : State := let s := upTx (bootAt 8 id) 0 fun t => { t with journal := 2 ^ 34 + 0x100000 }
  { s with cellar := { s.cellar with
    mem := spWrite 0 (spWrite 0 tables0 (2 ^ 34 + 0x100000) (leBytes 4 2 ++ leBytes 4 1)) (2 ^ 34 + 0x101000) (leBytes 8 (2 ^ 34 + 1)) } }
theorem witness_StartUpSteps_journal : (hhAt journaled 0).tx.journal ≠ 0 ∧ leNat (cRead journaled (2 ^ 34 + 0x100000) 4) = 2 ∧
    leNat (cRead journaled (2 ^ 34 + 0x100000 + 4) 4) = 1 ∧ leNat (cRead journaled (2 ^ 34 + 0x100000 + 4096) 8) / 2 ^ 17 % 2 ^ 22 = 2 ^ 17 ∧
    (∀ g, g ≠ 0 → (hhAt journaled g).tx.journal = 0) ∧ spWf 0 journaled.cellar.mem = true ∧ journaled.cellar.retired = none := by decide +kernel

def packet (ty dst hops len : Nat) : Packet :=
  ⟨ty, 0, hops, 0, 0, dst, 0x20, 4, len, 0, 0, if ty = 1 then 0x20000 else 0, if ty = 0x11 ∨ ty = 0x13 then 9 + 65536 * 8 else 0, List.replicate len 7⟩
/-- A party-wall port ACTIVE with a frame in its replay buffer, the other ACTIVE too. -/
def framed : State := upPort (portIn (inRole .primary id) 17 .active) 16 fun y => { y with state := .active, replay := [.frame 0 9 0 1 []] }
/-- A FENCE of package 0x20 is remembered. -/
def fencing (s : State) : State := { s with terr := { s.terr with floods := [⟨false, 0x20, 1, 0⟩] } }
theorem witness_TerracePorts : (portAt (portIn home 3 .training) 3).state = .training ∧ (portAt (portIn home 3 .hello) 3).state = .hello ∧
    (portAt (portIn home 3 .active) 3).state = .active ∧ (portAt (portIn home 3 .active) 3).missed < 2 ∧
    2 ≤ (portAt (upPort home 3 fun y => { y with state := .active, missed := 2 }) 3).missed ∧ (portAt home 3).state = .off ∧
    (portAt framed 17).state = .active ∧ (portAt framed 16).state = .active ∧ (∃ m ∈ (portAt framed 16).replay, isFrameOf 0 9 m = true) ∧
    (∀ q : PortId, 16 ≤ q.val → q ≠ 16 → (portAt (portIn home 16 .active) q).state ≠ .active) ∧ packetOk (packet 0x10 0xFFFF 32 16) 0x10 = true ∧
    packetOk (packet 0x10 0xFFFF 32 15) 0x10 = false ∧ fenced home 0x20 = false ∧ fenced (fencing home) 0x20 = true ∧ (0x10 : Nat) ≤ 0x0FFF ∧
    ownId home = 0x12 ∧ ownTwin home = 0x13 ∧ home.pw.oweYield = none ∧
    (inRole .survivor fun w => { w with oweYield := some (.replicate 16 0) }).pw.oweYield.isSome = true := by decide +kernel

/-- A terrace port ACTIVE, a route to package 0x20 by port 7, household 0 receiving. -/
def terraced : State := upTerr { portIn (portIn home 3 .active) 7 .active with
  terr := { (portIn (portIn home 3 .active) 7 .active).terr with routes := [(0x20, 2 ^ 31 + 7 * 2 ^ 16)] } } 0 fun x => { x with rxEnable := true, rxPeer := 0xFFFF }
/-- The port of that route is down, and port 3 stands in for it. -/
def detoured : State := { portIn terraced 7 .off with terr := { (portIn terraced 7 .off).terr with routes := [(0x20, 2 ^ 31 + 7 * 2 ^ 16 + 8)] } }
theorem rx_plain : PlainDest terraced 0 (vaRange 0x20000 64) :=
  ranges_plain (s := terraced) (mapped_of rfl rfl) rfl rfl (by decide) (xs := [(0x20000, 64)]) (by decide) (by decide) (by decide)
theorem witness_TerraceRouting :
    ({ terraced with pw := { terraced.pw with take := .fencing 0x13 [3, 7] } } : State).pw.take = .fencing 0x13 [3, 7] ∧
    pfOrHouse .pf = true ∧ PlainDest terraced 0 (vaRange 0x20000 64) ∧ portActive terraced 3 = true ∧ portHeld terraced 3 = false ∧
    terraced.pw.role ≠ .deposed ∧
    (∀ ty ∈ [1, 2, 3, 0x11, 0x12, 0x13], packetOk (packet ty 0x20 4 (if ty = 1 then 64 else 0)) ty = true) ∧
    (∀ ty ∈ [2, 3, 0x11, 0x12, 0x13], packetOk (packet ty 0x20 4 5) ty = false) ∧ packetOk (packet 1 0x20 4 4097) 1 = false ∧
    fenced terraced 0x20 = false ∧ fenced (fencing terraced) 0x20 = true ∧ mine terraced 0x20 = false ∧ mine terraced 0x12 = true ∧
    (spGet 0 terraced.terr.routes 0x20).testBit 31 = true ∧ spGet 0 terraced.terr.routes 0x20 / 2 ^ 16 % 16 = 7 ∧
    portActive terraced 7 = true ∧ (spGet 0 terraced.terr.routes 0x21).testBit 31 = false ∧ portActive detoured 7 = false ∧
    (spGet 0 detoured.terr.routes 0x20).testBit 3 = true ∧ portActive detoured 3 = true ∧
    (∀ r < 3, (spGet 0 detoured.terr.routes 0x20).testBit r = false ∨ portActive detoured r = false) ∧
    (∀ q < 16, (spGet 0 (portIn terraced 7 .off).terr.routes 0x20).testBit q = false ∨ portActive (portIn terraced 7 .off) q = false) ∧
    rxAccepts terraced 0 0x20 = true ∧ rxAccepts terraced 1 0x20 = false ∧ knownFlood terraced false 9 8 = false ∧
    spWf 0 terraced.terr.routes = true ∧ (Instr.fence 3 9 8 (packet 0x11 0 32 0)).wf = true ∧
    (Instr.routeClaim 3 9 8 (packet 0x13 0 32 0)).wf = true ∧
    knownFlood { terraced with terr := { terraced.terr with floods := [⟨true, 9, 8, 0⟩] } } true 9 8 = true ∧
    terraced.pw.take = .none ∧ agentUp home .pf = true :=
  ⟨rfl, rfl, rx_plain, by decide +kernel⟩

/-- A send descriptor of n bytes for package 0x20, at VA 0x10000, with its source at 0x20000 and 0x28000; the queue holds it. -/
def sendBytes (kind n : Nat) : List Byte := leBytes 1 kind ++ leBytes 3 0 ++ leBytes 2 0x20 ++ leBytes 2 0 ++ leBytes 8 0x20000 ++ leBytes 8 0x30000 ++
  leBytes 4 n ++ leBytes 4 0 ++ leBytes 8 (if kind = 2 then 0x28000 else 0) ++ leBytes 8 (if kind = 2 then 0x38000 else 0) ++ leBytes 16 0
theorem sendBytes_length (kind n : Nat) : (sendBytes kind n).length = 64 := by simp [sendBytes, leBytes_length]
def sendBase : State := upTerr terraced 0 fun x => { x with sqEnable := true, sqBase := 0x10000, sqLog2 := 4, sqTail := 1 }
def sending (kind n : Nat) : State := loaded sendBase 0x10000 (sendBytes kind n)
/-- A descriptor of 64 bytes of which n packets have left and one is not acknowledged. -/
def sent0 (n : Nat) : SendDesc := ⟨0, sendBytes 1 64, n, [⟨4, 0⟩]⟩
theorem send_clean : Clean sendBase := ⟨⟨rfl, rfl, rfl⟩, rfl, rfl⟩
theorem send_next (kind n : Nat) : nextDesc (sending kind n) 0 = some (.ok (sendBytes kind n)) := by
  have l := sendBytes_length kind n
  have h := loaded_hRead (agent := false) send_clean.root send_clean.retired send_clean.poison .read 0x10000 0 64 (sendBytes kind n) (by omega) (by omega)
  have e : nextDesc (sending kind n) 0 = some (hRead (sending kind n) 0 false .read 0x10000 64) := rfl
  rw [e]
  exact congrArg some (h.trans (congrArg Except.ok (List.take_of_length_le (by rw [List.drop_zero, l]))))
theorem send_zeros (kind n va m : Nat) (h : 0x10040 ≤ va) (b : va + m ≤ 2 ^ 34) :
    hRead (sending kind n) 0 false .read va m = .ok (List.replicate m 0) :=
  mapped_hRead (clean_mapped send_clean 0x10000 (sendBytes kind n)) .read va m b (fun j _ => clean_poison send_clean _ _ _)
    (clean_zero send_clean 0x10000 (sendBytes kind n) va m (.inr (by rw [sendBytes_length]; omega)))
theorem send_data : packetData (sending 1 64) 0 ⟨0, sendBytes 1 64, 0, []⟩ = .ok (List.replicate 64 0) := by
  have e : packetData (sending 1 64) 0 ⟨0, sendBytes 1 64, 0, []⟩ = match hRead (sending 1 64) 0 false .read 0x20000 64 with
    | .error e => .error e
    | .ok bs => .ok bs := rfl
  rw [e, send_zeros 1 64 0x20000 64 (by decide) (by decide)]
theorem packetData_sealed {s : State} {h : Hh} {d : SendDesc} {bs w : List Byte} (k : d.kind = 2)
    (h1 : hRead s h false .read ((leAt d.raw 8 8 + 4096 * d.next) % 2 ^ 64) (min 4096 (d.length - 4096 * d.next)) = .ok bs)
    (h2 : hRead s h false .read ((leAt d.raw 0x20 8 + 4 * d.next) % 2 ^ 64) 4 = .ok w) : packetData s h d = .ok (bs ++ w) := by
  simp only [packetData, h1, h2, k]
  rfl
theorem send_sealed : packetData (sending 2 4096) 0 ⟨0, sendBytes 2 4096, 0, []⟩ = .ok (List.replicate 4096 0 ++ List.replicate 4 0) :=
  packetData_sealed (by decide) (send_zeros 2 4096 0x20000 4096 (by decide) (by decide)) (send_zeros 2 4096 0x28000 4 (by decide) (by decide))
theorem witness_SendQueues :
    hhOpen (sending 1 64) (.vf 0) 0 ∧ (∀ kind n, nextDesc (sending kind n) 0 = some (.ok (sendBytes kind n))) ∧
    packetData (sending 1 64) 0 ⟨0, sendBytes 1 64, 0, []⟩ = .ok (List.replicate 64 0) ∧
    packetData (sending 2 4096) 0 ⟨0, sendBytes 2 4096, 0, []⟩ = .ok (List.replicate 4096 0 ++ List.replicate 4 0) ∧
    nextDesc home 0 = none ∧ (hhAt (sending 1 64) 0).terr.out = [] ∧ outstandingAll (sending 1 64) < 1024 ∧
    SendDesc.ok ⟨0, sendBytes 1 64, 0, []⟩ = true ∧ SendDesc.packets ⟨0, sendBytes 1 64, 0, []⟩ = 1 ∧
    SendDesc.ok ⟨0, sendBytes 3 64, 0, []⟩ = false ∧ SendDesc.ok ⟨0, sendBytes 2 4096, 0, []⟩ = true ∧
    SendDesc.packets ⟨0, sendBytes 2 4096, 0, []⟩ = 1 ∧ SendDesc.ok ⟨0, sendBytes 2 64, 0, []⟩ = false ∧
    (spGet 0 (sending 1 64).terr.routes (leAt (sendBytes 1 64) 4 2)).testBit 31 = true ∧ portActive (sending 1 64) 7 = true ∧
    portHeld (sending 1 64) 7 = false ∧ (hhAt (sending 1 64) 0).cmd.cqEnable = false ∧
    (hhAt (upTerr terraced 0 fun x => { x with out := [sent0 1], sqHalted := true }) 0).terr.out = [sent0 1] ∧
    (sent0 1).packets ≤ (sent0 1).next ∧ (sent0 1).notify = false ∧ packetOk { packet 2 0x12 4 0 with status := 0x50 } 2 = true ∧
    packetOk (packet 2 0x12 4 0) 2 = true ∧ (packet 2 0x12 4 0).tag = 4 ∧
    (∀ d ∈ (hhAt terraced 0).terr.out, ∀ q ∈ d.out, q.tag ≠ 4) ∧ mine terraced 0x12 = true :=
  ⟨⟨by decide +kernel, fun g e => by injection e with e; exact e.symm⟩, send_next, send_data, send_sealed, by decide +kernel⟩

theorem bar_zero : (hhAt home 0).vfWin * 2 ^ 36 + 0x20000 = 0x20000 := by decide +kernel
theorem bar_read : hRead home 0 false .read ((hhAt home 0).vfWin * 2 ^ 36 + 0x20000) 8 = .ok (List.replicate 8 0) := by
  have h := mapped_hRead (s := home) (agent := false) (mapped_of rfl rfl) .read 0x20000 8 (by decide) (fun _ _ => rfl) (by decide +kernel)
  rw [bar_zero]
  exact h
theorem bar_plain : PlainDest home 0 (vaRange ((hhAt home 0).vfWin * 2 ^ 36 + 0x20000) 8) :=
  ranges_plain (s := home) (mapped_of rfl rfl) rfl rfl (by decide) (xs := [(0x20000, 8)]) (by decide +kernel) (by decide) (by decide)
theorem witness_PorchAndManagement :
    hRead home 0 false .read ((hhAt home 0).vfWin * 2 ^ 36 + 0x20000) 8 = .ok (List.replicate 8 0) ∧
    PlainDest home 0 (vaRange ((hhAt home 0).vfWin * 2 ^ 36 + 0x20000) (List.replicate 8 (7 : Byte)).length) ∧
    ({ home with porch := { home.porch with up := true } } : State).porch.up = true ∧ agentUp home .pf = true ∧
    home.porch.pfWin * 2 ^ 36 + 0x20000 + 8 ≤ 0x7F80000000 ∧ ¬ (7 * 2 ^ 36 + (2 ^ 36 - 1) + 8 ≤ 0x7F80000000) ∧
    (∀ j < 8, poisoned home (home.porch.pfWin * 2 ^ 36 + 0x20000 + j) = false) ∧ agentUp home (.vf 0) = true ∧ alive home = true ∧
    quiescing home 0x51 = false ∧ vfLive home 1 = false ∧
    hRead home 0 false .read ((hhAt home 0).vfWin * 2 ^ 36 + 2 ^ 34) 8 = .error (.fault stTrans (2 ^ 34)) ∧
    7 < (List.replicate 8 (7 : Byte)).length ∧ spWf 0 home.cellar.mem = true ∧ home.cellar.retired = none ∧ home.porch.up = false ∧
    (bootAt 1 id).boot.stage < 2 ∧ 2 ≤ home.boot.stage :=
  ⟨bar_read, bar_plain, rfl, by decide +kernel⟩

/-- Sources 5 and 9 pending, target 2 open to source 5. -/
def ringing : State := let s := raise (raise home 5) 9
  { s with db := { s.db with mask := [(5, 4)], tgts := s.db.tgts.set 2 { s.db.tgts.get 2 with enable := true } } }
def ticking : Lease := { lease0 with timers := [⟨1, 0x10, 500⟩] }
theorem witness_DoorbellPaths :
    (∃ x ∈ ticking.timers, x.timer = 1 ∧ x.func = 0x10) ∧ (hhAt (homeOf ticking id) 0).lease = some ticking ∧
    (∀ g, g ≠ 0 → (hhAt (homeOf ticking id) g).lease = none) ∧ agentUp home .pf = true ∧ agentUp home (.vf 0) = true ∧
    dbPending ringing 5 = true ∧ dbPending ringing 6 = false ∧ (∀ src < 1024, dbPending home src = false) ∧
    deliverable ringing (spGet 0 ringing.db.mask 5) 2 = true ∧ spGet 73 ringing.db.last 5 < 74 ∧ spWf 73 ringing.db.last = true ∧
    (∀ u : Fin 74, u ≠ 2 → deliverable ringing (spGet 0 ringing.db.mask 5) u = false) ∧ (∀ n < 5, dbPending ringing n = false) ∧
    agentUp home (.cc 0) = true ∧ ownsTarget home (.cc 0) 0 = true ∧ ownsTarget home (.vf 0) 0 = false :=
  ⟨⟨_, List.mem_singleton.mpr rfl, rfl, rfl⟩, rfl, by decide +kernel⟩

def hot (f : HearthSt → HearthSt) : State := { home with hearth := f home.hearth }
def sensed : Deed := { deed0 with timers := [⟨0, 2, 1000⟩], pinmux := [(0, 4), (1, 5)] }
/-- Blocks of cluster 1 to audit, all in order. -/
def audited : State := upSite (hot fun h => { h with running := [⟨3, 1, 0⟩] }) 1 fun c => { c with recent := [(0, 4096)] }
theorem witness_HearthControl : alive home = true ∧ home.deed = some deed0 ∧ (hot fun h => { h with started := true }).hearth.started = true ∧ home.cellar.second = none ∧
    ((pooled 1 0 1).pools.get 0).stage = .none ∧ ((pooled 1 0 1).pools.get 0).running = some 0 ∧ (home.pools.get 7).running = none ∧
    alive { home with boot := { home.boot with tripped := true } } = false ∧ home.hearth.running = [] ∧
    (∃ u ∈ audited.hearth.running, u.kind = 3 ∧ u.unit = 1) ∧ (siteAt audited 1).recent ≠ [] ∧
    (∀ b ∈ (siteAt audited 1).recent, sealOk (viewOf (siteAt audited 1)) b.1 (spRead 0 (siteAt audited 1).pantry b.1 b.2) = true) ∧
    (sensed.timers.find? fun t => t.func == 2) = some ⟨0, 2, 1000⟩ ∧ sensorBus { home with deed := some sensed } = true ∧ home.hearth.mode = false ∧
    (hot fun h => { h with mode := true, missed := 2 }).hearth.mode = true ∧ home.hearth.missed < 2 ∧
    (hot fun h => { h with mode := true, missed := 2 }).hearth.missed = 2 ∧ pfOrHouse .pf = true ∧ agentUp home .pf = true ∧
    home.hearth.pdBusy = false ∧ pdRefused home 5 true = false ∧ pdRefused home 0 false = true ∧ calm (hot fun h => { h with pdBusy := true, pdDomain := 63 }) ∧
    (hot fun h => { h with pdBusy := true, pdDomain := 63 }).hearth.pdDomain < 64 ∧ home.hearth.periodMs = 0 ∧
    (hot fun h => { h with periodMs := 1 }).hearth.periodMs ≠ 0 ∧ home.hearth.marking = false :=
  ⟨by decide +kernel, rfl, rfl, rfl, by decide +kernel, by decide +kernel, by decide +kernel, by decide +kernel, by decide +kernel,
    ⟨_, List.mem_singleton.mpr rfl, rfl, rfl⟩, by decide +kernel, by decide +kernel, by decide, by decide +kernel, by decide +kernel, rfl, by decide +kernel, rfl, rfl,
    by decide +kernel, by decide +kernel, by decide +kernel, by decide +kernel, calm_at (by decide +kernel), by decide +kernel, by decide +kernel, by decide +kernel, by decide +kernel⟩

/-- A command block for SHA384 of the 64 bytes at an address. -/
def shaOf (va : Nat) : List Byte := leBytes 1 6 ++ leBytes 7 0 ++ leBytes 8 va ++ leBytes 4 64 ++ leBytes 4 48 ++ leBytes 8 0x30000 ++ leBytes 32 0
def shaBlk : List Byte := shaOf 0x20000
theorem shaOf_length (va : Nat) : (shaOf va).length = 64 := by simp [shaOf, leBytes_length]
/-- Household 0 has a command block at VA 0x10000. -/
def sbHome (va : Nat) (f : SbSt → SbSt) : State := let s := upSb (loaded home 0x10000 (shaOf va)) 0 fun q => { q with block := 0x10000 }
  { s with sb := f s.sb }
def sbOp (o : SbOwner) (st : SbStage) : SbOp := ⟨o, shaBlk, st, List.replicate 64 0, List.replicate 48 1, 0⟩
def sbCur (x : SbOp) : State := sbHome 0x20000 fun b => { b with cur := some x }
/-- The input of household 0 has faulted before its first byte. -/
def sbFault : State := sbCur ⟨.hh 0, shaBlk, .inFault, [], [], 0⟩
/-- The request of household 0 waits. -/
def sbWait (va : Nat) : State := upSb (sbHome va id) 0 fun q => { q with pending := true }
theorem sb_mapped (va : Nat) (f : SbSt → SbSt) : Mapped (sbHome va f) :=
  have m := loaded_mapped (s := home) ⟨rfl, rfl, rfl⟩ rfl 0x10000 (shaOf va)
  ⟨m.root, m.low⟩
theorem sb_block (va : Nat) : hRead (sbWait va) 0 true .read (hhAt (sbWait va) 0).sb.block 64 = .ok (shaOf va) :=
  (loaded_hRead (s := home) ⟨rfl, rfl, rfl⟩ rfl rfl .read 0x10000 0 64 (shaOf va) (by rw [shaOf_length]) (by rw [shaOf_length]; decide)).trans
    (congrArg Except.ok (List.take_of_length_le (by rw [List.drop_zero, shaOf_length])))
theorem sb_zeros (f : SbSt → SbSt) : hRead (sbHome 0x20000 f) 0 true .read 0x20000 64 = .ok (List.replicate 64 0) :=
  mapped_hRead (sb_mapped 0x20000 f) .read 0x20000 64 (by decide) (fun _ _ => rfl) fun j hj =>
    loaded_zero (s := home) rfl 0x10000 shaBlk (by omega) (.inr (by rw [shaBlk, shaOf_length]; omega))
theorem sb_plain (x : SbOp) : PlainDest (sbCur x) 0 (vaRange 0x30000 48) :=
  ranges_plain (s := sbCur x) (sb_mapped _ _) rfl rfl (clean_wf home 0x10000 shaBlk) (xs := [(0x30000, 48)]) (by decide) (by decide) (by decide)
/-- A block at CPA 0x40000 for the physical function, or for the house. -/
def cpaBlk (bs : List Byte) (house : Bool) : State := { sbHome 0x20000 (fun b => if house then { b with house := some 0x40000 } else { b with pf := some 0x40000 }) with
  cellar := { home.cellar with mem := spWrite 0 tables0 0x40000 bs } }
/-- A block that names an operation, a curve slot and a width. -/
def opBlk (op slot w : Nat) : List Byte := leBytes 1 op ++ leBytes 1 0 ++ leBytes 1 slot ++ leBytes 1 0 ++ leBytes 2 w ++ leBytes 58 0
theorem witness_StrongboxRequests :
    pfOrHouse .pf = true ∧ hhOpen home (.vf 0) 0 ∧ sbOwnerOf .house = .house ∧
    (sbCur (sbOp .house .fetched)).sb.cur = some (sbOp .house .fetched) ∧
    (sbCur (sbOp .house .outFault)).sb.cur = some (sbOp .house .outFault) ∧ sbSuspended (sbOp .house .fetched) = false ∧
    sbSuspended (sbOp .house .outFault) = true ∧ calm (sbWait 0x20000) ∧
    sbFault.sb.cur = some ⟨.hh 0, shaBlk, .inFault, [], [], 0⟩ ∧ hRead sbFault 0 true .read 0x20000 64 = .ok (List.replicate 64 0) ∧
    (sbHome 0x20000 fun b => { b with house := some 0x40000, cur := some (sbOp (.hh 0) .outFault) }).sb.house.isSome = true ∧
    (cpaBlk [] true).sb.house = some 0x40000 ∧ (cpaBlk [] false).sb.pf = some 0x40000 ∧ tlbFresh (sbWait 0x20000) 0 ∧
    (∀ va, hRead (sbWait va) 0 true .read (hhAt (sbWait va) 0).sb.block 64 = .ok (shaOf va)) ∧
    hRead (sbWait 0x20000) 0 true .read 0x20000 64 = .ok (List.replicate 64 0) ∧ calm (sbCur (sbOp (.hh 0) .computed)) ∧
    PlainDest (sbCur (sbOp (.hh 0) .computed)) 0 (vaRange 0x30000 48) ∧ spWf 0 (sbCur (sbOp .pf .computed)).cellar.mem = true ∧
    agentUp home .pf = true ∧ sbHas (sbWait 0x20000) (.hh 0) = true ∧ sbHas home (.hh 0) = false ∧
    (hhAt (sbWait 0x20000) 0).cmd.cqEnable = false ∧ shaBlk ≠ [] ∧ blkOp shaBlk ≠ 7 ∧ blkInLen shaBlk = 64 ∧
    blkIn shaBlk = 0x20000 ∧ 800000 < runTime home ⟨.hh 0, opBlk 5 0 4096, .fetched, [], [], 0⟩ ∧
    runTime home (sbOp (.hh 0) .fetched) ≤ 800000 ∧ home.sb.cur = none ∧ home.sb.house = none ∧ home.sb.pf = none ∧
    houseWaits home = false ∧ quiescing home 0x50 = false ∧ houseWaits (upBoot home fun b => { b with fwWait := some [] }) = true ∧
    quiescing (resetting 0x50) 0x50 = true ∧ (∀ h, (hhAt home h).sb.pending = false) ∧
    (∀ o, firstPoison (cpaBlk shaBlk o) 0x40000 64 = none ∧ cRead (cpaBlk shaBlk o) 0x40000 64 = shaBlk ∧ blkCheck (cpaBlk shaBlk o) .pf shaBlk = none ∧ firstPoison (cpaBlk shaBlk o) 0x20000 64 = none ∧ cRead (cpaBlk [] o) 0x40000 64 = List.replicate 64 0 ∧ blkCheck (cpaBlk [] o) .pf (List.replicate 64 0) = some stRange) ∧
    (∀ g, g ≠ 0 → (hhAt (sbWait 0x20000) g).sb.pending = false) ∧ (hhAt (sbWait 0x20000) 0).sb.late = false ∧
    blkCheck (sbWait 0x20000) (.hh 0) shaBlk = none ∧ blkCheck (sbWait (2 ^ 34)) (.hh 0) (shaOf (2 ^ 34)) = none ∧
    hRead (sbWait (2 ^ 34)) 0 true .read (2 ^ 34) 64 = .error (.fault stTrans (2 ^ 34)) ∧
    (sbCur (sbOp .pf .computed)).cellar.retired = none ∧ (sbOp (.hh 0) .computed).status = stOk ∧ blkReport shaBlk = false ∧
    blkNotify shaBlk = false ∧ 47 < (sbOp .pf .computed).result.length :=
  ⟨rfl, home_hhOpen, rfl, rfl, rfl, rfl, rfl, home_calm, rfl,
    sb_zeros fun b => { b with cur := some ⟨.hh 0, shaBlk, .inFault, [], [], 0⟩ }, rfl, rfl, rfl,
    fun e h => absurd h (by decide +kernel +revert), sb_block, sb_zeros id, home_calm, sb_plain _, clean_wf home 0x10000 shaBlk,
    by decide +kernel⟩

def fetched (op slot w : Nat) : State := sbCur ⟨.house, opBlk op slot w, .fetched, List.replicate 3000 1, [], 0⟩
theorem witness_StrongboxOperations : (∀ op : Fin 9, blkOp (opBlk op 1 0) = op.val) ∧ (∀ slot < 3, (slotCurve (fetched 1 slot 0) (blkCurve (opBlk 1 slot 0))).isSome = true) ∧
    slotCurve (fetched 4 4 0) (blkCurve (opBlk 4 4 0)) = none ∧ blkBits (opBlk 5 0 4096) ≤ 4096 ∧ blkCurve (opBlk 7 7 0) = 3 + (4 : Fin 5).val ∧
    (∀ op : Fin 9, ((fetched op 1 0).sb.cur.any fun x => x.stage == .fetched && blkOp x.block == op.val) = true) ∧ home.sb.cur = none := by decide +kernel
end Sys2Proof.Tests
end

section
/-! PROOFS. Registers of a control core after the fetch, and counters that saturate. -/

namespace Sys2Proof.Machine

theorem xNat_fetched (s : State) (r : Rg) (x : XReg) : xNat (fetched s r) r x = xNat s r x := by simp [xNat]
theorem ofNat_xNat (s : State) (r : Rg) (x : XReg) : BitVec.ofNat 64 (xNat s r x) = xGet s r x := by simp [xNat]
theorem lostInc_eq_min (c : Nat) (lost : Bool) : lostInc c lost = if lost then min (c + 1) 65535 else c := by
  cases lost
  · rfl
  · simp only [lostInc, satInc, if_true]; split <;> omega

end Sys2Proof.Machine
end

section
/-! PROOFS. CSR instructions: the rights of a level, how a permitted access ends, and what it puts (R99-R102, R119). -/

namespace Sys2Proof.Machine

/- Running a CSR instruction. -/

theorem exec_csrWrite (s : State) (r : Rg) (n : Nat) (op : CsrOp) (hw : Bool) :
    exec (.csrWrite r n op hw) s = .next (runInstr s r fun s => csrInstr s r n op hw) := rfl

/-- The write of Xs to a CSR completes, and the core changes by `f`. -/
def csrWrites (s : State) (r : Rg) (x : XReg) (hw : Bool) (n : Nat) (f : Core → Core) : Prop :=
  exec (.csrWrite r n (.write x) hw) s = .next (upCore (fetched s r) r fun c => movedOn (f c))
/-- The CSR access enters the illegal-instruction trap and changes nothing else. -/
def csrIllegal (s : State) (r : Rg) (hw : Bool) (n : Nat) (op : CsrOp) : Prop :=
  exec (.csrWrite r n op hw) s = .next (upCore (fetched s r) r fun c => stepOver (enterTrap c trapIllegal))

/- Which CSRs a level reads and writes. -/

theorem csrWriteOk_monitor {n : Nat} (h : isCsr n = true) : csrWriteOk 2 n = true := by simp [csrWriteOk, h]
theorem csrWriteOk_program (n : Nat) : csrWriteOk 0 n = false := by simp [csrWriteOk]
theorem csrWriteOk_shared {l n : Nat} (hl : 1 ≤ l) (hn : n = 0x110 ∨ 0x020 ≤ n ∧ n ≤ 0x023) : csrWriteOk l n = true := by
  have hc : isCsr n = true := by
    rcases hn with rfl | hn
    · rfl
    · simp [isCsr, hn]
  have hm : ¬(n = 0x010 ∨ n = 0x011 ∨ (0x030 ≤ n ∧ n ≤ 0x033)) := by omega
  simp [csrWriteOk, hc, hl, hm]
theorem csrWriteOk_supervisor_monitorOnly {n : Nat} (hn : n = 0x010 ∨ n = 0x011 ∨ 0x030 ≤ n ∧ n ≤ 0x033) :
    csrWriteOk 1 n = false := by simp [csrWriteOk, hn]
theorem csrReadOk_supervisorSet {l n : Nat} (hl : 1 ≤ l) (hn : 0x020 ≤ n ∧ n ≤ 0x023) : csrReadOk l n = true := by
  simp [csrReadOk, isCsr, hn, hl]
theorem csrReadOk_program_trapSets {n : Nat} (hn : (0x020 ≤ n ∧ n ≤ 0x023) ∨ (0x030 ≤ n ∧ n ≤ 0x033)) :
    csrReadOk 0 n = false := by
  rcases hn with hn | hn
  · simp [csrReadOk, hn]
  · have h2 : ¬(0x020 ≤ n ∧ n ≤ 0x023) := by omega
    simp [csrReadOk, h2, hn]

/- The ways a CSR instruction ends. -/

section
variable {s : State} {r : Rg} {x : XReg} {hw : Bool} {n : Nat}

theorem csrIllegal_of_trap {op : CsrOp} (ready : coreReady s r)
    (e : csrInstr (fetched s r) r n op hw = .trap (fetched s r) trapIllegal) : csrIllegal s r hw n op := by
  rw [csrIllegal, exec_csrWrite, run_trap ready e]

/-- A level that does not write a CSR writes, sets and clears no bit of it. -/
theorem csrIllegal_unwritable (ready : coreReady s r) (h : csrWriteOk (coreAt s r).level n = false) :
    csrIllegal s r hw n (.write x) ∧ csrIllegal s r hw n (.set x) ∧ csrIllegal s r hw n (.clear x) :=
  ⟨csrIllegal_of_trap ready (by simp [csrInstr, h]), csrIllegal_of_trap ready (by simp [csrInstr, h]),
    csrIllegal_of_trap ready (by simp [csrInstr, h])⟩
theorem csrIllegal_unreadable (ready : coreReady s r) (h : csrReadOk (coreAt s r).level n = false) :
    csrIllegal s r hw n (.read x) := csrIllegal_of_trap ready (by simp [csrInstr, h])
/-- A value that the CSR refuses. -/
theorem csrIllegal_refused (ready : coreReady s r) (e : csrPut (fetched s r) r n (xNat s r x) hw = none) :
    csrIllegal s r hw n (.write x) := csrIllegal_of_trap ready (by simp [csrInstr, xNat_fetched, e])

/-- An access that changes the core by `f` and completes. -/
theorem exec_csr_done {op : CsrOp} {f : Core → Core} (ready : coreReady s r)
    (e : csrInstr (fetched s r) r n op hw = .done (upCore (fetched s r) r f)) :
    exec (.csrWrite r n op hw) s = .next (upCore (fetched s r) r fun c => movedOn (f c)) := by
  rw [exec_csrWrite, run_done ready e, upCore_upCore]

theorem csrWrites_put {f : Core → Core} (ready : coreReady s r) (okw : csrWriteOk (coreAt s r).level n = true)
    (e : csrPut (fetched s r) r n (xNat s r x) hw = some (upCore (fetched s r) r f)) : csrWrites s r x hw n f :=
  exec_csr_done ready (by simp [csrInstr, okw, xNat_fetched, e])

theorem exec_csr_set {f : Core → Core} (ready : coreReady s r) (okw : csrWriteOk (coreAt s r).level n = true)
    (okr : csrReadOk (coreAt s r).level n = true)
    (e : csrPut (fetched s r) r n (csrGet (coreAt s r) n ||| xNat s r x) hw = some (upCore (fetched s r) r f)) :
    exec (.csrWrite r n (.set x) hw) s = .next (upCore (fetched s r) r fun c => movedOn (f c)) :=
  exec_csr_done ready (by simp [csrInstr, okw, okr, xNat_fetched, e])

theorem exec_csr_clear {f : Core → Core} (ready : coreReady s r) (okw : csrWriteOk (coreAt s r).level n = true)
    (okr : csrReadOk (coreAt s r).level n = true)
    (e : csrPut (fetched s r) r n (csrGet (coreAt s r) n - (csrGet (coreAt s r) n &&& xNat s r x)) hw =
      some (upCore (fetched s r) r f)) :
    exec (.csrWrite r n (.clear x) hw) s = .next (upCore (fetched s r) r fun c => movedOn (f c)) :=
  exec_csr_done ready (by simp [csrInstr, okw, okr, xNat_fetched, e])

theorem exec_csr_read (ready : coreReady s r) (ok : csrReadOk (coreAt s r).level n = true) :
    exec (.csrWrite r n (.read x) hw) s =
      .next (upCore (fetched s r) r fun c => wroteX c x (BitVec.ofNat 64 (csrGet c n))) := by
  have e : csrInstr (fetched s r) r n (.read x) hw =
      .done (xPut (fetched s r) r x (BitVec.ofNat 64 (csrGet (coreAt s r) n))) := by simp [csrInstr, ok]
  rw [exec_csrWrite, run_done ready e, movedOn_xPut]
  exact congrArg _ (upCore_congr (by simp))

end

/- What a CSR reads as, and what a permitted write puts. -/

theorem csrGet_supervisorAddr (c : Core) : csrGet c 0x021 = c.sup.addr.toNat := by simp [csrGet, trapCsr]
theorem csrPut_supervisorSet (s : State) (r : Rg) (v : Nat) (hw : Bool) {i : Nat} (hi : i < 4) :
    csrPut s r (0x020 + i) v hw = some (upCore s r fun c => { c with sup := setTrapCsr c.sup i v }) := by
  have h1 : 0x020 + i ≠ 0x010 ∧ 0x020 + i ≠ 0x011 := by omega
  have h2 : 0x020 + i ≤ 0x023 := by omega
  simp only [csrPut, h1.1, h1.2, h2, Nat.le_add_right, and_self, if_true, if_false, Nat.add_sub_cancel_left]
theorem csrPut_monitorSet (s : State) (r : Rg) (v : Nat) (hw : Bool) {i : Nat} (hi : i < 4) :
    csrPut s r (0x030 + i) v hw = some (upCore s r fun c => { c with mon := setTrapCsr c.mon i v }) := by
  have h1 : 0x030 + i ≠ 0x010 ∧ 0x030 + i ≠ 0x011 := by omega
  have h2 : 0x030 + i ≤ 0x033 := by omega
  have h3 : ¬(0x020 ≤ 0x030 + i ∧ 0x030 + i ≤ 0x023) := by omega
  simp only [csrPut, h1.1, h1.2, h2, h3, Nat.le_add_right, and_self, if_true, if_false, Nat.add_sub_cancel_left]

/-- The bits of `a` that `b` does not name, as the set and clear forms compute them. -/
theorem ofNat_sub_and (a b : Word) : BitVec.ofNat 64 (a.toNat - (a.toNat &&& b.toNat)) = a &&& ~~~b := by
  have split : a = (a &&& b) + (a &&& ~~~b) := by
    rw [BitVec.add_eq_or_of_and_eq_zero]
    · ext i hi; simp [← Bool.and_or_distrib_left]
    · ext i hi; simp; tauto
  have le : (a &&& b).toNat ≤ a.toNat := by rw [BitVec.toNat_and]; exact Nat.and_le_left
  have sub : BitVec.ofNat 64 (a.toNat - (a &&& b).toNat) = a - (a &&& b) := by
    rw [← BitVec.ofNat_sub_ofNat_of_le _ _ (BitVec.isLt _) le, BitVec.ofNat_toNat, BitVec.ofNat_toNat]
    simp
  rw [← BitVec.toNat_and, sub, sub_eq_iff_eq_add']
  exact split

/- The clauses of the statement. -/

section
variable {s : State} {r : Rg} (x : XReg) (hw : Bool)

/-- A write to trap register `i` of SUP. -/
theorem csrWrites_supervisorSet (ready : coreReady s r) (hl : 1 ≤ (coreAt s r).level) {i : Nat} (hi : i < 4) :
    csrWrites s r x hw (0x020 + i) fun c => { c with sup := setTrapCsr c.sup i (xNat s r x) } :=
  csrWrites_put ready (csrWriteOk_shared hl (by omega)) (csrPut_supervisorSet _ _ _ _ hi)

/-- A write to trap register `i` of MON, at MON. -/
theorem csrWrites_monitorSet (ready : coreReady s r) (hl : (coreAt s r).level = 2) {i : Nat} (hi : i < 4) :
    csrWrites s r x hw (0x030 + i) fun c => { c with mon := setTrapCsr c.mon i (xNat s r x) } := by
  refine csrWrites_put ready ?_ (csrPut_monitorSet _ _ _ _ hi)
  have hc : isCsr (0x030 + i) = true := by
    have : 0x030 + i ≤ 0x033 := by omega
    simp [isCsr, this]
  rw [hl, csrWriteOk_monitor hc]

/-- The set and the clear form on the trap address of SUP. -/
theorem exec_csr_set_supervisorAddr (ready : coreReady s r) (hl : 1 ≤ (coreAt s r).level) :
    exec (.csrWrite r 0x021 (.set x) hw) s = .next (upCore (fetched s r) r fun c =>
      movedOn { c with sup := { c.sup with addr := c.sup.addr ||| xGet s r x } }) := by
  rw [exec_csr_set ready (csrWriteOk_shared hl (by omega)) (csrReadOk_supervisorSet hl (by omega))
    (csrPut_supervisorSet _ _ _ _ (i := 1) (by omega))]
  refine congrArg _ (upCore_congr ?_)
  simp [setTrapCsr, csrGet_supervisorAddr, BitVec.ofNat_or, ofNat_xNat]
theorem exec_csr_clear_supervisorAddr (ready : coreReady s r) (hl : 1 ≤ (coreAt s r).level) :
    exec (.csrWrite r 0x021 (.clear x) hw) s = .next (upCore (fetched s r) r fun c =>
      movedOn { c with sup := { c.sup with addr := c.sup.addr &&& ~~~xGet s r x } }) := by
  rw [exec_csr_clear ready (csrWriteOk_shared hl (by omega)) (csrReadOk_supervisorSet hl (by omega))
    (csrPut_supervisorSet _ _ _ _ (i := 1) (by omega))]
  refine congrArg _ (upCore_congr ?_)
  simp [setTrapCsr, csrGet_supervisorAddr, xNat, ofNat_sub_and]

/-- SUMCTL of the household in CTX (R12, R119). -/
theorem csrWrites_sumctl (ready : coreReady s r) {h : Hh} (hh : coreHh s r = some h) (hl : 1 ≤ (coreAt s r).level) :
    let q := (coreAt s r).sumqs.get h
    let v := xNat s r x
    csrWrites s r x hw 0x110 fun c => { c with
      sumqs := c.sumqs.set h.val { q with
        full := hw || q.full && !v.testBit 16
        thresh := if 1 ≤ v / 2 ^ 8 % 2 ^ 6 ∧ v / 2 ^ 8 % 2 ^ 6 ≤ 32 then v / 2 ^ 8 % 2 ^ 6 else q.thresh } h.isLt
      lost := if hw && q.full && v.testBit 16 then min (c.lost + 1) 65535 else c.lost } := by
  intro q v
  have e : csrPut (fetched s r) r 0x110 v hw = some (sumqWrite (fetched s r) r h v hw) := by simp [csrPut, hh]
  have lost : clearLost (v.testBit 16 && q.full) hw = (hw && q.full && v.testBit 16) := by
    simp only [clearLost]; ac_rfl
  refine csrWrites_put ready (csrWriteOk_shared hl (.inl rfl)) ?_
  rw [e, sumqWrite]
  refine congrArg some (upCore_congr ?_)
  simp only [coreAt_fetched, lostInc_eq_min]
  rw [lost]; rfl

/-- The monitor's own registers (R100, R102). -/
theorem csr_monitor_writes (ready : coreReady s r) (hl : (coreAt s r).level = 2) :
    let v := xNat s r x
    (v ≤ 16 → csrWrites s r x hw 0x010 fun c => { c with ctx := v }) ∧
    (16 < v → csrIllegal s r hw 0x010 (.write x)) ∧
    csrWrites s r x hw 0x011 fun c => { c with
      route := ⟨v.testBit 4, v.testBit 3, v.testBit 2, v.testBit 1, v.testBit 0⟩ } := by
  intro v
  have okw {n : Nat} (hn : isCsr n = true) : csrWriteOk (coreAt s r).level n = true := by rw [hl, csrWriteOk_monitor hn]
  refine ⟨fun hv => csrWrites_put ready (okw rfl) ?_, fun hv => csrIllegal_refused ready ?_,
    csrWrites_put ready (okw rfl) ?_⟩
  · simp [csrPut, v, hv]
  · simp [csrPut, v, hv]
  · simp [csrPut, v]

end

/-- Settles O7: each clause is the CSR's own rule of writing, at a level whose rights are known. -/
theorem csrReadsAndWrites : Obligations.CsrReadsAndWrites := by
  intro s r x hw ready
  refine ⟨fun hl => ?_, fun hl => ?_, fun h hh hl => csrWrites_sumctl x hw ready hh hl, fun hl => ?_, fun hl => ?_,
    fun n hn => ?_⟩
  · obtain ⟨ctx, refused, route⟩ := csr_monitor_writes x hw ready hl
    have mon {i : Nat} (hi : i < 4) := csrWrites_monitorSet x hw ready hl hi
    have addr := mon (i := 1) (by omega)
    have pc := mon (i := 2) (by omega)
    have vec := mon (i := 3) (by omega)
    simp only [setTrapCsr, ofNat_xNat] at addr pc vec
    exact ⟨ctx, refused, route, mon (i := 0) (by omega), addr, pc, vec⟩
  · have sup {i : Nat} (hi : i < 4) := csrWrites_supervisorSet x hw ready hl hi
    have addr := sup (i := 1) (by omega)
    have pc := sup (i := 2) (by omega)
    have vec := sup (i := 3) (by omega)
    have read := exec_csr_read (x := x) (hw := hw) ready (csrReadOk_supervisorSet (n := 0x021) hl (by omega))
    simp only [setTrapCsr, ofNat_xNat] at addr pc vec
    simp only [csrGet_supervisorAddr, BitVec.ofNat_toNat, BitVec.setWidth_eq] at read
    exact ⟨sup (i := 0) (by omega), addr, pc, vec, exec_csr_set_supervisorAddr x hw ready hl,
      exec_csr_clear_supervisorAddr x hw ready hl, read⟩
  · have denied {n : Nat} (hn : n = 0x010 ∨ n = 0x011 ∨ 0x030 ≤ n ∧ n ≤ 0x033) : csrIllegal s r hw n (.write x) :=
      (csrIllegal_unwritable ready (by rw [hl, csrWriteOk_supervisor_monitorOnly hn])).1
    exact ⟨denied (by omega), denied (by omega), fun i hi => denied (by omega)⟩
  · have unread {n : Nat} (hn : (0x020 ≤ n ∧ n ≤ 0x023) ∨ (0x030 ≤ n ∧ n ≤ 0x033)) : csrIllegal s r hw n (.read x) :=
      csrIllegal_unreadable ready (by rw [hl, csrReadOk_program_trapSets hn])
    exact ⟨fun n => csrIllegal_unwritable ready (by rw [hl, csrWriteOk_program]),
      fun i hi => ⟨unread (by omega), unread (by omega)⟩⟩
  · exact ⟨csrIllegal_unreadable ready (by simp [csrReadOk, hn]),
      (csrIllegal_unwritable ready (by simp [csrWriteOk, hn])).1⟩

end Sys2Proof.Machine
end

section
/-! PROOFS. Loads and stores of a control core: the address decides between register, memory and trap (R96, R100-R102). -/

namespace Sys2Proof.Machine

/- Running a load or a store. -/

theorem exec_coreLoad (s : State) (r : Rg) (xd xb : XReg) (disp : Word) (size : Fin 4) (hw : Nat) :
    exec (.coreLoad r xd xb disp size hw) s = .next (runInstr s r fun s => loadInstr s r xd xb disp size hw) := rfl
theorem exec_coreStore (s : State) (r : Rg) (xs xb : XReg) (disp : Word) (size : Fin 4) (hw : Nat) :
    exec (.coreStore r xs xb disp size hw) s = .next (runInstr s r fun s => storeInstr s r xs xb disp size hw) := rfl

/- The fetch, and an update of the core, as the core's memory sees them. -/

@[simp] theorem inBar_fetched (s : State) (r : Rg) (a : Nat) : inBar (fetched s r) r a = inBar s r a := by simp [inBar]
@[simp] theorem poisoned_fetched (s : State) (r : Rg) (a : Nat) : poisoned (fetched s r) a = poisoned s a :=
  coreCache_keeps (poisoned · a) (fun _ _ _ => rfl) ..
theorem fetched_spec (s : State) (r : Rg) :
    offCache (fetched s r) r = offCache s r ∧ (CacheOk s r → CacheOk (fetched s r) r) ∧
      ∀ b, coreByte (fetched s r) r b = coreByte s r b := coreCache_spec ..

theorem CacheOk.tickFresh {s : State} {r : Rg} (ok : CacheOk s r) : CacheOk (tickFresh s) r :=
  ⟨ok.distinct, ok.whole, ok.clean, ok.mem, ok.inPlace⟩

section
variable {g : Core → Core} (hg : ∀ c, (g c).cache = c.cache)
include hg

theorem cache_upCore (s : State) (r : Rg) : (coreAt (upCore s r g) r).cache = (coreAt s r).cache := by simp [hg]
theorem CacheOk.upCore {s : State} {r : Rg} (ok : CacheOk s r) : CacheOk (upCore s r g) r := by
  have e := cache_upCore hg s r
  exact ⟨e ▸ ok.distinct, e ▸ ok.whole, e ▸ ok.clean, ok.mem, ok.inPlace⟩
theorem coreByte_upCore (s : State) (r : Rg) (b : Nat) : coreByte (upCore s r g) r b = coreByte s r b := by
  simp only [coreByte, cachedByte, cacheLine, cache_upCore hg]; rfl

end

theorem cache_movedOn (c : Core) : (movedOn c).cache = c.cache := rfl
theorem cache_wroteX (xd : XReg) (v : Word) (c : Core) : (wroteX c xd v).cache = c.cache := rfl
theorem noCache_movedOn (c : Core) : noCache (movedOn c) = movedOn (noCache c) := rfl
theorem noCache_wroteX (xd : XReg) (v : Word) (c : Core) : noCache (wroteX c xd v) = wroteX (noCache c) xd v := rfl

/- Little-endian bytes. -/

theorem leNat_lt (bs : List Byte) : leNat bs < 2 ^ (8 * bs.length) := by
  induction bs with
  | nil => simp [leNat]
  | cons b bs ih =>
    have hb : b.toNat < 256 := b.isLt
    rw [leNat, List.length_cons, Nat.mul_add, Nat.pow_add]
    omega
theorem leBytes_get (n v : Nat) {j : Nat} (hj : j < n) : (leBytes n v)[j]? = some (BitVec.ofNat 8 (v / 256 ^ j)) := by
  induction n generalizing v j with
  | zero => omega
  | succ n ih =>
    cases j with
    | zero => simp [leBytes]
    | succ j => simp [leBytes, ih (v / 256) (show j < n by omega), Nat.div_div_eq_div_mul, Nat.pow_succ']

/-- The word that a load writes holds the bytes loaded in its low bits; the bits above them are free (log 28). -/
theorem loadInto_eq (s : State) (r : Rg) (xd : XReg) (size : Fin 4) (v : Nat) :
    ∃ w : Word, w.toNat % 2 ^ (8 * 2 ^ size.val) = v % 2 ^ (8 * 2 ^ size.val) ∧
      upCore (loadInto s r xd (2 ^ size.val) v) r movedOn = tickFresh (upCore s r fun c => wroteX c xd w) := by
  refine ⟨_, ?_, by rw [loadInto, upCore_tickFresh, movedOn_xPut]⟩
  have hd : 2 ^ (8 * 2 ^ size.val) ∣ 2 ^ 64 := pow_dvd_pow 2 (by have := size.isLt; interval_cases size.val <;> decide)
  rw [BitVec.toNat_ofNat, Nat.mod_mod_of_dvd _ hd]
  split
  · simp
  · rw [Nat.add_mul_mod_self_right, Nat.mod_mod]

/- Faults of aligned accesses. -/

theorem pow_size_dvd {size : Fin 4} {a : Nat} (ha : a % 2 ^ size.val = 0) (k : Nat) (h : a < 8 * k) :
    a + 2 ^ size.val ≤ 8 * k := by
  have := size.isLt; interval_cases size.val <;> omega

/-- An aligned access outside BAR0 meets no address of it. -/
theorem coreFault_outsideBar {s : State} {r : Rg} {acc : Acc} {a : Nat} {size : Fin 4} {st b : Nat} (hlt : a < 2 ^ 64)
    (ha : a % 2 ^ size.val = 0) (hbar : inBar s r a = false) (hf : coreFault s r acc a (2 ^ size.val) = some (st, b)) :
    inBar s r b = false := by
  by_contra hb
  simp only [Bool.not_eq_false, inBar, Bool.and_eq_true, beq_iff_eq, decide_eq_true_eq] at hb
  obtain ⟨⟨⟨hctx, hlvl⟩, hlo⟩, hhi⟩ := hb
  have hh : coreHh s r = none := by simp [coreHh, hctx, fin?]
  simp only [coreFault, hh] at hf
  obtain ⟨c, hc, e⟩ := List.exists_of_findSome?_eq_some hf
  obtain ⟨i, hi, rfl⟩ := List.mem_map.1 hc
  have hi := List.mem_range.1 hi
  have hbe : (a + i) % 2 ^ 64 = b := by
    split at e <;> simp at e
    exact e.2
  have top := pow_size_dvd ha (2 ^ 61) (by omega)
  have below := fun h => pow_size_dvd ha (2 ^ 36) h
  simp only [inBar, hctx, hlvl, beq_self_eq_true, Bool.true_and, Bool.and_eq_false_iff, decide_eq_false_iff_not] at hbar
  simp only [barBase] at hlo hhi hbar
  omega

/- A store through the caches. -/

/-- A byte that no store names keeps its value. -/
theorem storeFold_off {es : List (Nat × Byte)} {b : Nat} (h : ∀ e ∈ es, e.1 ≠ b) (v : Byte) :
    es.foldl (fun v e => if b = e.1 then e.2 else v) v = v := by
  induction es generalizing v with
  | nil => rfl
  | cons e es ih =>
    rw [List.foldl_cons, if_neg (h e List.mem_cons_self).symm]
    exact ih (fun e he => h e (List.mem_cons_of_mem _ he)) v
/-- Of stores at distinct addresses each one is read back. -/
theorem storeFold_mem {es : List (Nat × Byte)} (nd : (es.map Prod.fst).Nodup) {b : Nat} {x : Byte} (h : (b, x) ∈ es)
    (v : Byte) : es.foldl (fun v e => if b = e.1 then e.2 else v) v = x := by
  induction es generalizing v with
  | nil => simp at h
  | cons e es ih =>
    obtain ⟨off, nd⟩ := List.nodup_cons.1 nd
    rw [List.foldl_cons]
    rcases List.mem_cons.1 h with rfl | h
    · rw [if_pos rfl]
      exact storeFold_off (fun e he eq => off (List.mem_map.2 ⟨e, he, eq⟩)) x
    · exact ih nd h _

theorem upCore_self {s : State} {r : Rg} {f : Core → Core} (h : f (coreAt s r) = coreAt s r) : upCore s r f = s := by
  have e : vmod s.regions r (fun g => { g with core := f g.core }) = s.regions := by
    have h' : f (s.regions.get r).core = (s.regions.get r).core := h
    rw [vmod, h']; exact Vector.set_getElem_self _
  rw [upCore, upReg, e]

/-- With no frame new in the write set no line leaves the caches. -/
theorem dropShadows_self (s : State) (r : Rg) (h : Hh) : dropShadows s s r h = s := by
  simp only [dropShadows, upCache]
  exact upCore_self (by simp)

@[simp] theorem coreCpas_length (s : State) (r : Rg) (acc : Acc) (va n : Nat) : (coreCpas s r acc va n).length = n := by
  simp [coreCpas]

/-- A write of a mapped range at distinct places, with its frames in the write set already: the core reads each byte back at
its place, and every other byte as before. -/
theorem coreWrite_spec {s : State} {r : Rg} (ok : CacheOk s r) {va : Nat} {bs : List Byte}
    (hf : coreFault s r .write va bs.length = none)
    (hx : ∀ h, coreHh s r = some h → openFrames s h va bs.length = .ok s ∧ commitHolds s h va bs.length = false)
    (nd : (coreCpas s r .write va bs.length).Nodup) :
    ∃ t, coreWrite s r va bs = .ok t [] ∧ offCache t r = offCache s r ∧ CacheOk t r ∧
      (∀ j x, bs[j]? = some x → coreByte t r ((coreCpas s r .write va bs.length).getD j 0) = x) ∧
      ∀ b ∉ coreCpas s r .write va bs.length, coreByte t r b = coreByte s r b := by
  set cpas := coreCpas s r .write va bs.length with hcpas
  have hl : cpas.length = bs.length := coreCpas_length ..
  obtain ⟨o, k, g⟩ := stores_spec (cpas.zip bs) ok
  obtain ⟨o', k', g'⟩ := spill_spec k
  set u := spill ((cpas.zip bs).foldl (fun t e => storeByte t r e.1 e.2) s) r with hu
  obtain ⟨o2, k2, g2⟩ := coreCache_spec (s := u) (r := r) va bs.length
  have byte (b : Nat) := (g2 b).trans ((g' b).trans (g b))
  refine ⟨coreCache u r va bs.length, ?_, o2.trans (o'.trans o), k2 k', fun j x hj => ?_, fun b hb => ?_⟩
  · simp only [coreWrite, hf]
    cases hh : coreHh s r with
    | none => rfl
    | some h =>
      obtain ⟨frames, free⟩ := hx h hh
      simp only [free, frames, dropShadows_self]; rfl
  · have hjl : j < bs.length := (List.getElem?_eq_some_iff.1 hj).1
    rw [byte, storeFold_mem (by rw [List.map_fst_zip hl.le]; exact nd)]
    refine List.mem_iff_getElem?.2 ⟨j, ?_⟩
    rw [List.getElem?_zip_eq_some, List.getD_eq_getElem?_getD, List.getElem?_eq_getElem (hl ▸ hjl)]
    exact ⟨rfl, hj⟩
  · rw [byte, storeFold_off]
    exact fun e he eq => hb (eq ▸ (List.of_mem_zip he).1)

theorem coreRead_fault {s : State} {r : Rg} {va n st b : Nat} (hf : coreFault s r .read va n = some (st, b))
    (hb : inBar s r b = false) : coreRead s r va n = .fault (noteCore s r st b) st b := by simp [coreRead, hf, hb]
theorem coreWrite_fault {s : State} {r : Rg} {va st b : Nat} {bs : List Byte}
    (hf : coreFault s r .write va bs.length = some (st, b)) (hb : inBar s r b = false) :
    coreWrite s r va bs = .fault (noteCore s r st b) st b := by simp [coreWrite, hf, hb]

/- How a load ends, by its address. -/

section
variable {s : State} {r : Rg} {xb : XReg} {disp : Word} {size : Fin 4} (hw : Nat) {a : Nat}
  (ha : (xGet s r xb + disp).toNat = a)
include ha

theorem loadInstr_misaligned (xd : XReg) (h : a % 2 ^ size.val ≠ 0 ∨ inBar s r a = true ∧ 2 ^ size.val < 4) :
    loadInstr s r xd xb disp size hw = .trap s trapMisaligned := by
  cases hb : inBar s r a
  · have := h.resolve_right (by simp [hb])
    simp [loadInstr, ha, hb, this]
  · have : 2 ^ size.val < 4 ∨ a % 2 ^ size.val ≠ 0 := h.symm.imp_left And.right
    simp only [loadInstr, ha, hb, if_true, if_pos this]
theorem loadInstr_register (xd : XReg) (hb : inBar s r a = true) (hn : 4 ≤ 2 ^ size.val) (h : a % 2 ^ size.val = 0) :
    loadInstr s r xd xb disp size hw =
      let u := registerReadOp s (.cc r) (a - 0x8000000000) (2 ^ size.val) hw
      .done (loadInto u r xd (2 ^ size.val) u.bus) := by
  simp [loadInstr, ha, hb, h, Nat.not_lt.2 hn, barBase]
theorem loadInstr_ok {xd : XReg} {t : State} {bs : List Byte} (hb : inBar s r a = false) (h : a % 2 ^ size.val = 0)
    (e : coreRead s r a (2 ^ size.val) = .ok t bs) :
    loadInstr s r xd xb disp size hw = .done (loadInto t r xd (2 ^ size.val) (leNat bs)) := by
  simp [loadInstr, ha, hb, h, e]
theorem loadInstr_fault {xd : XReg} {st b : Nat} (hb : inBar s r a = false) (h : a % 2 ^ size.val = 0)
    (hf : coreFault s r .read a (2 ^ size.val) = some (st, b)) :
    loadInstr s r xd xb disp size hw = .trap (noteCore s r st b) (trapMemory st b) := by
  have e := coreRead_fault hf (coreFault_outsideBar (ha ▸ BitVec.isLt _) h hb hf)
  simp [loadInstr, ha, hb, h, e]

/- How a store ends, by its address. -/

theorem storeInstr_misaligned (xs : XReg) (h : a % 2 ^ size.val ≠ 0 ∨ inBar s r a = true ∧ 2 ^ size.val < 4) :
    storeInstr s r xs xb disp size hw = .trap s trapMisaligned := by
  cases hb : inBar s r a
  · have := h.resolve_right (by simp [hb])
    simp [storeInstr, ha, hb, this]
  · have : 2 ^ size.val < 4 ∨ a % 2 ^ size.val ≠ 0 := h.symm.imp_left And.right
    simp only [storeInstr, ha, hb, if_true, if_pos this]
theorem storeInstr_register (xs : XReg) (hb : inBar s r a = true) (hn : 4 ≤ 2 ^ size.val) (h : a % 2 ^ size.val = 0) :
    storeInstr s r xs xb disp size hw =
      .done (registerWriteOp s (.cc r) (a - 0x8000000000) (2 ^ size.val) (xNat s r xs) hw) := by
  simp [storeInstr, ha, hb, h, Nat.not_lt.2 hn, barBase]
theorem storeInstr_ok {xs : XReg} {t : State} {bs : List Byte} (hb : inBar s r a = false) (h : a % 2 ^ size.val = 0)
    (e : coreWrite s r a (leBytes (2 ^ size.val) (xNat s r xs)) = .ok t bs) :
    storeInstr s r xs xb disp size hw = .done t := by
  simp [storeInstr, ha, hb, h, e]
theorem storeInstr_fault {xs : XReg} {st b : Nat} (hb : inBar s r a = false) (h : a % 2 ^ size.val = 0)
    (hf : coreFault s r .write a (2 ^ size.val) = some (st, b)) :
    storeInstr s r xs xb disp size hw = .trap (noteCore s r st b) (trapMemory st b) := by
  have e := coreWrite_fault (bs := leBytes (2 ^ size.val) (xNat s r xs)) (by rw [leBytes_length]; exact hf)
    (coreFault_outsideBar (ha ▸ BitVec.isLt _) h hb hf)
  simp [storeInstr, ha, hb, h, e]

end

/-- Settles O12: the address decides how the load ends; a load from memory is the read through the caches, whose bytes
`loadInto` puts in Xd. -/
theorem coreLoadReadsItsBytes : Obligations.CoreLoadReadsItsBytes := by
  intro s r xd xb disp size hw ready f a n
  have ha : (xGet f r xb + disp).toNat = a := by simp [f, a]
  have bar : inBar f r a = inBar s r a := inBar_fetched ..
  obtain ⟨off, coherent, bytes⟩ := fetched_spec s r
  refine ⟨fun hb hal ok hf clean => ?_, fun hb hal st b hf => ?_, fun hb hn hal => ?_, fun h => ?_⟩
  · obtain ⟨t, e, o, k, g⟩ := coreRead_spec (coherent ok) hf fun c hc => (poisoned_fetched ..).trans (clean c hc)
    obtain ⟨w, hw', eq⟩ := loadInto_eq t r xd size (leNat ((coreCpas f r .read a n).map (coreByte f r)))
    refine ⟨tickFresh (upCore t r fun c => wroteX c xd w), w, ?_, ?_, ?_, ?_, fun b => ?_⟩
    · rw [exec_coreLoad, run_done ready (loadInstr_ok hw ha (bar.trans hb) hal e), eq]
    · rw [hw', Nat.mod_eq_of_lt (by simpa using leNat_lt ((coreCpas f r .read a n).map (coreByte f r)))]
      exact congrArg leNat (List.map_congr_left fun c _ => bytes c)
    · rw [offCache_tickFresh]
      exact offCache_upCore (o.trans off) (noCache_wroteX xd w)
    · exact (k.upCore (cache_wroteX xd w)).tickFresh
    · exact (coreByte_upCore (cache_wroteX xd w) t r b).trans ((g b).trans (bytes b))
  · rw [exec_coreLoad, run_trap ready (loadInstr_fault hw ha (bar.trans hb) hal hf)]
  · obtain ⟨w, hw', eq⟩ := loadInto_eq (registerReadOp f (.cc r) (a - 0x8000000000) n hw) r xd size
      (registerReadOp f (.cc r) (a - 0x8000000000) n hw).bus
    exact ⟨w, hw', by rw [exec_coreLoad, run_done ready (loadInstr_register hw ha xd (bar.trans hb) hn hal), eq]⟩
  · rw [exec_coreLoad, run_trap ready (loadInstr_misaligned hw ha xd (by rw [bar]; exact h))]

/-- Settles O13: the address decides how the store ends; a store to memory is the write through the caches, whose places
are the translated bytes of the range. -/
theorem coreStoreWritesItsBytes : Obligations.CoreStoreWritesItsBytes := by
  intro s r xs xb disp size hw ready f a n v cpas
  have ha : (xGet f r xb + disp).toNat = a := by simp [f, a]
  have bar : inBar f r a = inBar s r a := inBar_fetched ..
  have hv : xNat f r xs = v := xNat_fetched ..
  obtain ⟨off, coherent, bytes⟩ := fetched_spec s r
  refine ⟨fun hb hal ok hf frames nd => ?_, fun hb hal st b hf => ?_, fun hb hn hal => ?_, fun h => ?_⟩
  · have len : (leBytes n v).length = n := leBytes_length ..
    obtain ⟨t, e, o, k, stored, others⟩ := coreWrite_spec (coherent ok) (va := a) (bs := leBytes n v) (by rwa [len])
      (by rw [len]; simpa [f] using frames) (by rwa [len])
    rw [len] at stored others
    have still (b : Nat) := coreByte_upCore cache_movedOn t r b
    refine ⟨upCore t r movedOn, ?_, offCache_upCore (o.trans off) noCache_movedOn, k.upCore cache_movedOn,
      fun j hj => ?_, fun b hb => ?_⟩
    · rw [exec_coreStore, run_done ready (storeInstr_ok hw ha (bar.trans hb) hal (by rw [hv]; exact e))]
    · rw [still, stored j _ (leBytes_get n v hj)]
    · rw [still, others b hb, bytes]
  · rw [exec_coreStore, run_trap ready (storeInstr_fault hw ha (bar.trans hb) hal hf)]
  · rw [exec_coreStore, run_done ready (storeInstr_register hw ha xs (bar.trans hb) hn hal), hv]
  · rw [exec_coreStore, run_trap ready (storeInstr_misaligned hw ha xs (by rw [bar]; exact h))]

end Sys2Proof.Machine
end

section
/-! PROOFS. Accesses of BAR0 that cover one register, and the registers HE_SETPOINT, TR_EVENT and DISCARD_COUNT (R12, R13, R58). -/

namespace Sys2Proof.Machine

/- Accesses of BAR0. -/

theorem exec_registerWrite (a : Agent) (off size v hw : Nat) (s : State) :
    exec (.registerWrite a off size v hw) s = .next (access s a fun s => registerWriteOp s a off size v hw) := rfl
theorem exec_registerRcRead (a : Agent) (off size hw : Nat) (s : State) :
    exec (.registerRcRead a off size hw) s = .next (access s a fun s => registerReadOp s a off size hw) := rfl

/-- An agent that the block answers has its access. -/
theorem access_up {s : State} {a : Agent} (up : agentUp s a = true) (f : State → State) : access s a f = f s := by
  cases a <;> simp_all [agentUp, access]

/-- An access that covers one register, each of its bytes at its place. -/
structure Covers (off size : Nat) (x : Reg) : Prop where
  bar : apertureOf off = none
  ok : accessOk off size = true
  regs : coveredRegs off size = [x]
  bytes : covered off size = (List.range size).map fun j => (j, x, j)

theorem covers_setpoint : Covers 0x300008 8 (.pkg .heSetpoint) :=
  ⟨by decide +kernel, by decide +kernel, by decide +kernel, by decide +kernel⟩
theorem covers_terraceEvents : Covers 0x600200 4 (.pkg .trEvent) :=
  ⟨by decide +kernel, by decide +kernel, by decide +kernel, by decide +kernel⟩
theorem covers_discards : Covers 0x1200 4 (.pkg .discardCount) :=
  ⟨by decide +kernel, by decide +kernel, by decide +kernel, by decide +kernel⟩

/-- The bytes of a number, each at its place, are its value modulo 256 to their count. -/
theorem sum_bytes (v n : Nat) : ((List.range n).map fun j => v / 256 ^ j % 256 * 256 ^ j).sum = v % 256 ^ n := by
  induction n with
  | zero => simp [Nat.mod_one]
  | succ n ih =>
    rw [List.range_succ, List.map_append, List.sum_append, ih, Nat.pow_succ, Nat.mod_mul]
    simp [Nat.mul_comm]
theorem sum_fullBytes (n : Nat) : ((List.range n).map fun j => 255 * 256 ^ j).sum = 256 ^ n - 1 := by
  induction n with
  | zero => rfl
  | succ n ih =>
    have := Nat.one_le_pow n 256 (by omega)
    rw [List.range_succ, List.map_append, List.sum_append, ih, Nat.pow_succ]
    simp; omega

section
variable {off size : Nat} {x : Reg} (c : Covers off size x) {s : State} {a : Agent} {v hw : Nat}
include c

theorem Covers.partOf (v : Nat) : partOf off size v x = v % 256 ^ size := by
  simp [Machine.partOf, c.bytes, Function.comp_def, sum_bytes]
theorem Covers.maskAt : maskAt off size x = 256 ^ size - 1 := by
  simp [Machine.maskAt, c.bytes, Function.comp_def, sum_fullBytes]

/-- The register sees all its bits written. -/
theorem Covers.regW (h : regRead s x < 256 ^ size) :
    regWOf s off size v hw x = ⟨regRead s x, v % 256 ^ size, v % 256 ^ size, hw % 256 ^ size⟩ := by
  have whole : regRead s x &&& (256 ^ size - 1) = regRead s x := by
    rw [show 256 ^ size = 2 ^ (8 * size) by rw [Nat.pow_mul]] at h ⊢
    rw [Nat.and_two_pow_sub_one_eq_mod, Nat.mod_eq_of_lt h]
  simp only [regWOf, c.partOf, c.maskAt, whole, Nat.sub_self, Nat.zero_add]

/-- A write that the agent may make is the register's own effect. -/
theorem Covers.write (may : mayWrite s a x (v % 256 ^ size) = true) (up : writeUp s x = true) (plain : mirroredReg x = false) :
    registerWriteOp s a off size v hw = regWrite s a (regWOf s off size v hw x) x := by
  simp [registerWriteOp, c.bar, c.regs, c.ok, c.partOf, may, up, writeRegs, plain]

/-- A read that the agent may make puts the register's value on the bus. -/
theorem Covers.read (may : mayRead s a x = true) (up : readUp s x = true) :
    registerReadOp s a off size hw = { rcClear s hw x with bus := seenBy s a x % 256 ^ size } := by
  simp [registerReadOp, c.bar, c.regs, c.ok, c.bytes, Function.comp_def, may, up, sum_bytes]

end

theorem mayWrite_house {s : State} {a : Agent} (h : pfOrHouse a = true) {y : PkgReg} (hy : y ≠ .selBase) (v : Nat) :
    mayWrite s a (.pkg y) v = true := by
  cases a <;> simp_all [pfOrHouse, mayWrite, mayReach]

/- The fields of HE_SETPOINT. -/

theorem bits_mod {k lo w : Nat} (h : lo + w ≤ k) (v : Nat) : bits (v % 2 ^ k) lo w = bits v lo w := by
  apply Nat.eq_of_testBit_eq
  intro i
  simp only [bits, Nat.testBit_mod_two_pow, Nat.testBit_div_two_pow]
  by_cases hi : i < w
  · simp [hi, show i + lo < k by omega]
  · simp [hi]

theorem regRead_setpoint (s : State) : regRead s (.pkg .heSetpoint) =
    fld [(48, 16, s.hearth.outletDc), (32, 16, s.hearth.slew), (16, 8, s.hearth.band), (0, 16, s.hearth.setpoint)] := rfl
theorem regWrite_setpoint (s : State) (a : Agent) (x : RegW) : regWrite s a x (.pkg .heSetpoint) = upHe s fun h => { h with
    outletDc := ranged 400 700 (bits x.w 48 16) h.outletDc, slew := ranged 5 500 (bits x.w 32 16) h.slew
    band := ranged 5 100 (bits x.w 16 8) h.band, setpoint := ranged 600 1800 (bits x.w 0 16) h.setpoint } := rfl
theorem setpoint_lt (s : State) : regRead s (.pkg .heSetpoint) < 256 ^ 8 := by
  simp only [regRead_setpoint, fld, List.foldl]
  omega

theorem registerWriteOp_setpoint {s : State} {a : Agent} (h : pfOrHouse a = true) (v hw : Nat) :
    registerWriteOp s a 0x300008 8 v hw = upHe s fun x => { x with
      outletDc := ranged 400 700 (bits v 48 16) x.outletDc, slew := ranged 5 500 (bits v 32 16) x.slew
      band := ranged 5 100 (bits v 16 8) x.band, setpoint := ranged 600 1800 (bits v 0 16) x.setpoint } := by
  rw [covers_setpoint.write (mayWrite_house h (by decide) _) rfl rfl, covers_setpoint.regW (setpoint_lt s)]
  rw [show (256 : Nat) ^ 8 = 2 ^ 64 by rfl]
  rw [regWrite_setpoint, bits_mod (by omega), bits_mod (by omega), bits_mod (by omega), bits_mod (by omega)]

/- The flags of TR_EVENT. -/

theorem regRead_terraceEvents (s : State) : regRead s (.pkg .trEvent) = fld [(16, 16, s.terr.drops),
    flag 2 s.terr.evRouteLost, flag 1 s.terr.evFenced, flag 0 s.terr.evPortFail] := rfl
theorem regWrite_terraceEvents (s : State) (a : Agent) (x : RegW) : regWrite s a x (.pkg .trEvent) =
    bellIf (x.sets 7) { s with terr := { s.terr with
      evRouteLost := x.flag 2 s.terr.evRouteLost, evFenced := x.flag 1 s.terr.evFenced
      evPortFail := x.flag 0 s.terr.evPortFail, lost := lostInc s.terr.lost (x.lost 7) } } 5 := rfl
theorem terraceEvents_lt (s : State) : regRead s (.pkg .trEvent) < 256 ^ 4 := by
  simp only [regRead_terraceEvents, fld, flag, List.foldl]
  omega

theorem b2n_lt (b : Bool) : b2n b < 2 := by cases b <;> decide
theorem testBit_of_div {m n : Nat} {b : Bool} (h : m / 2 ^ n % 2 = b2n b) : m.testBit n = b := by
  rw [Nat.testBit_eq_decide_div_mod_eq, h]; cases b <;> rfl

/-- The three low bits of TR_EVENT are the block's flags. -/
theorem terraceEvents_testBit (s : State) :
    (regRead s (.pkg .trEvent)).testBit 2 = s.terr.evRouteLost ∧ (regRead s (.pkg .trEvent)).testBit 1 = s.terr.evFenced ∧
      (regRead s (.pkg .trEvent)).testBit 0 = s.terr.evPortFail := by
  have h2 := b2n_lt s.terr.evRouteLost
  have h1 := b2n_lt s.terr.evFenced
  have h0 := b2n_lt s.terr.evPortFail
  simp only [regRead_terraceEvents, fld, flag, List.foldl]
  exact ⟨testBit_of_div (by omega), testBit_of_div (by omega), testBit_of_div (by omega)⟩

/-- One of the three low bits is set. -/
theorem decide_and_seven (m : Nat) : decide (m &&& 7 ≠ 0) = (m.testBit 2 || m.testBit 1 || m.testBit 0) := by
  rw [Bool.eq_iff_iff, show (7 : Nat) = 2 ^ 3 - 1 by rfl, Nat.and_two_pow_sub_one_eq_mod]
  simp only [Nat.testBit_eq_decide_div_mod_eq, Bool.or_eq_true, decide_eq_true_eq]
  omega

theorem registerWriteOp_terraceEvents {s : State} {a : Agent} (h : pfOrHouse a = true) (v hw : Nat) :
    let now (n : Nat) (old : Bool) : Bool := hw.testBit n || (old && !v.testBit n)
    let lost (n : Nat) (old : Bool) : Bool := old && v.testBit n && hw.testBit n
    let t := s.terr
    registerWriteOp s a 0x600200 4 v hw = bellIf (decide (hw % 8 ≠ 0)) { s with terr := { t with
      evRouteLost := now 2 t.evRouteLost, evFenced := now 1 t.evFenced, evPortFail := now 0 t.evPortFail
      lost := lostInc t.lost (lost 2 t.evRouteLost || lost 1 t.evFenced || lost 0 t.evPortFail) } } 5 := by
  intro now lost t
  obtain ⟨bit2, bit1, bit0⟩ := terraceEvents_testBit s
  rw [covers_terraceEvents.write (mayWrite_house h (by decide) _) rfl rfl, covers_terraceEvents.regW (terraceEvents_lt s)]
  rw [show (256 : Nat) ^ 4 = 2 ^ 32 by rfl]
  have sets : decide (hw % 2 ^ 32 &&& 7 ≠ 0) = decide (hw % 8 ≠ 0) := by
    rw [show (7 : Nat) = 2 ^ 3 - 1 by rfl, Nat.and_two_pow_sub_one_eq_mod, Nat.mod_mod_of_dvd _ (by decide)]
  simp only [regWrite_terraceEvents, RegW.sets, RegW.lost, RegW.flag, sets, decide_and_seven, Nat.testBit_and,
    Nat.testBit_mod_two_pow, bit2, bit1, bit0]
  rfl

/- The count of DISCARD_COUNT. -/

theorem mayRead_discards {s : State} {a : Agent} (h : ∀ h, a ≠ .vf h) : mayRead s a (.pkg .discardCount) = true := by
  cases a with
  | vf g => exact absurd rfl (h g)
  | pf => rfl
  | cc r => rfl
  | house => rfl

theorem registerReadOp_discards {s : State} {a : Agent} (h : ∀ h, a ≠ .vf h) (hw : Nat) :
    registerReadOp s a 0x1200 4 hw =
      { noteLost { s with discCount := rcCount s.discCount hw } (decide (hw ≠ 0 ∧ s.discCount ≠ 0)) with
        bus := s.discFunc % 2 ^ 16 * 2 ^ 16 + s.discCount % 2 ^ 16 } := by
  rw [covers_discards.read (mayRead_discards h) rfl]
  have value : seenBy s a (.pkg .discardCount) % 256 ^ 4 = s.discFunc % 2 ^ 16 * 2 ^ 16 + s.discCount % 2 ^ 16 := by
    rw [show seenBy s a (.pkg .discardCount) = fld [(16, 16, s.discFunc), (0, 16, s.discCount)] from rfl]
    simp only [fld, List.foldl]
    omega
  rw [value]; rfl

/-- Settles O18: each access covers one register, and what is left is that register's own rule. -/
theorem registerFieldsFlagsAndCounters : Obligations.RegisterFieldsFlagsAndCounters := by
  refine ⟨fun s a v hw up h => ?_, fun s a v hw up h => ?_, fun s a hw up hvf hc => ?_⟩
  · intro f
    rw [exec_registerWrite, access_up up, registerWriteOp_setpoint h]
    rfl
  · intro now lost t u
    rw [exec_registerWrite, access_up up, registerWriteOp_terraceEvents h]
    simp only [bellIf, lostInc_eq_min, decide_eq_true_eq]
    rfl
  · rw [exec_registerRcRead, access_up up, registerReadOp_discards hvf]
    simp only [noteLost, lostInc_eq_min, decide_eq_true_eq, Nat.mod_eq_of_lt hc]
    have count : rcCount s.discCount hw = if hw = 0 then 0 else min (s.discCount + hw) 65535 := by
      simp only [rcCount, satAdd]; split
      · rfl
      · split <;> omega
    rw [count]

end Sys2Proof.Machine
end

section
/-! PROOFS. The memory of a household over a plain destination: a read gives the bytes that stand there, a write stores
its bytes there and changes nothing else (R305-R316). -/

namespace Sys2Proof.Machine

/- Addresses. -/

theorem mem_vaRange {a va n : Nat} : a ∈ vaRange va n ↔ ∃ i < n, (va + i) % 2 ^ 64 = a := by simp [vaRange]
theorem add_mem_vaRange {va n i : Nat} (h : i < n) : (va + i) % 2 ^ 64 ∈ vaRange va n := mem_vaRange.2 ⟨i, h, rfl⟩
theorem vaRange_mod (va n : Nat) : vaRange (va % 2 ^ 64) n = vaRange va n := by simp [vaRange]
@[simp] theorem vaRange_length (va n : Nat) : (vaRange va n).length = n := by simp [vaRange]
/-- A range of at most 2^64 bytes names each address once. -/
theorem vaRange_nodup (va : Nat) {n : Nat} (h : n ≤ 2 ^ 64) : (vaRange va n).Nodup := by
  refine List.Nodup.map_on (fun i hi j hj e => ?_) List.nodup_range
  have := List.mem_range.1 hi
  have := List.mem_range.1 hj
  omega
/-- A part of a range. -/
theorem vaRange_sub {va n : Nat} {o m : Nat} (h : o + m ≤ n) : vaRange (va + o) m ⊆ vaRange va n := by
  intro a ha
  obtain ⟨i, hi, rfl⟩ := mem_vaRange.1 ha
  exact mem_vaRange.2 ⟨o + i, by omega, by rw [Nat.add_assoc]⟩
theorem vaRange_append (va n m : Nat) : vaRange va (n + m) = vaRange va n ++ vaRange (va + n) m := by
  simp only [vaRange, List.range_add, List.map_append, List.map_map, Function.comp_def, Nat.add_assoc]

/- Translation of a range. -/

/-- The pages at which a range is translated begin at addresses of the range. -/
theorem page_mem_vaRange {va n i : Nat} (hn : n ≠ 0) (hi : i < (va + n - 1) / 65536 - va / 65536 + 1) :
    (if i = 0 then va else (va / 65536 + i) * 65536) % 2 ^ 64 ∈ vaRange va n := by
  split
  · exact mem_vaRange.2 ⟨0, by omega, rfl⟩
  · exact mem_vaRange.2 ⟨(va / 65536 + i) * 65536 - va, by omega, by congr 1; omega⟩

theorem xlateRange_none {s : State} {h : Hh} {agent : Bool} {acc : Acc} {va n : Nat}
    (hx : ∀ a ∈ vaRange va n, ∃ p, xlate s h agent acc a = .ok p) : xlateRange s h agent acc va n = none := by
  unfold xlateRange
  split
  · rfl
  · rename_i hn
    simp only [List.findSome?_eq_none_iff, List.mem_map, List.mem_range, forall_exists_index, and_imp]
    rintro x i hi rfl
    obtain ⟨p, e⟩ := hx _ (page_mem_vaRange hn hi)
    rw [e]

/-- A page that may be written and read by its household is found by both accesses. -/
theorem xlate_read_of_write {s : State} {h : Hh} {agent : Bool} {va : Nat} {p : PageX} (hw : xlate s h agent .write va = .ok p)
    (hr : p.r = true) : xlate s h agent .read va = .ok p := by
  unfold xlate at hw ⊢
  cases hp : pageOf s h va with
  | none => simp [hp] at hw
  | some q =>
    have : q = p := by
      simp only [hp] at hw
      split at hw
      · simp at hw
      · split at hw <;> simp_all
    simp [this, hr]

/- A plain destination. -/

section
variable {s t u : State} {h : Hh} {W V V' : List Nat}

/-- The byte that a household's address reaches. -/
def hByte (s : State) (h : Hh) (a : Nat) : Byte := cGet s (cpaOf s h a)
/-- The bytes of a range of a household. -/
def hBytes (s : State) (h : Hh) (va n : Nat) : List Byte := (vaRange va n).map (hByte s h)

@[simp] theorem hBytes_length (s : State) (h : Hh) (va n : Nat) : (hBytes s h va n).length = n := by simp [hBytes]
theorem PlainDest.page (p : PlainDest s h W) {a : Nat} (ha : a ∈ W) :
    ∃ x, xlate s h true .write a = .ok x ∧ xlate s h true .read a = .ok x ∧ x.tx = false ∧ cpaOf s h a = x.frame + a % 65536 := by
  obtain ⟨x, hw, tx, hr⟩ := p.pages a ha
  exact ⟨x, hw, xlate_read_of_write hw hr, tx, by simp [cpaOf, hw]⟩
theorem PlainDest.writable (p : PlainDest s h W) {va n : Nat} (hw : vaRange va n ⊆ W) :
    xlateRange s h true .write va n = none :=
  xlateRange_none fun _ ha => let ⟨x, e, _⟩ := p.page (hw ha); ⟨x, e⟩
theorem PlainDest.readable (p : PlainDest s h W) {va n : Nat} (hw : vaRange va n ⊆ W) :
    xlateRange s h true .read va n = none :=
  xlateRange_none fun _ ha => let ⟨x, _, e, _⟩ := p.page (hw ha); ⟨x, e⟩
theorem PlainDest.nodupVas (p : PlainDest s h W) : W.Nodup := List.Nodup.of_map _ p.nodup
theorem PlainDest.cpa_inj (p : PlainDest s h W) {a b : Nat} (ha : a ∈ W) (hb : b ∈ W) (e : cpaOf s h a = cpaOf s h b) : a = b :=
  List.inj_on_of_nodup_map p.nodup ha hb e

/-- A plain destination is read as it stands. -/
theorem hRead_plain (p : PlainDest s h W) {va n : Nat} (hw : vaRange va n ⊆ W) :
    hRead s h true .read va n = .ok (hBytes s h va n) := by
  have get {i : Nat} (hi : i < n) (g : Nat → Nat) : ((List.range n).map g).getD i 0 = g i := by simp [hi]
  have read (g : Nat → Nat) (hg : ∀ i < n, g i = cpaOf s h ((va + i) % 2 ^ 64)) :
      (match (List.range n).find? fun i => poisoned s (((List.range n).map g).getD i 0) with
        | some i => Except.error (MErr.ue (va + i))
        | none => .ok (((List.range n).map g).map (cGet s))) = .ok (hBytes s h va n) := by
    have clean : (List.range n).find? (fun i => poisoned s (((List.range n).map g).getD i 0)) = none := by
      simp only [List.find?_eq_none, List.mem_range, Bool.not_eq_true]
      intro i hi
      rw [get hi, hg i hi]
      exact p.clean _ (hw (add_mem_vaRange hi))
    rw [clean]
    simp only [hBytes, vaRange, List.map_map]
    exact congrArg _ (List.map_congr_left fun i hi => congrArg (cGet s) (hg i (List.mem_range.1 hi)))
  simp only [hRead, p.readable hw]
  refine read _ fun i hi => ?_
  obtain ⟨x, -, hr, tx, e⟩ := p.page (hw (add_mem_vaRange hi))
  simp only [hr, readCpa, tx, e, Bool.false_eq_true, if_false]

/-- State t is s but for the bytes of the cellar that household h reaches at the addresses V. -/
structure Stored (s t : State) (h : Hh) (V : List Nat) : Prop where
  frame : offCellar t = offCellar s
  poison : t.cellar.poison = s.cellar.poison
  wf : spWf 0 t.cellar.mem = true
  off : ∀ b, b ∉ V.map (cpaOf s h) → cGet t b = cGet s b

/-- A plain destination stays one, with its translation, in every state that differs in its own bytes alone. -/
theorem PlainDest.carry (p : PlainDest s h W) (same : sameBut s t h (W.map (cpaOf s h)))
    (poison : t.cellar.poison = s.cellar.poison) (wf : spWf 0 t.cellar.mem = true) :
    PlainDest t h W ∧ ∀ acc va, xlate t h true acc va = xlate s h true acc va := by
  obtain ⟨tr, tx, sel, ret, off⟩ := same
  have x := p.tables t ⟨tr, tx, sel, ret, off⟩
  have cpa : cpaOf t h = cpaOf s h := by funext a; simp only [cpaOf, x]
  have poisoned_eq (a : Nat) : poisoned t a = poisoned s a := by
    simp only [poisoned, place_inPlace ret, place_inPlace p.mem.2, poison]
  refine ⟨⟨fun va hv => ?_, cpa ▸ p.nodup, fun u hu acc va => ?_, fun va hv => ?_, wf, ret⟩, x⟩
  · rw [x]; exact p.pages va hv
  · obtain ⟨tr', tx', sel', ret', off'⟩ := hu
    rw [x]
    refine p.tables u ⟨tr'.trans tr, tx'.trans tx, sel'.trans sel, ret', fun a ha => ?_⟩ acc va
    obtain ⟨g, q⟩ := off' a (cpa ▸ ha)
    exact ⟨g.trans (off a ha).1, q.trans (off a ha).2⟩
  · rw [poisoned_eq, cpa]; exact p.clean va hv

theorem cpaOf_congr (x : ∀ acc va, xlate t h true acc va = xlate s h true acc va) : cpaOf t h = cpaOf s h := by
  funext a; simp only [cpaOf, x]

theorem hhs_of_offCellar (e : offCellar t = offCellar s) : t.hhs = s.hhs :=
  show (offCellar t).hhs = (offCellar s).hhs by rw [e]
theorem selBase_of_offCellar (e : offCellar t = offCellar s) : t.selBase = s.selBase :=
  show (offCellar t).selBase = (offCellar s).selBase by rw [e]

theorem Stored.mono (e : Stored s t h V) (hv : V ⊆ V') : Stored s t h V' :=
  ⟨e.frame, e.poison, e.wf, fun b hb => e.off b fun hm => hb (List.map_subset _ hv hm)⟩
theorem Stored.poisoned (e : Stored s t h V) (a : Nat) : poisoned t a = poisoned s a := by
  simp only [Machine.poisoned, place, e.poison, retired_offCellar e.frame]
theorem Stored.sameBut (p : PlainDest s h W) (e : Stored s t h V) : sameBut s t h (V.map (cpaOf s h)) := by
  have hh : hhAt t h = hhAt s h := by simp only [hhAt, hhs_of_offCellar e.frame]
  exact ⟨by rw [hh], by rw [hh], selBase_of_offCellar e.frame, (retired_offCellar e.frame).trans p.mem.2,
    fun b hb => ⟨e.off b hb, e.poisoned b⟩⟩
theorem Stored.carry (p : PlainDest s h W) (hv : V ⊆ W) (e : Stored s t h V) :
    PlainDest t h W ∧ ∀ acc va, xlate t h true acc va = xlate s h true acc va :=
  p.carry ((e.mono hv).sameBut p) e.poison e.wf
theorem Stored.plain (p : PlainDest s h W) (hv : V ⊆ W) (e : Stored s t h V) : PlainDest t h W := (e.carry p hv).1
theorem Stored.cpaOf (p : PlainDest s h W) (hv : V ⊆ W) (e : Stored s t h V) : cpaOf t h = cpaOf s h :=
  cpaOf_congr (e.carry p hv).2
theorem Stored.refl (p : PlainDest s h W) : Stored s s h [] := ⟨rfl, rfl, p.mem.1, fun _ _ => rfl⟩
theorem Stored.trans (p : PlainDest s h W) (hv : V ⊆ W) (e : Stored s t h V) (e' : Stored t u h V') :
    Stored s u h (V ++ V') := by
  refine ⟨e'.frame.trans e.frame, e'.poison.trans e.poison, e'.wf, fun b hb => ?_⟩
  rw [List.map_append, List.mem_append, not_or] at hb
  rw [e'.off b (e.cpaOf p hv ▸ hb.2), e.off b hb.1]
/-- Bytes of the destination off the addresses stored to stand. -/
theorem Stored.hBytes (p : PlainDest s h W) (hv : V ⊆ W) (e : Stored s t h V) {va n : Nat} (hw : vaRange va n ⊆ W)
    (apart : ∀ a ∈ vaRange va n, a ∉ V) : hBytes t h va n = hBytes s h va n := by
  refine List.map_congr_left fun a ha => ?_
  rw [hByte, hByte, e.cpaOf p hv]
  refine e.off _ fun hm => ?_
  obtain ⟨b, hb, eq⟩ := List.mem_map.1 hm
  exact apart a ha (p.cpa_inj (hv hb) (hw ha) eq ▸ hb)

/- A write. -/

/-- Stores at given places, read back as a lookup among them. -/
theorem cGet_foldl_cPut (es : List (Byte × Nat)) (f : Nat → Nat) {s : State} (w : spWf 0 s.cellar.mem = true)
    (hr : s.cellar.retired = none) (b : Nat) : cGet (es.foldl (fun t e => cPut t (f e.2) e.1) s) b =
      (es.map fun e => (f e.2, e.1)).foldl (fun v e => if b = e.1 then e.2 else v) (cGet s b) := by
  induction es generalizing s with
  | nil => rfl
  | cons e es ih =>
    rw [List.foldl_cons, ih (cPut_wf w) hr, cGet_cPut w, place_inPlace hr, place_inPlace hr]
    simp only [List.map_cons, List.foldl_cons, eq_comm]

/-- Nothing is cleared in a unit without poison. -/
theorem clearPoison_clean {a : Nat} (hr : s.cellar.retired = none) (hp : Machine.poisoned s a = false) : clearPoison s a 64 = s := by
  have keep : (s.cellar.poison.filter fun p => !(((List.range (64 / 64 + 1)).map fun i => (a + 63) / 64 * 64 + 64 * i).filter
      fun u => decide (u + 64 ≤ a + 64)).any fun u => place s u / 64 == p) = s.cellar.poison := by
    refine List.filter_eq_self.2 fun x hx => ?_
    simp only [Bool.not_eq_true', List.any_eq_false, List.mem_filter, List.mem_map, List.mem_range, decide_eq_true_eq, beq_iff_eq,
      place_inPlace hr]
    rintro u ⟨⟨i, hi, rfl⟩, hu⟩ rfl
    have : ((a + 63) / 64 * 64 + 64 * i) / 64 = a / 64 := by omega
    rw [this] at hx
    simp [Machine.poisoned, place_inPlace hr, hx] at hp
  simp only [clearPoison, keep]

/-- The frames of pages outside transactions do not enter a write set. -/
theorem openFrames_plain (p : PlainDest s h W) {va n : Nat} (hw : vaRange va n ⊆ W) : openFrames s h va n = .ok s := by
  unfold openFrames
  split
  · rfl
  · rename_i hn
    rw [List.foldl_map]
    have step (i : Nat) (hi : i < (va + n - 1) / 65536 - va / 65536 + 1) :=
      p.page (hw (page_mem_vaRange hn hi))
    generalize (va + n - 1) / 65536 - va / 65536 + 1 = m at step
    induction m with
    | zero => rfl
    | succ m ih =>
      obtain ⟨x, e, -, tx, -⟩ := step m (by omega)
      rw [List.range_succ, List.foldl_append, ih fun i hi => step i (by omega), List.foldl_cons, List.foldl_nil]
      simp only [e, tx]; rfl

/-- Bytes stored at the places of a range. -/
def storeRange (s : State) (cpa : Nat → Nat) (va : Nat) (bs : List Byte) : State :=
  (bs.zip (List.range bs.length)).foldl (fun w e => cPut w (cpa (va + e.2)) e.1) s

theorem storeRange_plain (p : PlainDest s h W) {va : Nat} {bs : List Byte} (hw : vaRange va bs.length ⊆ W)
    (size : bs.length ≤ 2 ^ 64) {cpa : Nat → Nat} (hc : ∀ i < bs.length, cpa (va + i) = cpaOf s h ((va + i) % 2 ^ 64)) :
    Stored s (storeRange s cpa va bs) h (vaRange va bs.length) ∧ hBytes (storeRange s cpa va bs) h va bs.length = bs := by
  obtain ⟨frame, wf, poison, off⟩ :=
    foldl_cPut (bs.zip (List.range bs.length)) (fun i => cpa (va + i)) s p.mem.1 p.mem.2
  have st : Stored s (storeRange s cpa va bs) h (vaRange va bs.length) := by
    refine ⟨frame, poison, wf, fun b hb => off b fun e he eq => hb ?_⟩
    have hi := List.mem_range.1 (List.of_mem_zip he).2
    exact List.mem_map.2 ⟨_, add_mem_vaRange hi, (hc _ hi).symm.trans eq⟩
  refine ⟨st, List.ext_getElem (by simp) fun i h1 hi => ?_⟩
  have places : (bs.zip (List.range bs.length)).map (fun e => cpa (va + e.2)) = (vaRange va bs.length).map (cpaOf s h) := by
    calc _ = ((bs.zip (List.range bs.length)).map Prod.snd).map fun i => cpa (va + i) := by rw [List.map_map]; rfl
      _ = (List.range bs.length).map fun i => cpaOf s h ((va + i) % 2 ^ 64) := by
        rw [List.map_snd_zip (by simp)]
        exact List.map_congr_left fun i hi => hc i (List.mem_range.1 hi)
      _ = _ := by rw [vaRange, List.map_map]; rfl
  have nd : ((vaRange va bs.length).map (cpaOf s h)).Nodup :=
    (vaRange_nodup va size).map_on fun a ha b hb => p.cpa_inj (hw ha) (hw hb)
  simp only [hBytes, vaRange, List.getElem_map, List.getElem_range, hByte, st.cpaOf p hw]
  rw [storeRange, cGet_foldl_cPut _ (fun i => cpa (va + i)) p.mem.1 p.mem.2]
  refine storeFold_mem (by rw [List.map_map]; exact places ▸ nd) ?_ _
  refine List.mem_map.2 ⟨(bs[i], i), List.mem_iff_getElem?.2 ⟨i, ?_⟩, by rw [hc i hi]⟩
  rw [List.getElem?_zip_eq_some]
  simp [hi]

/-- A write to a plain destination stores its bytes there and changes nothing else. -/
theorem hWrite_plain (p : PlainDest s h W) {va : Nat} {bs : List Byte} (hw : vaRange va bs.length ⊆ W)
    (size : bs.length ≤ 2 ^ 64) : ∃ t, hWrite s h true va bs = .ok t ∧ Stored s t h (vaRange va bs.length) ∧
      hBytes t h va bs.length = bs := by
  have units (cpa : Nat → Nat) (hc : ∀ i < bs.length, cpa (va + i) = cpaOf s h ((va + i) % 2 ^ 64)) :
      (((List.range (bs.length / 64 + 1)).map fun i => (va + 63) / 64 * 64 + 64 * i).filter
        fun x => decide (x + 64 ≤ va + bs.length)).foldl (fun w x => clearPoison w (cpa x) 64) (storeRange s cpa va bs) =
        storeRange s cpa va bs := by
    obtain ⟨st, -⟩ := storeRange_plain p hw size hc
    refine List.foldlRecOn (motive := (· = storeRange s cpa va bs)) _ _ rfl ?_
    rintro _ rfl x hx
    simp only [List.mem_filter, List.mem_map, List.mem_range, decide_eq_true_eq] at hx
    obtain ⟨⟨i, -, rfl⟩, hx⟩ := hx
    refine clearPoison_clean ((retired_offCellar st.frame).trans p.mem.2) ?_
    obtain ⟨o, ho, e⟩ : ∃ o < bs.length, (va + 63) / 64 * 64 + 64 * i = va + o :=
      ⟨(va + 63) / 64 * 64 + 64 * i - va, by omega, by omega⟩
    rw [st.poisoned, e, hc o ho]
    exact p.clean _ (hw (add_mem_vaRange ho))
  simp only [hWrite, p.writable hw, if_true, openFrames_plain p hw]
  refine ⟨_, rfl, ?_⟩
  have hc (i : Nat) (hi : i < bs.length) : (match xlate s h true .write ((va + i) % 2 ^ 64) with
      | .ok p => writeCpa s p ((va + i) % 2 ^ 64)
      | .error _ => 0) = cpaOf s h ((va + i) % 2 ^ 64) := by
    obtain ⟨x, hx, -, tx, e⟩ := p.page (hw (add_mem_vaRange hi))
    simp only [hx, writeCpa, tx, e, Bool.false_eq_true, if_false]
  refine Eq.mpr (congrArg (fun u => Stored s u h _ ∧ hBytes u h _ _ = _) (units _ hc)) (storeRange_plain p hw size hc)

/- A block with its seal. -/

theorem blockSeal_go_lt (i : Nat) (bs : List Byte) {acc : Nat} (h : acc < sealP) : blockSeal.go i bs acc < sealP := by
  have hp : 0 < sealP := by decide
  fun_induction blockSeal.go i bs acc with
  | case1 i acc a b c d t ih => exact ih (Nat.mod_lt _ hp)
  | case2 => exact h
  | case3 => exact Nat.mod_lt _ hp
theorem blockSeal_lt (bs : List Byte) : blockSeal bs < 256 ^ 4 :=
  Nat.lt_trans (blockSeal_go_lt 1 bs (by decide)) (by decide)

/-- Addresses of a block of n bytes and of its seal. -/
def blockVas (va n sl : Nat) : List Nat := vaRange va n ++ vaRange sl 4
/-- A household's block holds the bytes bs under their seal. -/
structure Sealed (s : State) (h : Hh) (va sl : Nat) (bs : List Byte) : Prop where
  bytes : hBytes s h va bs.length = bs
  slot : hBytes s h sl 4 = leBytes 4 (blockSeal bs)

/-- A sealed block is read back and verifies (R25). -/
theorem hReadBlock_sealed (p : PlainDest s h W) {va sl : Nat} {bs : List Byte} (hw : blockVas va bs.length sl ⊆ W)
    (hs : Sealed s h va sl bs) : hReadBlock s h va bs.length sl = .ok bs := by
  obtain ⟨hb, hl⟩ := List.append_subset.1 hw
  simp only [hReadBlock, hRead_plain p hb, hRead_plain p hl, hs.bytes, hs.slot, leNat_leBytes]
  rw [Nat.mod_eq_of_lt (blockSeal_lt bs)]
  simp

/-- A block stays sealed while its own addresses are left alone. -/
theorem Stored.sealed (p : PlainDest s h W) (hv : V ⊆ W) (e : Stored s t h V) {va sl : Nat} {bs : List Byte}
    (hw : blockVas va bs.length sl ⊆ W) (apart : ∀ a ∈ blockVas va bs.length sl, a ∉ V) (hs : Sealed s h va sl bs) :
    Sealed t h va sl bs := by
  obtain ⟨hb, hl⟩ := List.append_subset.1 hw
  exact ⟨(e.hBytes p hv hb fun a ha => apart a (List.mem_append_left _ ha)).trans hs.bytes,
    (e.hBytes p hv hl fun a ha => apart a (List.mem_append_right _ ha)).trans hs.slot⟩

/-- A block written with its seal to a plain destination stands there sealed, and nothing else changes (R22). -/
theorem hWriteBlock_plain (p : PlainDest s h W) {va sl : Nat} {bs : List Byte} (hw : blockVas va bs.length sl ⊆ W)
    (nd : (blockVas va bs.length sl).Nodup) (size : bs.length ≤ 2 ^ 64) : ∃ t, hWriteBlock s h va bs sl = .ok t ∧
      Stored s t h (blockVas va bs.length sl) ∧ Sealed t h va sl bs := by
  obtain ⟨hb, hl⟩ := List.append_subset.1 hw
  have slot (v : Nat) : (leBytes 4 v).length = 4 := leBytes_length 4 v
  obtain ⟨t, e1, st1, b1⟩ := hWrite_plain p hb size
  have p1 := st1.plain p hb
  obtain ⟨u, e2, st2, b2⟩ := hWrite_plain (bs := leBytes 4 (blockSeal bs)) (va := sl) p1 (by rwa [slot]) (by rw [slot]; decide)
  rw [slot] at st2 b2
  refine ⟨u, by simp only [hWriteBlock, p.writable hl, e1, e2], st1.trans p hb st2, ?_, b2⟩
  exact (st2.hBytes p1 hl hb fun a ha hm => (List.disjoint_of_nodup_append nd) ha hm).trans b1
end
end Sys2Proof.Machine
end

section
/-! PROOFS. Blocks with their seals laid into a plain destination one after the other (R22, R23). -/

namespace Sys2Proof.Machine

/-- A block to be written: its address, that of its seal, and its bytes. -/
structure CBlock where
  va : Nat
  sl : Nat
  bytes : List Byte

/-- Addresses of a block and its seal. -/
def CBlock.vas (b : CBlock) : List Nat := blockVas b.va b.bytes.length b.sl

/-- Blocks that lie in W, apart from each other, each below 2^64 bytes. -/
structure Fits (W : List Nat) (B : List CBlock) : Prop where
  sub : B.flatMap CBlock.vas ⊆ W
  nodup : (B.flatMap CBlock.vas).Nodup
  size : ∀ b ∈ B, b.bytes.length ≤ 2 ^ 64

theorem Fits.sublist {W : List Nat} {B B' : List CBlock} (f : Fits W B) (h : B'.Sublist B) : Fits W B' :=
  ⟨fun _ ha => f.sub ((h.flatMap _).subset ha), f.nodup.sublist (h.flatMap _), fun b hb => f.size b (h.subset hb)⟩

section
variable {s t u : State} {h : Hh} {W : List Nat} {B B' : List CBlock}

/-- State t is s with the blocks of B written. -/
structure Laid (s t : State) (h : Hh) (B : List CBlock) : Prop where
  stored : Stored s t h (B.flatMap CBlock.vas)
  blocks : ∀ b ∈ B, Sealed t h b.va b.sl b.bytes

theorem Laid.plain (p : PlainDest s h W) (f : Fits W B) (e : Laid s t h B) : PlainDest t h W := e.stored.plain p f.sub
theorem Laid.refl (p : PlainDest s h W) : Laid s s h [] := ⟨.refl p, fun _ hb => absurd hb List.not_mem_nil⟩

/-- Blocks written after others leave those as they stand. -/
theorem Laid.append (p : PlainDest s h W) (f : Fits W (B ++ B')) (e : Laid s t h B) (e' : Laid t u h B') : Laid s u h (B ++ B') := by
  have fB := f.sublist (List.sublist_append_left B B')
  have fB' := f.sublist (List.sublist_append_right B B')
  refine ⟨List.flatMap_append ▸ e.stored.trans p fB.sub e'.stored, fun b hb => ?_⟩
  rcases List.mem_append.1 hb with hb | hb
  · have vas : b.vas ⊆ B.flatMap CBlock.vas := fun _ ha => List.mem_flatMap.2 ⟨b, hb, ha⟩
    have dis := List.disjoint_of_nodup_append (List.flatMap_append ▸ f.nodup)
    exact e'.stored.sealed (e.plain p fB) fB'.sub (fun _ ha => fB.sub (vas ha)) (fun _ ha hm => dis (vas ha) hm) (e.blocks b hb)
  · exact e'.blocks b hb

/-- One block. -/
theorem laid_block (p : PlainDest s h W) {b : CBlock} (f : Fits W [b]) :
    ∃ t, hWriteBlock s h b.va b.bytes b.sl = .ok t ∧ Laid s t h [b] := by
  have vas : [b].flatMap CBlock.vas = b.vas := by simp
  obtain ⟨sub, nd, size⟩ := f
  rw [vas] at sub nd
  obtain ⟨t, e, st, sd⟩ := hWriteBlock_plain p sub nd (size b List.mem_cons_self)
  exact ⟨t, e, vas ▸ st, fun _ hb => List.mem_singleton.1 hb ▸ sd⟩

/-- A loop of which turn j lays the blocks of `B j` lays them all; `emb` is the form in which the loop carries its state. -/
theorem laid_fold {β : Type} {emb : State → β} {step : β → Nat → β} {B : Nat → List CBlock} {n : Nat} (p : PlainDest s h W)
    (f : Fits W ((List.range n).flatMap B))
    (turn : ∀ j < n, ∀ t, PlainDest t h W → Fits W (B j) → ∃ u, step (emb t) j = emb u ∧ Laid t u h (B j)) :
    ∃ t, (List.range n).foldl step (emb s) = emb t ∧ Laid s t h ((List.range n).flatMap B) := by
  induction n with
  | zero => exact ⟨s, rfl, .refl p⟩
  | succ n ih =>
    have last : (List.range (n + 1)).flatMap B = (List.range n).flatMap B ++ B n := by simp [List.range_succ]
    rw [last] at f
    have fn := f.sublist (List.sublist_append_left _ _)
    obtain ⟨t, e, lt⟩ := ih fn fun j hj => turn j (by omega)
    obtain ⟨u, e', lu⟩ := turn n (by omega) t (lt.plain p fn) (f.sublist (List.sublist_append_right _ _))
    refine ⟨u, ?_, last ▸ lt.append p f lu⟩
    rw [List.range_succ, List.foldl_append, e, List.foldl_cons, List.foldl_nil, e']

end

/- The blocks of a row of words. -/

/-- Words of block j of a row. -/
def wordsOf (ws : List Nat) (j : Nat) : List Nat := (ws.drop (1024 * j)).take 1024
/-- The first nb blocks of a row of words at va, with their seals from sl on. -/
def rowBlocksOf (va sl : Nat) (ws : List Nat) (nb : Nat) : List CBlock :=
  (List.range nb).map fun j => ⟨va + 4096 * j, sl + 4 * j, unElems 4 (wordsOf ws j)⟩

theorem wordsOf_length {ws : List Nat} {n j : Nat} (h : ws.length = n) (hj : j < n / 1024) : (wordsOf ws j).length = 1024 := by
  simp only [wordsOf, List.length_take, List.length_drop]; omega
theorem unElems_wordsOf_length {ws : List Nat} {n j : Nat} (h : ws.length = n) (hj : j < n / 1024) :
    (unElems 4 (wordsOf ws j)).length = 4096 := by rw [unElems_length, wordsOf_length h hj]

theorem vaRange_chunks (va k nb : Nat) : vaRange va (k * nb) = (List.range nb).flatMap fun j => vaRange (va + k * j) k := by
  induction nb with
  | zero => simp [vaRange]
  | succ nb ih => rw [Nat.mul_succ, vaRange_append, ih, List.range_succ]; simp

/-- Blocks and seals one by one cover the range of the row and that of its seals. -/
theorem chunks_perm (va sl nb : Nat) : ((List.range nb).flatMap fun j => blockVas (va + 4096 * j) 4096 (sl + 4 * j)).Perm
    (vaRange va (4096 * nb) ++ vaRange sl (4 * nb)) := by
  rw [vaRange_chunks, vaRange_chunks]
  exact (List.flatMap_append_perm ..).symm

/-- The addresses of a row of whole blocks. -/
theorem rowBlocksOf_perm (va sl : Nat) {ws : List Nat} {n : Nat} (h : ws.length = n) :
    ((rowBlocksOf va sl ws (n / 1024)).flatMap CBlock.vas).Perm
      (vaRange va (4096 * (n / 1024)) ++ vaRange sl (4 * (n / 1024))) := by
  refine List.Perm.trans (List.Perm.of_eq ?_) (chunks_perm va sl (n / 1024))
  rw [rowBlocksOf, List.flatMap_map]
  refine List.flatMap_congr fun j hj => ?_
  rw [CBlock.vas, unElems_wordsOf_length h (List.mem_range.1 hj)]

/-- The blocks of a row joined are the row. -/
theorem flatMap_wordsOf (ws : List Nat) (m : Nat) : (List.range m).flatMap (wordsOf ws) = ws.take (1024 * m) := by
  induction m with
  | zero => simp
  | succ m ih => rw [List.range_succ, List.flatMap_append, ih]; simp [wordsOf, Nat.mul_succ, List.take_add]

end Sys2Proof.Machine
end

section
/-! PROOFS. Limbs and descriptors of a ciphertext in a plain destination: a limb written is read back, a result
descriptor holds the fields written (R32-R37, R192). -/

namespace Sys2Proof.Machine

/- Limbs. -/

/-- A loop that collects the bytes of one block a turn. -/
theorem foldl_collect {ε α : Type} {step : Except ε (List α) → Nat → Except ε (List α)} {g : Nat → List α} {n : Nat}
    (turn : ∀ j < n, ∀ bs, step (.ok bs) j = .ok (bs ++ g j)) :
    (List.range n).foldl step (.ok []) = .ok ((List.range n).flatMap g) := by
  induction n with
  | zero => rfl
  | succ n ih =>
    rw [List.range_succ, List.foldl_append, ih fun j hj => turn j (by omega), List.foldl_cons, List.foldl_nil,
      turn n (by omega), List.flatMap_append, List.flatMap_singleton]
/-- What such a loop has collected has the length of its turns. -/
theorem foldl_collect_length {ε α : Type} {step : Except ε (List α) → Nat → Except ε (List α)} {k n : Nat} {bs : List α}
    (turn : ∀ j acc cs, step acc j = .ok cs → ∃ as, acc = .ok as ∧ cs.length = as.length + k)
    (e : (List.range n).foldl step (.ok []) = .ok bs) : bs.length = k * n := by
  induction n generalizing bs with
  | zero => cases e; rfl
  | succ n ih =>
    rw [List.range_succ, List.foldl_append, List.foldl_cons, List.foldl_nil] at e
    obtain ⟨as, ha, hl⟩ := turn n _ _ e
    rw [hl, ih ha, Nat.mul_succ]

theorem hRead_length {s : State} {h : Hh} {agent : Bool} {acc : Acc} {va n : Nat} {bs : List Byte}
    (e : hRead s h agent acc va n = .ok bs) : bs.length = n := by
  simp only [hRead] at e
  split at e
  · simp at e
  · split at e
    · simp at e
    · cases e; simp
theorem hReadBlock_length {s : State} {h : Hh} {va n sl : Nat} {bs : List Byte} (e : hReadBlock s h va n sl = .ok bs) :
    bs.length = n := by
  unfold hReadBlock at e
  split at e
  · simp at e
  · rename_i hb
    split at e
    · simp at e
    · split at e
      · cases e; exact hRead_length hb
      · simp at e

/-- Words of one whole row: N is a multiple of 1024. -/
def wholeRing (n : Nat) : Prop := n = 1024 * (n / 1024)
theorem wholeRing_pow {k : Nat} (h : 10 ≤ k) : wholeRing (2 ^ k) :=
  (Nat.mul_div_cancel' (pow_dvd_pow 2 h : 2 ^ 10 ∣ 2 ^ k)).symm

section
variable {s t : State} {h : Hh} {n p i : Nat} {d : Desc} {W : List Nat}

/-- A limb whose blocks verify is read as its words. -/
theorem readLimb_ok {ws : List Nat} (hn : wholeRing n) (hl : ws.length = n)
    (blocks : ∀ j < n / 1024, hReadBlock s h (d.slotVa p i + 4096 * j) 4096 (d.slotSeal n p i + 4 * j) =
      .ok (unElems 4 (wordsOf ws j))) : readLimb s h n d p i = .ok (ws.map (· % 2 ^ 32)) := by
  have joined : (List.range (n / 1024)).flatMap (fun j => unElems 4 (wordsOf ws j)) = unElems 4 ws := by
    have : unElems 4 ((List.range (n / 1024)).flatMap (wordsOf ws)) = unElems 4 ws := by
      rw [flatMap_wordsOf, ← hn, List.take_of_length_le hl.le]
    rw [← this, unElems, List.flatMap_assoc]; rfl
  simp only [readLimb]
  rw [foldl_collect (g := fun j => unElems 4 (wordsOf ws j)) fun j hj bs => by rw [blocks j hj], joined]
  simp only [elems_unElems (e := 4) (by decide)]

/-- A limb that is read has N words. -/
theorem readLimb_length {ws : List Nat} (hn : wholeRing n) (e : readLimb s h n d p i = .ok ws) : ws.length = n := by
  simp only [readLimb] at e
  split at e
  · simp at e
  · rename_i bs hbs
    cases e
    have : bs.length = 4096 * (n / 1024) := foldl_collect_length (fun j acc cs hc => by
      split at hc
      · simp at hc
      · split at hc
        · rename_i hb
          cases hc
          exact ⟨_, rfl, by rw [List.length_append, hReadBlock_length hb]⟩
        all_goals simp at hc) hbs
    rw [elems, List.length_map, List.length_range, this]
    unfold wholeRing at hn
    show 4096 * (n / 1024) / 4 = n
    omega

/-- The blocks of slot i of part p that hold the words ws. -/
def slotBlocks (n : Nat) (d : Desc) (p i : Nat) (ws : List Nat) : List CBlock :=
  rowBlocksOf (d.slotVa p i) (d.slotSeal n p i) ws (n / 1024)

/-- A limb is laid block by block. -/
theorem writeLimb_laid {ws : List Nat} (p' : PlainDest s h W) (f : Fits W (slotBlocks n d p i ws)) :
    ∃ t, writeLimb s h n d p i ws = (t, none) ∧ Laid s t h (slotBlocks n d p i ws) := by
  have split : slotBlocks n d p i ws = (List.range (n / 1024)).flatMap fun j =>
      [⟨d.slotVa p i + 4096 * j, d.slotSeal n p i + 4 * j, unElems 4 (wordsOf ws j)⟩] := by
    rw [slotBlocks, rowBlocksOf, List.map_eq_flatMap]
  rw [split] at f ⊢
  refine laid_fold (emb := fun t => (t, (none : Option CtStop))) p' f fun j _ t pt fj => ?_
  obtain ⟨u, e, lu⟩ := laid_block pt fj
  simp only [wordsOf] at e
  exact ⟨u, by simp only [e], lu⟩

/-- A limb laid in a plain destination is read back. -/
theorem readLimb_laid {ws : List Nat} (hn : wholeRing n) (hl : ws.length = n) (p' : PlainDest t h W)
    (sub : (slotBlocks n d p i ws).flatMap CBlock.vas ⊆ W)
    (blocks : ∀ b ∈ slotBlocks n d p i ws, Sealed t h b.va b.sl b.bytes) :
    readLimb t h n d p i = .ok (ws.map (· % 2 ^ 32)) := by
  refine readLimb_ok hn hl fun j hj => ?_
  have mem : (⟨d.slotVa p i + 4096 * j, d.slotSeal n p i + 4 * j, unElems 4 (wordsOf ws j)⟩ : CBlock) ∈ slotBlocks n d p i ws :=
    List.mem_map.2 ⟨j, List.mem_range.2 hj, rfl⟩
  have read := hReadBlock_sealed p' (fun _ ha => sub (List.mem_flatMap.2 ⟨_, mem, ha⟩)) (blocks _ mem)
  simp only [unElems_wordsOf_length hl hj] at read
  exact read

end

/- Slots of a destination. -/

/-- The slots of a destination whose addresses are distinct lie apart from each other. -/
theorem fits_slots {W : List Nat} {d : Desc} {n slots m : Nat} {out : Nat → List Nat} (hn : wholeRing n)
    (sub : cipherVas d n slots m ⊆ W) (nd : (cipherVas d n slots m).Nodup) (hl : ∀ x < m, (out x).length = n) :
    Fits W ((List.range m).flatMap fun x => slotBlocks n d (x / slots) (x % slots) (out x)) := by
  have perm : (((List.range m).flatMap fun x => slotBlocks n d (x / slots) (x % slots) (out x)).flatMap CBlock.vas).Perm
      ((List.range m).flatMap fun x => vaRange (d.slotVa (x / slots) (x % slots)) (4 * n) ++
        vaRange (d.slotSeal n (x / slots) (x % slots)) (4 * (n / 1024))) := by
    rw [List.flatMap_assoc]
    refine List.Perm.flatMap_left _ fun x hx => ?_
    have := rowBlocksOf_perm (d.slotVa (x / slots) (x % slots)) (d.slotSeal n (x / slots) (x % slots)) (hl x (List.mem_range.1 hx))
    rwa [show 4096 * (n / 1024) = 4 * n by unfold wholeRing at hn; omega] at this
  refine ⟨fun a ha => sub (List.mem_append_right _ (perm.subset ha)), perm.nodup_iff.2 (List.nodup_append.1 nd).2.1, ?_⟩
  intro b hb
  obtain ⟨x, hx, hb⟩ := List.mem_flatMap.1 hb
  obtain ⟨j, hj, rfl⟩ := List.mem_map.1 hb
  rw [unElems_wordsOf_length (hl x (List.mem_range.1 hx)) (List.mem_range.1 hj)]; decide

/- Parts of a range. -/

section
variable {s t u : State} {h : Hh} {W : List Nat}

theorem hBytes_append (s : State) (h : Hh) (va n m : Nat) : hBytes s h va (n + m) = hBytes s h va n ++ hBytes s h (va + n) m := by
  rw [hBytes, vaRange_append, List.map_append]; rfl
/-- A part of the bytes of a range. -/
theorem hBytes_slice (s : State) (h : Hh) (va : Nat) {o k n : Nat} (hk : o + k ≤ n) :
    ((hBytes s h va n).drop o).take k = hBytes s h (va + o) k := by
  obtain ⟨m, rfl⟩ := Nat.exists_eq_add_of_le hk
  rw [hBytes_append, hBytes_append, List.append_assoc, List.drop_left' (by simp), List.take_left' (by simp)]
/-- A field of the bytes of a range. -/
theorem leAt_hBytes (s : State) (h : Hh) (va : Nat) {o k n : Nat} (hk : o + k ≤ n) :
    leAt (hBytes s h va n) o k = leNat (hBytes s h (va + o) k) := by
  simp only [leAt, slice, hBytes_slice s h va hk, hBytes_length, Nat.sub_self, List.replicate_zero, List.append_nil]
/-- Parts of a range that do not meet. -/
theorem vaRange_apart (va : Nat) {o k o' k' : Nat} (h : o + k ≤ o' ∨ o' + k' ≤ o) (hk : o + k ≤ 2 ^ 64) (hk' : o' + k' ≤ 2 ^ 64) :
    ∀ a ∈ vaRange (va + o) k, a ∉ vaRange (va + o') k' := by
  intro a ha ha'
  obtain ⟨i, hi, rfl⟩ := mem_vaRange.1 ha
  obtain ⟨j, hj, e⟩ := mem_vaRange.1 ha'
  omega

/- The descriptor. -/

theorem readDesc_plain (p : PlainDest s h W) {d : Nat} (hw : vaRange d 64 ⊆ W) : readDesc s h d = .ok ⟨d, hBytes s h d 64⟩ := by
  simp only [readDesc, hRead_plain p hw]

/-- LIVE is set again in flags from which it was cleared (R37). -/
theorem setBit_clrBit_zero {fl : Nat} (live : fl.testBit 0 = true) : setBit (clrBit fl 0 % 256) 0 = fl % 256 := by
  have odd : fl % 2 = 1 := by simpa [Nat.testBit_zero] using live
  have even : (fl - 1) % 256 % 2 = 0 := by omega
  have or_one (m : Nat) (hm : m % 2 = 0) : m ||| 1 = m + 1 := by
    obtain ⟨k, rfl⟩ : ∃ k, m = 2 * k := ⟨m / 2, by omega⟩
    simpa using (Nat.two_pow_add_eq_or_of_lt (i := 1) (b := 1) (by decide) k).symm
  rw [setBit, clrBit, if_pos live, pow_zero, or_one _ even]
  omega

/-- A write to a part of a range, and what it leaves of the range's other parts. -/
theorem hWrite_part (p : PlainDest s h W) {va n : Nat} (hw : vaRange va n ⊆ W) (size : n ≤ 2 ^ 64) (o : Nat) (bs : List Byte)
    {m : Nat} (hm : bs.length = m) (hk : o + m ≤ n) : ∃ t, hWrite s h true (va + o) bs = .ok t ∧
      Stored s t h (vaRange va n) ∧ PlainDest t h W ∧ hBytes t h (va + o) m = bs ∧
      ∀ o' k', o' + k' ≤ n → (o' + k' ≤ o ∨ o + m ≤ o') → hBytes t h (va + o') k' = hBytes s h (va + o') k' := by
  subst hm
  have sub {o k : Nat} (hk : o + k ≤ n) : vaRange (va + o) k ⊆ vaRange va n := vaRange_sub hk
  obtain ⟨t, e, st, b⟩ := hWrite_plain p (fun _ ha => hw (sub hk ha)) (by omega)
  refine ⟨t, e, st.mono (sub hk), st.plain p fun _ ha => hw (sub hk ha), b, fun o' k' hk' apart => ?_⟩
  exact st.hBytes p (fun _ ha => hw (sub hk ha)) (fun _ ha => hw (sub hk' ha)) (vaRange_apart va (by omega) (by omega) (by omega))

/-- The result's fields, in the order of the descriptor: those up to the domain, tag and scale, flags with LIVE. -/
theorem finishDesc_plain (p : PlainDest s h W) {d src : Desc} (hw : vaRange d.va 64 ⊆ W) (live : src.flags.testBit 0 = true)
    (level domain scale : Nat) : ∃ t, finishDesc s h d src level domain scale = .ok t ∧ Stored s t h (vaRange d.va 64) ∧
      hBytes t h (d.va + 0) 6 = leBytes 1 1 ++ leBytes 1 src.log2n ++ leBytes 1 level ++ leBytes 1 src.special ++
        leBytes 1 src.parts ++ leBytes 1 domain ∧
      hBytes t h (d.va + 8) 12 = leBytes 8 src.tag ++ leBytes 4 scale ∧
      hBytes t h (d.va + 0x14) 4 = leBytes 4 src.flags ∧
      hBytes t h (d.va + 6) 2 = hBytes s h (d.va + 6) 2 ∧ hBytes t h (d.va + 0x18) 40 = hBytes s h (d.va + 0x18) 40 := by
  set fl := clrBit src.flags 0 with hfl
  set head := leBytes 1 1 ++ leBytes 1 src.log2n ++ leBytes 1 level ++ leBytes 1 src.special ++ leBytes 1 src.parts ++
    leBytes 1 domain with hh
  set body := leBytes 8 src.tag ++ leBytes 4 scale ++ leBytes 4 fl with hb
  have head_length : head.length = 6 := by simp only [hh, List.length_append, leBytes_length]
  have body_length : body.length = 16 := by simp only [hb, List.length_append, leBytes_length]
  obtain ⟨t, e1, s1, p1, b1, k1⟩ := hWrite_part p hw (by decide) 0 head head_length (by decide)
  obtain ⟨u, e2, s2, p2, b2, k2⟩ := hWrite_part p1 hw (by decide) 8 body body_length (by decide)
  obtain ⟨v, e3, s3, p3, b3, k3⟩ := hWrite_part p2 hw (by decide) 0x14 (leBytes 1 (setBit (fl % 256) 0)) (leBytes_length ..) (by decide)
  have old (o k : Nat) (hk : o + k ≤ 64) (h1 : 6 ≤ o) (h2 : o + k ≤ 8 ∨ 24 ≤ o) : hBytes v h (d.va + o) k = hBytes s h (d.va + o) k := by
    rw [k3 _ _ hk (by omega), k2 _ _ hk (by omega), k1 _ _ hk (by omega)]
  have tail : hBytes u h (d.va + 8) 12 = leBytes 8 src.tag ++ leBytes 4 scale ∧ hBytes u h (d.va + 0x15) 3 = leBytes 3 (fl / 256) := by
    have cut {o k : Nat} (hk : o + k ≤ 16) := hBytes_slice u h (d.va + 8) hk
    simp only [b2] at cut
    exact ⟨(cut (o := 0) (k := 12) (by decide)).symm.trans (by simp [hb, leBytes]),
      (cut (o := 13) (k := 3) (by decide)).symm.trans (by simp [hb, leBytes])⟩
  refine ⟨v, ?_, ?_, ?_, ?_, ?_, old 6 2 (by decide) (by decide) (by decide), old 0x18 40 (by decide) (by decide) (by decide)⟩
  · simp only [finishDesc, ← hfl, ← hh, ← hb]
    simp only [Nat.add_zero] at e1
    simp only [e1, e2, e3]
  · exact ((s1.trans p hw (s2.trans p1 hw s3)).mono (by simp))
  · rw [k3 0 6 (by decide) (by decide), k2 0 6 (by decide) (by decide), b1]
  · rw [k3 8 12 (by decide) (by decide), tail.1]
  · rw [show (4 : Nat) = 1 + 3 from rfl, hBytes_append, b3, setBit_clrBit_zero live, Nat.add_assoc,
      k3 (0x14 + 1) 3 (by decide) (by decide), tail.2]
    have : fl / 256 = src.flags / 256 := by
      have odd : src.flags % 2 = 1 := by simpa [Nat.testBit_zero] using live
      rw [hfl, clrBit, if_pos live, pow_zero]; omega
    have low : BitVec.ofNat 8 (src.flags % 256) = BitVec.ofNat 8 src.flags := BitVec.eq_of_toNat_eq (by simp)
    rw [this]; simp [leBytes, low]

theorem leAt_lt (bs : List Byte) (o n : Nat) : leAt bs o n < 2 ^ (8 * n) := by
  have hl : (slice bs o n).length = n := by simp [slice]
  have lt := leNat_lt (slice bs o n)
  rwa [hl] at lt

/-- A descriptor whose bytes are those of a result, the layout being the destination's own (R36, R37). -/
theorem resultDesc_of_bytes (p : PlainDest t h W) {src dst old : Desc} (hw : vaRange dst.va 64 ⊆ W)
    (live : src.flags.testBit 0 = true) {level domain scale : Nat} (hl : level < 256) (hd : domain < 256) (hs : scale < 2 ^ 32)
    (head : hBytes t h (dst.va + 0) 6 = leBytes 1 1 ++ leBytes 1 src.log2n ++ leBytes 1 level ++ leBytes 1 src.special ++
        leBytes 1 src.parts ++ leBytes 1 domain)
    (body : hBytes t h (dst.va + 8) 12 = leBytes 8 src.tag ++ leBytes 4 scale)
    (flags : hBytes t h (dst.va + 0x14) 4 = leBytes 4 src.flags)
    (cap : hBytes t h (dst.va + 6) 2 = hBytes s h (dst.va + 6) 2)
    (lay : hBytes t h (dst.va + 0x18) 40 = hBytes s h (dst.va + 0x18) 40)
    (ho : old.raw = hBytes s h dst.va 64) (now : old.capacity = dst.capacity ∧ old.limbBase = dst.limbBase ∧
      old.stride = dst.stride ∧ old.sealBase = dst.sealBase) : resultDesc t h dst.va src dst level domain scale := by
  obtain ⟨ncap, nbase, nstride, nseal⟩ := now
  have one (x : Nat) : leBytes 1 x = [BitVec.ofNat 8 x] := rfl
  -- a field of the raw bytes, by the part that holds it
  have field {o k b n : Nat} {bs : List Byte} (part : hBytes t h (dst.va + b) n = bs) (ho : b ≤ o) (hk : o + k ≤ b + n)
      (h64 : o + k ≤ 64) : leAt (hBytes t h dst.va 64) o k = leNat ((bs.drop (o - b)).take k) := by
    rw [leAt_hBytes t h _ h64, ← part, hBytes_slice t h _ (by omega), Nat.add_assoc, Nat.add_sub_cancel' ho]
  have kept {o k b n : Nat} (part : hBytes t h (dst.va + b) n = hBytes s h (dst.va + b) n) (hb : b ≤ o) (hk : o + k ≤ b + n)
      (h64 : o + k ≤ 64) : leAt (hBytes t h dst.va 64) o k = leAt old.raw o k := by
    rw [field part hb hk h64, ho, leAt_hBytes s h _ h64, hBytes_slice s h _ (by omega), Nat.add_assoc, Nat.add_sub_cancel' hb]
  have byte (o : Nat) (ho : o + 1 ≤ 6) := field (o := o) (k := 1) head (Nat.zero_le o) (by omega) (by omega)
  have small {bs : List Byte} {o : Nat} : leAt bs o 1 % 256 = leAt bs o 1 := Nat.mod_eq_of_lt (leAt_lt bs o 1)
  have flag : leAt (hBytes t h dst.va 64) 0x14 4 = src.flags := by
    rw [field flags (Nat.le_refl _) (by decide) (by decide), Nat.sub_self, List.drop_zero,
      List.take_of_length_le (by rw [leBytes_length]), leNat_leBytes]
    exact Nat.mod_eq_of_lt (leAt_lt _ _ 4)
  refine ⟨⟨dst.va, hBytes t h dst.va 64⟩, readDesc_plain p hw, ?_, ?_, ?_, ?_, ?_, ?_, ?_, ?_, flag, ?_, ?_, ?_, ?_, ?_⟩
  · exact (byte 0 (by decide)).trans (by simp [one, leNat])
  · exact (byte 1 (by decide)).trans (by simp [one, leNat, Desc.log2n, small])
  · exact (byte 2 (by decide)).trans (by simp [one, leNat, Nat.mod_eq_of_lt hl])
  · exact (byte 3 (by decide)).trans (by simp [one, leNat, Desc.special, small])
  · exact (byte 4 (by decide)).trans (by simp [one, leNat, Desc.parts, small])
  · exact (byte 5 (by decide)).trans (by simp [one, leNat, Nat.mod_eq_of_lt hd])
  · refine (field (o := 8) (k := 8) body (Nat.le_refl _) (by decide) (by decide)).trans ?_
    rw [Nat.sub_self, List.drop_zero, List.take_left' (leBytes_length ..), leNat_leBytes]
    exact Nat.mod_eq_of_lt (leAt_lt _ _ 8)
  · refine (field (o := 0x10) (k := 4) body (by decide) (by decide) (by decide)).trans ?_
    rw [List.drop_left' (leBytes_length ..), List.take_of_length_le (by rw [leBytes_length]), leNat_leBytes]
    exact Nat.mod_eq_of_lt hs
  · exact (congrArg (Nat.testBit · 0) flag).trans live
  · exact (kept (o := 6) (k := 1) cap (Nat.le_refl _) (by decide) (by decide)).trans ncap
  · exact (kept (o := 0x18) (k := 8) lay (Nat.le_refl _) (by decide) (by decide)).trans nbase
  · exact (kept (o := 0x20) (k := 4) lay (by decide) (by decide) (by decide)).trans nstride
  · exact (kept (o := 0x28) (k := 8) lay (by decide) (by decide) (by decide)).trans nseal

/-- Steps 3 and 4 of R37 on a plain descriptor give the result's descriptor. -/
theorem finishDesc_result (p : PlainDest s h W) {src dst : Desc} (hw : vaRange dst.va 64 ⊆ W)
    (live : src.flags.testBit 0 = true) {level domain scale : Nat} (hl : level < 256) (hd : domain < 256) (hs : scale < 2 ^ 32)
    (now : ∃ r, readDesc s h dst.va = .ok r ∧ r.capacity = dst.capacity ∧ r.limbBase = dst.limbBase ∧ r.stride = dst.stride ∧
      r.sealBase = dst.sealBase) : ∃ t, finishDesc s h dst src level domain scale = .ok t ∧ Stored s t h (vaRange dst.va 64) ∧
      resultDesc t h dst.va src dst level domain scale := by
  obtain ⟨r, er, now⟩ := now
  obtain ⟨t, e, st, head, body, flags, cap, lay⟩ := finishDesc_plain p hw live level domain scale
  have hr : r.raw = hBytes s h dst.va 64 := by
    rw [readDesc_plain p hw] at er
    exact (congrArg Desc.raw (Except.ok.inj er)).symm
  exact ⟨t, e, st, resultDesc_of_bytes (st.plain p hw) hw live hl hd hs head body flags cap lay hr now⟩
end

end Sys2Proof.Machine
end

section
/-! PROOFS. The limbs and parts of a descriptor form: each is computed from its source and laid into the destination
(R192, R218). -/

namespace Sys2Proof.Machine

section
variable {s t u : State} {h : Hh} {W : List Nat}

/-- A recursion over positions, one unit of fuel a turn, of which turn x lays the blocks of `B x`: from `pos` it lays those
of all positions up to `stop`. -/
theorem laid_run {go : State → Nat → Nat → State × Nat × Option CtStop} {B : Nat → List CBlock} {stop : Nat}
    (done : ∀ t fuel, go t fuel stop = (t, stop, none))
    (turn : ∀ x < stop, ∀ t fuel, PlainDest t h W → Fits W (B x) →
      Stored s t h (((List.range x).flatMap B).flatMap CBlock.vas) → ∃ u, go t (fuel + 1) x = go u fuel (x + 1) ∧ Laid t u h (B x))
    (p : PlainDest s h W) (f : Fits W ((List.range stop).flatMap B)) {fuel pos : Nat} (hp : pos ≤ stop) (hf : stop - pos ≤ fuel) :
    ∃ u, go s fuel pos = (u, stop, none) ∧ Laid s u h ((List.range (stop - pos)).flatMap fun j => B (pos + j)) := by
  have within (k : Nat) (hk : k ≤ stop - pos) :
      ((List.range k).flatMap fun j => B (pos + j)).Sublist ((List.range (pos + k)).flatMap B) := by
    rw [List.range_add, List.flatMap_append, List.flatMap_map]
    exact List.sublist_append_right _ _
  have whole {k : Nat} (hk : k ≤ stop) : ((List.range k).flatMap B).Sublist ((List.range stop).flatMap B) := by
    obtain ⟨m, rfl⟩ := Nat.exists_eq_add_of_le hk
    rw [List.range_add, List.flatMap_append]
    exact List.sublist_append_left _ _
  have upTo (k : Nat) (hk : k ≤ stop - pos) :
      ∃ u, go s fuel pos = go u (fuel - k) (pos + k) ∧ Laid s u h ((List.range k).flatMap fun j => B (pos + j)) := by
    induction k with
    | zero => exact ⟨s, rfl, .refl p⟩
    | succ k ih =>
      obtain ⟨t, e, lt⟩ := ih (by omega)
      have fk := f.sublist ((within (k + 1) hk).trans (whole (by omega)))
      have last : ((List.range (k + 1)).flatMap fun j => B (pos + j)) =
          ((List.range k).flatMap fun j => B (pos + j)) ++ B (pos + k) := by simp [List.range_succ]
      rw [last] at fk ⊢
      have pt := lt.plain p (fk.sublist (List.sublist_append_left _ _))
      have st := lt.stored.mono (((within k (by omega)).flatMap CBlock.vas).subset)
      obtain ⟨u, e', lu⟩ := turn (pos + k) (by omega) t (fuel - (k + 1)) pt (fk.sublist (List.sublist_append_right _ _)) st
      refine ⟨u, ?_, lt.append p fk lu⟩
      rw [e, show fuel - k = fuel - (k + 1) + 1 by omega, e', Nat.add_assoc]
  obtain ⟨u, e, lu⟩ := upTo (stop - pos) (Nat.le_refl _)
  exact ⟨u, by rw [e, Nat.add_sub_cancel' hp, done], lu⟩

/- Forms that go limb by limb. -/

/-- The addresses of the first m slots in use. -/
def slotVas (d : Desc) (n slots m : Nat) : List Nat := (List.range m).flatMap fun x =>
  vaRange (d.slotVa (x / slots) (x % slots)) (4 * n) ++ vaRange (d.slotSeal n (x / slots) (x % slots)) (4 * (n / 1024))
/-- The addresses of a slot of a destination. -/
theorem slot_sub {d : Desc} {n slots m x : Nat} (hx : x < m) :
    vaRange (d.slotVa (x / slots) (x % slots)) (4 * n) ⊆ cipherVas d n slots m ∧
      vaRange (d.slotSeal n (x / slots) (x % slots)) (4 * (n / 1024)) ⊆ cipherVas d n slots m := by
  constructor <;> intro a ha <;> refine List.mem_append_right _ (List.mem_flatMap.2 ⟨x, List.mem_range.2 hx, ?_⟩)
  · exact List.mem_append_left _ ha
  · exact List.mem_append_right _ ha
/-- The pages of a slot of a plain destination are translated. -/
theorem limbFault_plain {d : Desc} {n slots m x : Nat} (p : PlainDest s h W) (sub : cipherVas d n slots m ⊆ W) (hx : x < m) :
    limbFault s h n d (x / slots) (x % slots) .write = none := by
  obtain ⟨hb, hs⟩ := slot_sub (d := d) (n := n) (slots := slots) hx
  simp only [limbFault, p.writable fun _ ha => sub (hb ha), p.writable fun _ ha => sub (hs ha)]

/-- Addresses of the blocks of the first slots. -/
theorem slots_vas_sub {d : Desc} {n slots m : Nat} {out : Nat → List Nat} (hn : wholeRing n) (hl : ∀ x < m, (out x).length = n) :
    ((List.range m).flatMap fun x => slotBlocks n d (x / slots) (x % slots) (out x)).flatMap CBlock.vas ⊆ slotVas d n slots m := by
  intro a ha
  rw [List.flatMap_assoc] at ha
  obtain ⟨x, hx, ha⟩ := List.mem_flatMap.1 ha
  have perm := rowBlocksOf_perm (d.slotVa (x / slots) (x % slots)) (d.slotSeal n (x / slots) (x % slots)) (hl x (List.mem_range.1 hx))
  rw [show 4096 * (n / 1024) = 4 * n by unfold wholeRing at hn; omega] at perm
  exact List.mem_flatMap.2 ⟨x, hx, perm.subset ha⟩
theorem slotVas_sub (d : Desc) (n slots m : Nat) : slotVas d n slots m ⊆ cipherVas d n slots m := List.subset_append_right _ _

variable {l : Lease} {src dst : Desc} {f : Nat → List Nat → List Nat} {limb : Nat → List Nat} {total : Nat}

/-- All limbs from `pos` on are transformed by `f` and laid into the destination (R192). -/
theorem ctLimbs_laid (hn : wholeRing (ringN l)) (ht : total = src.parts * src.slots) (p : PlainDest s h W)
    (sub : cipherVas dst (ringN l) src.slots total ⊆ W) (nd : (cipherVas dst (ringN l) src.slots total).Nodup)
    (hl : ∀ x < total, (f (src.slotPos l (x % src.slots)) (limb x)).length = ringN l)
    (source : ∀ x < total, ∀ t, sameBut s t h ((cipherVas dst (ringN l) src.slots x).map (cpaOf s h)) →
      limbFault t h (ringN l) src (x / src.slots) (x % src.slots) .read = none ∧
      readLimb t h (ringN l) src (x / src.slots) (x % src.slots) = .ok (limb x))
    {fuel pos : Nat} (hp : pos ≤ total) (hf : total - pos ≤ fuel) :
    ∃ u, ctLimbs s h l src dst f total fuel pos = (u, total, none) ∧ Laid s u h ((List.range (total - pos)).flatMap fun j =>
      slotBlocks (ringN l) dst ((pos + j) / src.slots) ((pos + j) % src.slots)
        (f (src.slotPos l ((pos + j) % src.slots)) (limb (pos + j)))) := by
  have fits := fits_slots hn sub nd hl
  refine laid_run (go := fun t fuel pos => ctLimbs t h l src dst f total fuel pos)
    (B := fun x => slotBlocks (ringN l) dst (x / src.slots) (x % src.slots) (f (src.slotPos l (x % src.slots)) (limb x)))
    (fun t fuel => ?_) (fun x hx t fuel pt fx st => ?_) p fits hp hf
  · cases fuel with
    | zero => rfl
    | succ fuel => simp only [ctLimbs, ge_iff_le, Nat.le_refl, true_or, if_true]
  · have upTo := st.mono (List.Subset.trans (slots_vas_sub hn fun y hy => hl y (by omega)) (slotVas_sub ..))
    obtain ⟨noFault, read⟩ := source x hx t (upTo.sameBut p)
    obtain ⟨u, e, lu⟩ := writeLimb_laid pt fx
    refine ⟨u, ?_, lu⟩
    have go : ¬ (x ≥ total ∨ x ≥ src.parts * src.slots) := by omega
    simp only [ctLimbs, go, if_false, noFault, limbFault_plain pt sub hx, read, e]

/- Forms that go part by part. -/

theorem range_mul_flatMap {α : Type} (a b : Nat) (F : Nat → List α) :
    (List.range (a * b)).flatMap F = (List.range a).flatMap fun p => (List.range b).flatMap fun j => F (p * b + j) := by
  induction a with
  | zero => simp
  | succ a ih => rw [Nat.succ_mul, List.range_add, List.flatMap_append, ih, List.range_succ, List.flatMap_append,
      List.flatMap_map, List.flatMap_singleton]

theorem slot_div {out p j : Nat} (hj : j < out) : (p * out + j) / out = p := by
  rw [Nat.mul_comm, Nat.mul_add_div (by omega), Nat.div_eq_of_lt hj, Nat.add_zero]
theorem slot_mod {out p j : Nat} (hj : j < out) : (p * out + j) % out = j := by
  rw [Nat.mul_comm, Nat.mul_add_mod, Nat.mod_eq_of_lt hj]

theorem slot_lt {parts out p j : Nat} (hp : p < parts) (hj : j < out) : p * out + j < parts * out :=
  calc p * out + j < (p + 1) * out := by rw [Nat.succ_mul]; omega
    _ ≤ parts * out := Nat.mul_le_mul_right _ hp

/-- The blocks of a part whose limbs are `limbs`. -/
def partBlocks (n : Nat) (d : Desc) (p out : Nat) (limbs : List (List Nat)) : List CBlock :=
  (List.range out).flatMap fun j => slotBlocks n d p j (limbs.getD j [])

/-- The parts of a destination, slot by slot. -/
theorem partBlocks_eq (n : Nat) (d : Desc) (parts out : Nat) (res : Nat → List (List Nat)) :
    (List.range parts).flatMap (fun p => partBlocks n d p out (res p)) = (List.range (parts * out)).flatMap fun x =>
      slotBlocks n d (x / out) (x % out) ((res (x / out)).getD (x % out) []) := by
  rw [range_mul_flatMap]
  refine List.flatMap_congr fun p _ => List.flatMap_congr fun j hj => ?_
  rw [slot_div (List.mem_range.1 hj), slot_mod (List.mem_range.1 hj)]

theorem writePart_laid {n p out : Nat} {d : Desc} {limbs : List (List Nat)} (pd : PlainDest s h W) (hl : limbs.length = out)
    (f : Fits W (partBlocks n d p out limbs)) :
    ∃ t, writePart s h n d p limbs = (t, none) ∧ Laid s t h (partBlocks n d p out limbs) := by
  subst hl
  rw [writePart, zip_range_eq [], List.foldl_map]
  refine laid_fold (emb := fun t => (t, (none : Option CtStop))) pd f fun j _ t pt fj => ?_
  obtain ⟨u, e, lu⟩ := writeLimb_laid pt fj
  exact ⟨u, e, lu⟩

theorem readPart_ok {n p cnt : Nat} {d : Desc} {g : Nat → List Nat} (read : ∀ i < cnt, readLimb s h n d p i = .ok (g i)) :
    readPart s h n d p cnt = .ok ((List.range cnt).map g) := by
  rw [readPart, foldl_collect (g := fun i => [g i]) fun i hi ls => by simp only [read i hi], List.map_eq_flatMap]

/-- All parts from `pos` on lose their last primes and are laid into the destination (R218). -/
theorem rescaleParts_laid {m out : Nat} {res : Nat → List (List Nat)} (ho : out = src.level - m) (hn : wholeRing (ringN l))
    (p : PlainDest s h W) (sub : cipherVas dst (ringN l) out (src.parts * out) ⊆ W)
    (nd : (cipherVas dst (ringN l) out (src.parts * out)).Nodup) (hr : ∀ q < src.parts, (res q).length = out)
    (hl : ∀ q < src.parts, ∀ j < out, ((res q).getD j []).length = ringN l)
    (source : ∀ q < src.parts, ∀ t, sameBut s t h ((cipherVas dst (ringN l) out (q * out)).map (cpaOf s h)) →
      partFault t h (ringN l) src q src.level .read = none ∧ ∃ limbs, readPart t h (ringN l) src q src.level = .ok limbs ∧
        (if m = 2 then dropOne l (dropOne l limbs) else dropOne l limbs) = res q)
    {fuel pos : Nat} (hp : pos ≤ src.parts) (hf : src.parts - pos ≤ fuel) :
    ∃ u, rescaleParts s h l src dst m fuel pos = (u, src.parts, none) ∧ Laid s u h ((List.range (src.parts - pos)).flatMap fun j =>
      partBlocks (ringN l) dst (pos + j) out (res (pos + j))) := by
  have slot {x : Nat} (hx : x < src.parts * out) : ((res (x / out)).getD (x % out) []).length = ringN l := by
    have ho : 0 < out := Nat.pos_of_mul_pos_left (Nat.zero_lt_of_lt hx)
    exact hl _ ((Nat.div_lt_iff_lt_mul ho).2 hx) _ (Nat.mod_lt _ ho)
  have fits := fits_slots (out := fun x => (res (x / out)).getD (x % out) []) hn sub nd fun x hx => slot hx
  rw [← partBlocks_eq] at fits
  refine laid_run (go := fun t fuel pos => rescaleParts t h l src dst m fuel pos)
    (B := fun q => partBlocks (ringN l) dst q out (res q)) (fun t fuel => ?_) (fun q hq t fuel pt fq st => ?_) p fits hp hf
  · cases fuel with
    | zero => rfl
    | succ fuel => simp only [rescaleParts, ge_iff_le, Nat.le_refl, if_true]
  · have hqo : q * out ≤ src.parts * out := Nat.mul_le_mul_right _ hq.le
    have upTo : Stored s t h (cipherVas dst (ringN l) out (q * out)) := by
      rw [partBlocks_eq] at st
      exact st.mono (List.Subset.trans (slots_vas_sub hn fun x hx => slot (by omega)) (slotVas_sub ..))
    obtain ⟨noFault, limbs, read, same⟩ := source q hq t (upTo.sameBut p)
    obtain ⟨u, e, lu⟩ := writePart_laid pt (hr q hq) fq
    have dest : partFault t h (ringN l) dst q (src.level - m) .write = none := by
      rw [← ho, partFault, List.findSome?_eq_none_iff]
      intro j hj
      have hj := List.mem_range.1 hj
      have := limbFault_plain (x := q * out + j) pt sub (slot_lt hq hj)
      rwa [slot_div hj, slot_mod hj] at this
    refine ⟨u, ?_, lu⟩
    have go : ¬ q ≥ src.parts := by omega
    simp only [rescaleParts, go, if_false, noFault, dest, read, same, e]
end

end Sys2Proof.Machine
end

section
/-! PROOFS. A command at work on a cluster: which command its row takes, what the end of a command makes of its queue, and
what a command on household memory leaves of the package (R134, R192). -/

namespace Sys2Proof.Machine

/- Queues. -/

section
variable {s t u v : State} {k : Gl} {i : Site} {h : Hh} {en : Fin 5} {e : Entry}

theorem liveSet_congr (hm : t.map = s.map) (hp : t.pw = s.pw)
    (hs : ∀ j, (siteAt t j).dead = (siteAt s j).dead ∧ (siteAt t j).served = (siteAt s j).served) (k : Gl) :
    liveSet t k = liveSet s k := by
  simp only [liveSet, siteOf, hm, hp]
  split
  · rename_i j _
    rw [(hs j).1, (hs j).2]
  · rfl
theorem liveSet_upSite {f : SiteSt → SiteSt} (hf : ∀ c, (f c).dead = c.dead ∧ (f c).served = c.served) :
    liveSet (upSite s i f) k = liveSet s k :=
  liveSet_congr (s := s) (t := upSite s i f) rfl rfl (fun j => by rw [siteAt_upSite]; split <;> simp [hf]) k
@[simp] theorem liveSet_upSet (s : State) (i : Site) (h : Hh) (f : HSet → HSet) (k : Gl) :
    liveSet (upSet s i h f) k = liveSet s k := liveSet_upSite fun _ => ⟨rfl, rfl⟩

theorem qEnts_cluster (live : liveSet s k = some (i, h)) (en : Fin 5) :
    qEnts s (.cluster k en) = ((setAt s i h).queues.get en).ents := by simp only [qEnts, live]

/-- An update of one command, as an update of its household's set. -/
theorem upEntry_cluster (live : liveSet s k = some (i, h)) (en : Fin 5) (e : Entry) (f : Entry → Entry) :
    upEntry s (.cluster k en) e.hh e.seq f = upSet s i h fun t => { t with
      queues := vmod t.queues en fun x => { x with ents := changed x.ents e f } } := by
  have same (es : List Entry) : (es.map fun x => if x.hh == e.hh && x.seq == e.seq then f x else x) = changed es e f := by
    simp [changed]
  simp only [upEntry, upEnts, live, same]
theorem qEnts_upEntry (live : liveSet s k = some (i, h)) (en : Fin 5) (e : Entry) (f : Entry → Entry) :
    qEnts (upEntry s (.cluster k en) e.hh e.seq f) (.cluster k en) = changed (qEnts s (.cluster k en)) e f := by
  rw [upEntry_cluster live, qEnts_cluster (h := h) (i := i) (by simpa using live), qEnts_cluster live, setAt_upSet]
  simp

/-- A command ends with a status that names no operand. -/
theorem endEntry_plain (s : State) (q : QueueId) (e : Entry) (st : Nat) :
    endEntry s q e st 0 0 = upEntry s q e.hh e.seq fun x => overWith x st 0 0 := by
  simp [endEntry, overWith]

/-- A command at work is the one that its row acts on. -/
theorem engineRow_atWork {opcode : Nat} (w : AtWork s k en opcode i e) (f : Site → Entry → State → State) :
    engineRow s k en opcode f = tickFresh (f i e s) := by
  obtain ⟨live, ⟨reset, frozen, sw⟩, run, untimed, -⟩ := w
  have check : checkFails s i e = false := by simp [checkFails, untimed]
  simp only [engineRow, live, reset, frozen, sw, Bool.false_and, Bool.or_self, Bool.false_eq_true, if_false, run, check]

/- What a command on household memory leaves. -/

/-- A state apart from the bytes of the cellar, the counter of free values and site i. -/
def offSite (s : State) (i : Site) : State := { upSite (offCellar s) i fun _ => SiteSt.init with fresh := 0 }

/-- State t is s but for the bytes and poison of the cellar and site i, where nothing changes but registers and streams. -/
structure RegsOnly (s t : State) (i : Site) : Prop where
  rest : offSite t i = offSite s i
  fresh : t.fresh = s.fresh
  sets : (siteAt t i).sets = (siteAt s i).sets
  pantry : samePantry s t i
  acc : sameAcc s t i
  live : (siteAt t i).dead = (siteAt s i).dead ∧ (siteAt t i).served = (siteAt s i).served

theorem RegsOnly.refl (s : State) (i : Site) : RegsOnly s s i := ⟨rfl, rfl, rfl, ⟨rfl, rfl⟩, rfl, rfl, rfl⟩
theorem RegsOnly.trans (a : RegsOnly s t i) (b : RegsOnly t u i) : RegsOnly s u i :=
  ⟨b.rest.trans a.rest, b.fresh.trans a.fresh, b.sets.trans a.sets, ⟨b.pantry.1.trans a.pantry.1, b.pantry.2.trans a.pantry.2⟩,
    b.acc.trans a.acc, b.live.1.trans a.live.1, b.live.2.trans a.live.2⟩
theorem offSite_upSite (s : State) (i : Site) (f : SiteSt → SiteSt) : offSite (upSite s i f) i = offSite s i := by
  simp [offSite, offCellar, upSite, vmod_vmod, Function.comp_def]
theorem RegsOnly.upSite (s : State) (i : Site) {f : SiteSt → SiteSt} (hf : ∀ c, (f c).sets = c.sets ∧ (f c).pantry = c.pantry ∧
    (f c).seals = c.seals ∧ (f c).acc = c.acc ∧ (f c).dead = c.dead ∧ (f c).served = c.served) :
    RegsOnly s (upSite s i f) i := by
  obtain ⟨h1, h2, h3, h4, h5, h6⟩ := hf (siteAt s i)
  refine ⟨offSite_upSite s i f, rfl, ?_, ⟨?_, ?_⟩, ?_, ?_, ?_⟩ <;> simp only [sameAcc, siteAt_upSite, if_true] <;> assumption
theorem RegsOnly.of_offCellar (hc : offCellar t = offCellar s) (i : Site) : RegsOnly s t i := by
  have hs : siteAt t i = siteAt s i := show siteAt (offCellar t) i = siteAt (offCellar s) i by rw [hc]
  refine ⟨by rw [offSite, offSite, hc], show (offCellar t).fresh = (offCellar s).fresh by rw [hc], ?_, ⟨?_, ?_⟩, ?_, ?_, ?_⟩ <;>
    simp only [sameAcc, hs]

theorem offSite_siteAt (e : offSite t i = offSite s i) {j : Site} (hj : j ≠ i) : siteAt t j = siteAt s j := by
  have := congrArg (siteAt · j) e
  simpa [offSite, offCellar, siteAt, upSite, hj.symm] using this
theorem RegsOnly.liveSet (r : RegsOnly s t i) (k : Gl) : liveSet t k = liveSet s k := by
  have hm : t.map = s.map := show (offSite t i).map = (offSite s i).map by rw [r.rest]
  have hp : t.pw = s.pw := show (offSite t i).pw = (offSite s i).pw by rw [r.rest]
  refine liveSet_congr hm hp (fun j => ?_) k
  by_cases hj : j = i
  · subst hj; exact r.live
  · rw [offSite_siteAt r.rest hj]; exact ⟨rfl, rfl⟩

/-- A state that differs off site i in the cellar's bytes and the counter of free values. -/
theorem package_of_offSite (e : offSite t i = offSite s i) : t = { upSite s i fun _ => siteAt t i with
    fresh := t.fresh, cellar := { s.cellar with mem := t.cellar.mem, poison := t.cellar.poison } } := by
  have self (c : State) : c = { upSite (offSite c i) i fun _ => siteAt c i with
      fresh := c.fresh, cellar := { (offSite c i).cellar with mem := c.cellar.mem, poison := c.cellar.poison } } := by
    have : vmod (vmod c.sites i fun _ => SiteSt.init) i (fun _ => siteAt c i) = c.sites := by
      rw [vmod_vmod]; exact Vector.set_getElem_self _
    simp [offSite, offCellar, upSite, this]
  have back : upSite (offSite s i) i (fun _ => siteAt t i) = offCellar { upSite s i fun _ => siteAt t i with fresh := 0 } := by
    simp [offSite, offCellar, upSite, vmod_vmod, Function.comp_def]
  calc t = { upSite (offSite t i) i fun _ => siteAt t i with
          fresh := t.fresh, cellar := { (offSite t i).cellar with mem := t.cellar.mem, poison := t.cellar.poison } } := self t
    _ = _ := by rw [e, back]; rfl

/-- The end with OK of a command at work that reads no pantry. -/
theorem endOk_atWork (live : Machine.liveSet v k = some (i, e.hh)) : endOk v (.cluster k en) i e [] =
    upSet v i e.hh fun t => { noteReads t [] with
      queues := vmod t.queues en fun x => { x with ents := changed x.ents e fun x => overWith x stOk 0 0 } } := by
  have lu : Machine.liveSet (upSet v i e.hh fun t => noteReads t []) k = some (i, e.hh) := (liveSet_upSet ..).trans live
  rw [endOk, endEntry_plain, upEntry_cluster lu]
  simp only [upSet, upSite, vmod_vmod, Function.comp_def]
  rfl

/-- The end with OK of a command on household memory. -/
theorem ranCellar_endOk (live : Machine.liveSet s k = some (i, e.hh)) (r : RegsOnly s v i) {A : List Nat}
    (bytes : ∀ a, a ∉ A → cGet v a = cGet s a ∧ poisoned v a = poisoned s a) :
    RanCellar s (tickFresh (endOk v (.cluster k en) i e [])) k en i e A := by
  have lv : Machine.liveSet v k = some (i, e.hh) := (r.liveSet k).trans live
  have sets : setAt v i = setAt s i := by funext g; rw [setAt, r.sets, setAt]
  have ents : qEnts (endOk v (.cluster k en) i e []) (.cluster k en) =
      changed (qEnts s (.cluster k en)) e fun x => overWith x stOk 0 0 := by
    rw [endOk_atWork lv, qEnts_cluster (h := e.hh) (i := i) (by simpa using lv), setAt_upSet, qEnts_cluster live]
    simp [sets]
  have rest : offSite (tickFresh (endOk v (.cluster k en) i e [])) i = offSite s i := by
    rw [endOk_atWork lv]
    exact (offSite_upSite v i _).trans r.rest
  refine ⟨?_, fun a ha => ?_, ⟨id, fun x => ⟨x.held, x.pos, rfl⟩, ents⟩, fun g hg => ?_, ?_⟩
  · have fresh : (tickFresh (endOk v (.cluster k en) i e [])).fresh = s.fresh + 1 := by
      rw [endOk_atWork lv]
      exact congrArg (· + 1) r.fresh
    rw [← fresh]
    exact package_of_offSite rest
  · rw [endOk_atWork lv]
    exact bytes a ha
  · rw [endOk_atWork lv]
    show setAt (upSet v i e.hh _) i g = setAt s i g
    rw [setAt_upSet, if_neg (by tauto), sets]
  · rw [endOk_atWork lv]
    simpa [samePantry, sameAcc] using And.intro r.pantry r.acc
end

end Sys2Proof.Machine
end

section
/-! PROOFS. How the descriptor forms end: all that is asked for has been read, every limb of the result is laid, and the
descriptor and the command are finished (R36, R37, R192, R218). -/

namespace Sys2Proof.Machine

section
variable {s t u v a : State} {h : Hh} {W V : List Nat} {k : Gl} {i : Site} {en : Fin 5} {e : Entry} {B : List CBlock}

/- States of the same memory. -/

/-- A plain destination under the same memory of households. -/
theorem PlainDest.same (p : PlainDest s h W) (hc : t.cellar = s.cellar) (hh : t.hhs = s.hhs) (sel : t.selBase = s.selBase) :
    PlainDest t h W ∧ cpaOf t h = cpaOf s h ∧ hBytes t h = hBytes s h := by
  have at' : hhAt t h = hhAt s h := by rw [hhAt, hhAt, hh]
  have get (b : Nat) : cGet t b = cGet s b := by simp only [cGet, place, hc]
  obtain ⟨p', x⟩ := p.carry (t := t) ⟨by rw [at'], by rw [at'], sel, hc ▸ p.mem.2,
    fun b _ => ⟨get b, by simp only [poisoned, place, hc]⟩⟩
    (by rw [hc]) (hc ▸ p.mem.1)
  have cpa := cpaOf_congr x
  refine ⟨p', cpa, ?_⟩
  funext va n
  exact List.map_congr_left fun b _ => by rw [hByte, hByte, cpa, get]

/-- State t is s but for registers and streams of site i. -/
structure Noted (s t : State) (i : Site) : Prop extends RegsOnly s t i where
  cellar : t.cellar = s.cellar

theorem Noted.refl (s : State) (i : Site) : Noted s s i := ⟨.refl s i, rfl⟩
theorem Noted.upSite (s : State) (i : Site) {f : SiteSt → SiteSt} (hf : ∀ c, (f c).sets = c.sets ∧ (f c).pantry = c.pantry ∧
    (f c).seals = c.seals ∧ (f c).acc = c.acc ∧ (f c).dead = c.dead ∧ (f c).served = c.served) : Noted s (upSite s i f) i :=
  ⟨.upSite s i hf, rfl⟩
theorem RegsOnly.hhs (r : RegsOnly s t i) : t.hhs = s.hhs := show (offSite t i).hhs = (offSite s i).hhs by rw [r.rest]
theorem RegsOnly.selBase (r : RegsOnly s t i) : t.selBase = s.selBase :=
  show (offSite t i).selBase = (offSite s i).selBase by rw [r.rest]
theorem Noted.same (r : Noted s t i) (p : PlainDest s h W) : PlainDest t h W ∧ cpaOf t h = cpaOf s h ∧ hBytes t h = hBytes s h :=
  p.same r.cellar r.hhs r.selBase
theorem Stored.regs (e : Stored s t h V) (i : Site) : RegsOnly s t i := .of_offCellar e.frame i

theorem readDesc_hBytes (p : PlainDest s h W) (q : PlainDest t h W) {d : Nat} (hw : vaRange d 64 ⊆ W)
    (eq : hBytes t h d 64 = hBytes s h d 64) : readDesc t h d = readDesc s h d := by
  rw [readDesc_plain p hw, readDesc_plain q hw, eq]

/-- A form that has laid the blocks of its result finishes the descriptor and ends with OK: the blocks stand sealed, and
only its destination and site i have changed. -/
theorem form_ends {src dst : Desc} {level domain scale : Nat} (live : liveSet s k = some (i, e.hh)) (ra : Noted s a i)
    (p : PlainDest s e.hh W) (f : Fits W B) (lu : Laid a u e.hh B) (ru : Noted u v i)
    (hw : vaRange dst.va 64 ⊆ W) (apart : ∀ x ∈ vaRange dst.va 64, x ∉ B.flatMap CBlock.vas) (on : src.flags.testBit 0 = true)
    (hl : level < 256) (hd : domain < 256) (hs : scale < 2 ^ 32) (now : ∃ r, readDesc s e.hh dst.va = .ok r ∧
      r.capacity = dst.capacity ∧ r.limbBase = dst.limbBase ∧ r.stride = dst.stride ∧ r.sealBase = dst.sealBase) :
    ∃ z, finishDesc v e.hh dst src level domain scale = .ok z ∧ ∃ t, t = tickFresh (endOk z (.cluster k en) i e []) ∧
      RanCellar s t k en i e (W.map (cpaOf s e.hh)) ∧ resultDesc t e.hh dst.va src dst level domain scale ∧
      PlainDest t e.hh W ∧ ∀ b ∈ B, Sealed t e.hh b.va b.sl b.bytes := by
  obtain ⟨pa, cpa_a, bytes_a⟩ := ra.same p
  have pu := lu.plain pa f
  have cpa_u := lu.stored.cpaOf pa f.sub
  obtain ⟨pv, cpa_v, bytes_v⟩ := ru.same pu
  have desc_v : readDesc v e.hh dst.va = readDesc s e.hh dst.va := by
    refine readDesc_hBytes p pv hw ?_
    rw [bytes_v, lu.stored.hBytes pa f.sub hw apart, bytes_a]
  obtain ⟨z, ez, sz, rz⟩ := finishDesc_result pv hw on hl hd hs (desc_v ▸ now)
  have pz := sz.plain pv hw
  have rv : RegsOnly s v i := (ra.toRegsOnly.trans (lu.stored.regs i)).trans ru.toRegsOnly
  have regs : RegsOnly s z i := rv.trans (sz.regs i)
  refine ⟨z, ez, _, rfl, ranCellar_endOk live regs fun b hb => ?_, ?_⟩
  · have hb' {X : List Nat} (hX : X ⊆ W) : b ∉ X.map (cpaOf s e.hh) := fun hm => hb (List.map_subset _ hX hm)
    have cpa_va : cpaOf v e.hh = cpaOf s e.hh := cpa_v.trans (cpa_u.trans cpa_a)
    have noted {x y : State} (r : Noted x y i) : cGet y b = cGet x b ∧ poisoned y b = poisoned x b := by
      simp only [cGet, poisoned, place, r.cellar, and_self]
    exact ⟨((sz.off b (cpa_va ▸ hb' hw)).trans (noted ru).1).trans ((lu.stored.off b (cpa_a ▸ hb' f.sub)).trans (noted ra).1),
      ((sz.poisoned b).trans (noted ru).2).trans ((lu.stored.poisoned b).trans (noted ra).2)⟩
  · rw [endOk_atWork ((regs.liveSet k).trans live)]
    obtain ⟨pt, -, bytes_t⟩ := pz.same (t := tickFresh (upSet z i e.hh _)) rfl rfl rfl
    have desc_t := readDesc_hBytes pz pt hw (by rw [bytes_t])
    refine ⟨by rw [resultDesc, desc_t]; exact rz, pt, fun b hb => ?_⟩
    have vas : b.vas ⊆ B.flatMap CBlock.vas := fun _ ha => List.mem_flatMap.2 ⟨b, hb, ha⟩
    obtain ⟨hb1, hb2⟩ := lu.blocks b hb
    obtain ⟨z1, z2⟩ := sz.sealed pv hw (fun _ ha => f.sub (vas ha)) (fun x hx hm => apart x hm (vas hx))
      (⟨bytes_v ▸ hb1, bytes_v ▸ hb2⟩ : Sealed v e.hh b.va b.sl b.bytes)
    exact ⟨bytes_t ▸ z1, bytes_t ▸ z2⟩

end
end Sys2Proof.Machine
end

section
/-! PROOFS. The descriptor forms once all they ask for has been read (R192, R196, R197, R218). -/

namespace Sys2Proof.Machine

/- What the forms share. -/

/-- All blocks from b on are ready. -/
theorem readyRun_all {ok : Nat → Bool} {n b : Nat} (h : ∀ j < n, ok j = true) : readyRun ok n b = n - b := by
  rw [readyRun, List.takeWhile_eq_self_iff.2 fun j hj => h _ (by have := List.mem_range.1 hj; omega), List.length_range]

@[simp] theorem twRun_clean (had : Bool) (lo hi : Nat) : twRun .clean had lo hi = ⟨none, none⟩ := by
  cases had <;> rfl

section
variable {s t u v a : State} {h : Hh} {W V : List Nat} {k : Gl} {i : Site} {en : Fin 5} {e : Entry} {l : Lease} {src dst : Desc}

/-- A form that goes on has the descriptors it holds. -/
theorem ctBegin_held {q : QueueId} (held : e.held = src.raw ++ dst.raw) (hs : src.raw.length = 64) (hd : dst.raw.length = 64)
    (chk : Desc → Desc → Option Nat) (feed : State → Desc → Desc → Feed) :
    ctBegin s q e src.va dst.va chk feed = .ok (s, src, dst) := by
  simp only [ctBegin, held, List.length_append, hs, hd, if_true, List.take_left' hs, List.drop_left' hs]

theorem ringN_whole (h10 : 10 ≤ l.log2n) : wholeRing (ringN l) := wholeRing_pow h10
@[simp] theorem transformLimb_length (inverse : Bool) (pos : Nat) (ws : List Nat) :
    (transformLimb l inverse pos ws).length = ringN l := by
  cases inverse <;> simp [transformLimb, ntt, intt, ringN]
@[simp] theorem autoLimb_length (eval : Bool) (g pos : Nat) (ws : List Nat) : (autoLimb l eval g pos ws).length = ringN l := by
  cases eval <;> simp [autoLimb, autoEval, autoCoeff, ringN]

/-- What the check of a source says about its descriptor. -/
theorem sourceCheck_none {domain : Option Nat} (h : sourceCheck l src domain = none) :
    src.flags.testBit 0 = true ∧ src.countsOk l = true ∧ src.addrOk l = true := by
  simp only [sourceCheck] at h
  split_ifs at h
  simp_all

/-- A register of site i is noted before a form goes on. -/
theorem CipherReady.noted {feed : Feed} {outSlots total cnt : Nat} {before : Nat → Nat} {limb : Nat → List Nat} {a d : Nat}
    {q : QueueId} {t : State} (r : CipherReady s q e l a d src dst feed outSlots total cnt before limb) (rt : Noted s t i) :
    PlainDest t e.hh (cipherVas dst (ringN l) outSlots total) ∧ ∀ x < cnt, ∀ u, sameBut t u e.hh
      ((cipherVas dst (ringN l) outSlots (before x)).map (cpaOf t e.hh)) →
    limbFault u e.hh (ringN l) src (x / src.slots) (x % src.slots) .read = none ∧
    readLimb u e.hh (ringN l) src (x / src.slots) (x % src.slots) = .ok (limb x) := by
  obtain ⟨p, cpa, -⟩ := rt.same r.dest
  have hh : hhAt t e.hh = hhAt s e.hh := by rw [hhAt, hhAt, rt.hhs]
  refine ⟨p, fun x hx u su => r.limbs x hx u ?_⟩
  obtain ⟨tr, tx, sel, ret, off⟩ := su
  rw [hh] at tr tx
  refine ⟨tr, tx, sel.trans rt.selBase, ret, fun b hb => ?_⟩
  have noted : cGet t b = cGet s b ∧ poisoned t b = poisoned s b := by simp only [cGet, poisoned, place, rt.cellar, and_self]
  obtain ⟨g, c⟩ := off b (cpa ▸ hb)
  exact ⟨g.trans noted.1, c.trans noted.2⟩

/-- A form that has laid all limbs of its result from `pos` on finishes the descriptor and ends with OK: those limbs are
read back, and only its destination and site i have changed. -/
theorem slots_end {out : Nat → List Nat} {n outSlots total pos level domain scale : Nat} (live : liveSet s k = some (i, e.hh))
    (rt : Noted s t i) (p : PlainDest s e.hh (cipherVas dst n outSlots total)) (hn : wholeRing n)
    (lens : ∀ x < total, (out x).length = n) (hp : pos ≤ total)
    (lu : Laid t u e.hh ((List.range (total - pos)).flatMap fun j =>
      slotBlocks n dst ((pos + j) / outSlots) ((pos + j) % outSlots) (out (pos + j))))
    (ru : Noted u v i) (on : src.flags.testBit 0 = true) (hl : level < 256) (hd : domain < 256) (hs : scale < 2 ^ 32)
    (now : ∃ r, readDesc s e.hh dst.va = .ok r ∧ r.capacity = dst.capacity ∧ r.limbBase = dst.limbBase ∧
      r.stride = dst.stride ∧ r.sealBase = dst.sealBase) :
    ∃ z, finishDesc v e.hh dst src level domain scale = .ok z ∧ ∃ y, y = tickFresh (endOk z (.cluster k en) i e []) ∧
      RanCellar s y k en i e ((cipherVas dst n outSlots total).map (cpaOf s e.hh)) ∧
      resultDesc y e.hh dst.va src dst level domain scale ∧
      ∀ x, pos ≤ x → x < total → readLimb y e.hh n dst (x / outSlots) (x % outSlots) = .ok ((out x).map (· % 2 ^ 32)) := by
  have nd := p.nodupVas
  have all : ((List.range (total - pos)).flatMap fun j => slotBlocks n dst ((pos + j) / outSlots) ((pos + j) % outSlots)
      (out (pos + j))).Sublist ((List.range total).flatMap fun x => slotBlocks n dst (x / outSlots) (x % outSlots) (out x)) := by
    obtain ⟨m, rfl⟩ := Nat.exists_eq_add_of_le hp
    rw [Nat.add_sub_cancel_left, List.range_add, List.flatMap_append, List.flatMap_map]
    exact List.sublist_append_right _ _
  have fits := (fits_slots hn (List.Subset.refl _) nd lens).sublist all
  have apart : ∀ x ∈ vaRange dst.va 64, x ∉ ((List.range (total - pos)).flatMap fun j => slotBlocks n dst
      ((pos + j) / outSlots) ((pos + j) % outSlots) (out (pos + j))).flatMap CBlock.vas := fun x hx hm =>
    List.disjoint_of_nodup_append nd hx (slots_vas_sub hn lens ((all.flatMap CBlock.vas).subset hm))
  obtain ⟨z, ez, y, ey, ran, desc, py, sealed⟩ := form_ends (en := en) live rt p fits lu ru (List.subset_append_left _ _) apart on
    hl hd hs now
  refine ⟨z, ez, y, ey, ran, desc, fun x hx hxt => ?_⟩
  have mem : ∀ b ∈ slotBlocks n dst (x / outSlots) (x % outSlots) (out x), b ∈ (List.range (total - pos)).flatMap
      fun j => slotBlocks n dst ((pos + j) / outSlots) ((pos + j) % outSlots) (out (pos + j)) := fun b hb =>
    List.mem_flatMap.2 ⟨x - pos, List.mem_range.2 (by omega), by rwa [Nat.add_sub_cancel' hx]⟩
  refine readLimb_laid hn (lens x hxt) py (fun c hc => ?_) fun b hb => sealed b (mem b hb)
  obtain ⟨b, hb, hc⟩ := List.mem_flatMap.1 hc
  exact fits.sub (List.mem_flatMap.2 ⟨b, mem b hb, hc⟩)

/-- A form that goes limb by limb, once all it asks for has been read. State t is s with the registers that are noted
before the limbs, `note` notes those after them. -/
theorem limbForm_ends {f : Nat → List Nat → List Nat} {limb : Nat → List Nat} {a d total domain : Nat} {note : State → State}
    (live : liveSet s k = some (i, e.hh)) (ht : total = src.parts * src.slots)
    (r : CipherReady s (.cluster k en) e l a d src dst (limbFeed s e.hh l src dst) src.slots total total id limb)
    (on : src.flags.testBit 0 = true) (hl : ∀ pos ws, (f pos ws).length = ringN l) (hd : domain < 256)
    (rt : Noted s t i) (rn : ∀ u, Noted u (note u) i) :
    ∃ u, ctLimbs t e.hh l src dst f total total e.pos = (u, total, none) ∧
    ∃ z, finishDesc (note u) e.hh dst src src.level domain src.scale = .ok z ∧
    ∃ y, y = tickFresh (endOk z (.cluster k en) i e []) ∧
      RanCellar s y k en i e ((cipherVas dst (ringN l) src.slots total).map (cpaOf s e.hh)) ∧
      resultDesc y e.hh d src dst src.level domain src.scale ∧
      ∀ x, e.pos ≤ x → x < total → readLimb y e.hh (ringN l) dst (x / src.slots) (x % src.slots) =
        .ok ((f (src.slotPos l (x % src.slots)) (limb x)).map (· % 2 ^ 32)) := by
  have hn := ringN_whole r.lease.2.1
  obtain ⟨p, source⟩ := r.noted rt
  have hp : e.pos ≤ total := ht ▸ r.ops.2.2.2.2
  obtain ⟨u, eu, lu⟩ := ctLimbs_laid (h := e.hh) hn ht p (List.Subset.refl _) p.nodupVas (fun x _ => hl _ (limb x)) source
    hp (Nat.sub_le total e.pos)
  have ends := slots_end (en := en) (out := fun x => f (src.slotPos l (x % src.slots)) (limb x)) live rt r.dest hn
    (fun x _ => hl _ _) hp lu (rn u) on (leAt_lt src.raw 2 1) hd (leAt_lt src.raw 0x10 4) (r.held.2.2.1 ▸ r.now)
  rw [r.held.2.2.1] at ends
  exact ⟨u, eu, ends⟩

/-- FWDCT and INVCT. -/
theorem ctTransform_ends {limb : Nat → List Nat} {a d total : Nat} {inverse : Bool}
    (live : liveSet s k = some (i, e.hh)) (ht : total = src.parts * src.slots) (mod : e.cmd.mod = 0)
    (r : CipherReady s (.cluster k 1) e l a d src dst (limbFeed s e.hh l src dst) src.slots total total id limb)
    (on : src.flags.testBit 0 = true) : ∃ y, y = tickFresh (ctTransform inverse .clean k i e s) ∧
      RanCellar s y k 1 i e ((cipherVas dst (ringN l) src.slots total).map (cpaOf s e.hh)) ∧
      resultDesc y e.hh d src dst src.level (if inverse then 0 else 1) src.scale ∧
      ∀ x, e.pos ≤ x → x < total → readLimb y e.hh (ringN l) dst (x / src.slots) (x % src.slots) =
        .ok ((transformLimb l inverse (src.slotPos l (x % src.slots)) (limb x)).map (· % 2 ^ 32)) := by
  obtain ⟨u, eu, z, ez, y, ey, rest⟩ := limbForm_ends (f := transformLimb l inverse) (domain := if inverse then 0 else 1)
    (note := fun u => upSite u i fun x => { x with nt := { x.nt with
      limbsDone := total, chainPos := src.slotPos l (min total (total - 1) % src.slots) } })
    live ht r on (transformLimb_length inverse) (by cases inverse <;> decide) (.refl s i)
    fun u => .upSite u i fun _ => ⟨rfl, rfl, rfl, rfl, rfl, rfl⟩
  refine ⟨y, ?_, rest⟩
  obtain ⟨opA, opB, opD, held, hp⟩ := r.ops
  obtain ⟨rfl, hs, rfl, hd⟩ := r.held
  obtain ⟨lease, -, mode⟩ := r.lease
  have count : (limbFeed s e.hh l src dst).count = total := ht.symm
  have run : e.pos + readyRun (blockRead s (.cluster k 1) e (limbFeed s e.hh l src dst)) total e.pos = total := by
    rw [readyRun_all (count ▸ r.read)]
    rw [count] at hp
    omega
  have modeBad : ¬ modeOf s e.hh ≠ 0 := by simp [mode]
  have go : ¬ total < total := Nat.lt_irrefl _
  rw [ey]
  simp only [ctTransform, mod, ne_eq, not_true_eq_false, if_false, opA, opB, opD, lease, mode, ctBegin_held held hs hd, count, run, twRun_clean,
    Option.getD_none, eu, twNote, go, ez]

theorem qStreams_upSite {f : SiteSt → SiteSt} (hf : ∀ c, (f c).st = c.st) :
    qStreams (upSite s i f) (.cluster k en) = qStreams s (.cluster k en) := by
  have site (j : Site) : (siteAt (upSite s i f) j).st = (siteAt s j).st := by
    rw [siteAt_upSite]
    split
    · exact hf _
    · rfl
  have of : siteOf (upSite s i f) k = siteOf s k := rfl
  simp only [qStreams, of, site]

/-- AUTOCT. -/
theorem autoct_ends {limb : Nat → List Nat} {a d total : Nat}
    (live : liveSet s k = some (i, e.hh)) (ht : total = src.parts * src.slots)
    (galois : e.cmd.mod % 2 = 1 ∧ e.cmd.mod < 2 * ringN l ∧ e.cmd.mod < 2 ^ 18)
    (r : CipherReady s (.cluster k 2) e l a d src dst (limbFeed s e.hh l src dst) src.slots total total id limb)
    (on : src.flags.testBit 0 = true) : ∃ y, y = tickFresh (autoctOp k i e s) ∧
      RanCellar s y k 2 i e ((cipherVas dst (ringN l) src.slots total).map (cpaOf s e.hh)) ∧
      resultDesc y e.hh d src dst src.level src.domain src.scale ∧
      ∀ x, e.pos ≤ x → x < total → readLimb y e.hh (ringN l) dst (x / src.slots) (x % src.slots) =
        .ok ((autoLimb l (src.domain == 1) e.cmd.mod (src.slotPos l (x % src.slots)) (limb x)).map (· % 2 ^ 32)) := by
  have nt : Noted s (noteG s i e.cmd.mod) i := .upSite s i fun _ => ⟨rfl, rfl, rfl, rfl, rfl, rfl⟩
  obtain ⟨u, eu, z, ez, y, ey, rest⟩ := limbForm_ends (f := autoLimb l (src.domain == 1) e.cmd.mod) (domain := src.domain)
    (note := id) live ht r on (autoLimb_length (src.domain == 1) e.cmd.mod) (leAt_lt src.raw 5 1) nt fun u => .refl u i
  refine ⟨y, ?_, rest⟩
  obtain ⟨opA, opB, opD, held, hp⟩ := r.ops
  obtain ⟨rfl, hs, rfl, hd⟩ := r.held
  obtain ⟨lease, -, mode⟩ := r.lease
  have count : (limbFeed (noteG s i e.cmd.mod) e.hh l src dst).count = total := ht.symm
  have streams : qStreams (noteG s i e.cmd.mod) (.cluster k 2) = qStreams s (.cluster k 2) := qStreams_upSite fun _ => rfl
  have same : blockRead (noteG s i e.cmd.mod) (.cluster k 2) e (limbFeed (noteG s i e.cmd.mod) e.hh l src dst) =
      blockRead s (.cluster k 2) e (limbFeed s e.hh l src dst) := by
    funext b
    simp only [blockRead, strmOf, streams]
    rfl
  have run : e.pos + readyRun (blockRead s (.cluster k 2) e (limbFeed s e.hh l src dst)) total e.pos = total := by
    have count : (limbFeed s e.hh l src dst).count = total := ht.symm
    rw [readyRun_all (count ▸ r.read)]
    rw [count] at hp
    omega
  have g : bits e.cmd.mod 0 18 = e.cmd.mod := by simp only [bits]; omega
  have high : bits e.cmd.mod 18 14 = 0 := by simp only [bits]; omega
  have good : galoisBad l e.cmd.mod = false := by simp [galoisBad, galois]
  have go : ¬ total < total := Nat.lt_irrefl _
  rw [ey]
  simp only [autoctOp, high, ne_eq, not_true_eq_false, if_false, opA, opB, opD, lease, mode, g, good, decide_false, Bool.or_self,
    Bool.false_eq_true, ctBegin_held held hs hd, count, same, run, eu, go]
  rw [show u = id u from rfl, ez]

/- RESCALECT. -/

/-- A part less its last m limbs, one drop at a time (R218). -/
def dropLast (l : Lease) (m : Nat) (limbs : List (List Nat)) : List (List Nat) :=
  if m = 2 then dropOne l (dropOne l limbs) else dropOne l limbs

theorem dropOne_length (limbs : List (List Nat)) : (dropOne l limbs).length = limbs.length - 1 := by simp [dropOne]
/-- A drop keeps the length of the limbs. -/
theorem dropOne_limb {n : Nat} {limbs : List (List Nat)} (h : ∀ x ∈ limbs, x.length = n) : ∀ x ∈ dropOne l limbs, x.length = n := by
  intro x hx
  simp only [dropOne, List.mem_map, List.mem_range] at hx
  obtain ⟨j, hj, rfl⟩ := hx
  have ne : limbs ≠ [] := by rintro rfl; simp at hj
  have last : (limbs.getLastD []).length = n := by
    rw [List.getLastD_eq_getLast?, List.getLast?_eq_some_getLast ne]
    exact h _ (List.getLast_mem ne)
  have entry : (limbs.getD j []).length = n := by
    rw [List.getD_eq_getElem _ _ (by omega)]
    exact h _ (List.getElem_mem _)
  rw [List.length_map, List.length_zip, last, entry, Nat.min_self]

theorem dropLast_length {m : Nat} (hm : m = 1 ∨ m = 2) (limbs : List (List Nat)) : (dropLast l m limbs).length = limbs.length - m := by
  rcases hm with rfl | rfl <;> simp [dropLast, dropOne_length, Nat.sub_sub]
theorem dropLast_limb {m n : Nat} {limbs : List (List Nat)} (h : ∀ x ∈ limbs, x.length = n) :
    ∀ x ∈ dropLast l m limbs, x.length = n := by
  unfold dropLast
  split
  · exact dropOne_limb (dropOne_limb h)
  · exact dropOne_limb h

/-- The parts from `pos` on, slot by slot. -/
theorem partBlocks_from (n : Nat) (d : Desc) (parts pos out : Nat) (res : Nat → List (List Nat)) :
    (List.range (parts - pos)).flatMap (fun j => partBlocks n d (pos + j) out (res (pos + j))) =
      (List.range (parts * out - pos * out)).flatMap fun x => slotBlocks n d ((pos * out + x) / out) ((pos * out + x) % out)
        ((res ((pos * out + x) / out)).getD ((pos * out + x) % out) []) := by
  rw [← Nat.sub_mul, range_mul_flatMap]
  refine List.flatMap_congr fun p _ => List.flatMap_congr fun j hj => ?_
  have hj := List.mem_range.1 hj
  have at' : pos * out + (p * out + j) = (pos + p) * out + j := by rw [Nat.add_mul, Nat.add_assoc]
  rw [at', slot_div hj, slot_mod hj]

/-- The scale decrement of the last m primes (R39). -/
theorem scaleDrop_last {m level : Nat} (h : m < level) :
    scaleDrop l (level - m) level = ((List.range m).map fun j => l.decs.getD (level - m + j) 0).sum := by
  rw [scaleDrop, show level - (level - m) = m by omega, List.sum_eq_foldl]

/-- Limbs of a part, as the source reads them. -/
def partLimbs (src : Desc) (limb : Nat → List Nat) (p : Nat) : List (List Nat) :=
  (List.range src.level).map fun j => limb (p * src.slots + j)

/-- The number of primes that bit 0 of MOD asks to drop (R218). -/
theorem droppedPrimes {x m : Nat} (h : x < 2) (hm : m = x + 1) : (if x.testBit 0 = true then 2 else 1) = m := by
  obtain rfl | rfl : x = 0 ∨ x = 1 := by omega
  · exact hm.symm
  · exact hm.symm

/-- A source of which slot q * slots + j is limb j of part q is read part by part. -/
theorem CipherReady.part {q : QueueId} {feed : Feed} {limb : Nat → List Nat} {a d out total p : Nat} {t : State}
    (r : CipherReady s q e l a d src dst feed out total (src.parts * src.slots) (fun x => x / src.slots * out) limb)
    (slots : src.slots = src.level) (hp : p < src.parts)
    (st : sameBut s t e.hh ((cipherVas dst (ringN l) out (p * out)).map (cpaOf s e.hh))) :
    partFault t e.hh (ringN l) src p src.level .read = none ∧
      readPart t e.hh (ringN l) src p src.level = .ok (partLimbs src limb p) := by
  have limb_at (j : Nat) (hj : j < src.level) : limbFault t e.hh (ringN l) src p j .read = none ∧
      readLimb t e.hh (ringN l) src p j = .ok (limb (p * src.slots + j)) := by
    have at' := r.limbs (p * src.slots + j) (slot_lt hp (slots ▸ hj)) t
    rw [slot_div (slots ▸ hj), slot_mod (slots ▸ hj)] at at'
    exact at' st
  refine ⟨?_, readPart_ok fun j hj => (limb_at j hj).2⟩
  rw [partFault, List.findSome?_eq_none_iff]
  exact fun j hj => (limb_at j (List.mem_range.1 hj)).1
/-- Its limbs have N words. -/
theorem CipherReady.part_length {q : QueueId} {feed : Feed} {limb : Nat → List Nat} {a d out total p : Nat} {before : Nat → Nat}
    (r : CipherReady s q e l a d src dst feed out total (src.parts * src.slots) before limb)
    (slots : src.slots = src.level) (hp : p < src.parts) : ∀ ws ∈ partLimbs src limb p, ws.length = ringN l := by
  simp only [partLimbs, List.mem_map, List.mem_range, forall_exists_index, and_imp]
  rintro _ j hj rfl
  exact readLimb_length (ringN_whole r.lease.2.1)
    (r.limbs _ (slot_lt hp (slots ▸ hj)) s ⟨rfl, rfl, rfl, r.dest.mem.2, fun _ _ => ⟨rfl, rfl⟩⟩).2

/-- RESCALECT. -/
theorem rescalect_ends {limb : Nat → List Nat} {a d m : Nat} (live : liveSet s k = some (i, e.hh))
    (mod : e.cmd.mod < 2) (hm : m = e.cmd.mod + 1) (level : m < src.level) (special : src.special = 0)
    (r : CipherReady s (.cluster k 3) e l a d src dst (partFeed s e.hh l src dst m) (src.level - m) (src.parts * (src.level - m))
      (src.parts * src.slots) (fun x => x / src.slots * (src.level - m)) limb)
    (on : src.flags.testBit 0 = true) : ∃ y, y = tickFresh (rescalectOp k i e s) ∧
      RanCellar s y k 3 i e ((cipherVas dst (ringN l) (src.level - m) (src.parts * (src.level - m))).map (cpaOf s e.hh)) ∧
      resultDesc y e.hh d src dst (src.level - m) 0 (wrapTo 32 ((src.scale : Int) -
        (((List.range m).map fun j => l.decs.getD (src.level - m + j) 0).sum : Nat))) ∧
      ∀ p, e.pos ≤ p → p < src.parts → ∀ x < src.level - m,
        readLimb y e.hh (ringN l) dst p x = .ok (((dropLast l m (partLimbs src limb p)).getD x []).map (· % 2 ^ 32)) := by
  have hn := ringN_whole r.lease.2.1
  have slots : src.slots = src.level := by rw [Desc.slots, special, Nat.add_zero]
  let out := src.level - m
  let res (p : Nat) : List (List Nat) := dropLast l m (partLimbs src limb p)
  have hp : e.pos ≤ src.parts := r.ops.2.2.2.2
  have resLength (q : Nat) : (res q).length = out := by
    rw [dropLast_length (by omega), partLimbs, List.length_map, List.length_range]
  have resLimb (q : Nat) (hq : q < src.parts) (j : Nat) (hj : j < out) : ((res q).getD j []).length = ringN l := by
    rw [List.getD_eq_getElem _ _ (resLength q ▸ hj)]
    exact dropLast_limb (r.part_length slots hq) _ (List.getElem_mem _)
  have outLens : ∀ x < src.parts * out, ((res (x / out)).getD (x % out) []).length = ringN l := fun x hx =>
    have pos : 0 < out := Nat.sub_pos_of_lt level
    resLimb _ ((Nat.div_lt_iff_lt_mul pos).2 hx) _ (Nat.mod_lt _ pos)
  obtain ⟨u, eu, lu⟩ := rescaleParts_laid (h := e.hh) (res := res) (m := m) rfl hn r.dest (List.Subset.refl _) r.dest.nodupVas
    (fun q _ => resLength q) resLimb (fun q hq t st => ⟨(r.part slots hq st).1, _, (r.part slots hq st).2, rfl⟩) hp (Nat.le_refl _)
  rw [partBlocks_from] at lu
  have scale : wrapTo 32 ((src.scale : Int) - scaleDrop l (src.level - m) src.level) < 2 ^ 32 := by
    unfold wrapTo; omega
  have below : src.level - m < 256 := Nat.lt_of_le_of_lt (Nat.sub_le ..) (leAt_lt src.raw 2 1)
  obtain ⟨z, ez, y, ey, ran, desc, read⟩ := slots_end (en := 3) (out := fun x => (res (x / out)).getD (x % out) []) live
    (.refl s i) r.dest hn outLens (Nat.mul_le_mul_right _ hp) lu (.refl u i) on below (by decide : 0 < 256) scale
    (r.held.2.2.1 ▸ r.now)
  rw [r.held.2.2.1, scaleDrop_last level] at desc
  refine ⟨y, ?_, ran, desc, fun p hpos hpp x hx => ?_⟩
  · obtain ⟨opA, opB, opD, held, hp⟩ := r.ops
    obtain ⟨rfl, hs, rfl, hd⟩ := r.held
    obtain ⟨lease, -, mode⟩ := r.lease
    have run : readyRun (blockRead s (.cluster k 3) e (partFeed s e.hh l src dst m)) src.parts e.pos = src.parts - e.pos :=
      readyRun_all r.read
    have count : (partFeed s e.hh l src dst m).count = src.parts := rfl
    have pick := droppedPrimes mod hm
    have high : bits e.cmd.mod 1 31 = 0 := by simp only [bits]; omega
    have go : ¬ src.parts < src.parts := Nat.lt_irrefl _
    rw [ey]
    simp only [rescalectOp, high, ne_eq, not_true_eq_false, if_false, opA, opB, opD, lease, mode, pick, ctBegin_held held hs hd, count,
      run, eu, go, ez]
  · have above : e.pos * out ≤ p * out := Nat.mul_le_mul_right _ hpos
    have := read (p * out + x) (Nat.le_add_right_of_le above) (slot_lt hpp hx)
    rwa [slot_div hx, slot_mod hx] at this
end
end Sys2Proof.Machine
end

section
/-! PROOFS. How the descriptor forms start: LIVE is cleared, both descriptors are held, and the source is asked for (R37,
R192, R223). -/

namespace Sys2Proof.Machine

/- Streams. -/

section
variable {s t : State} {q : QueueId} {e : Entry} {w : Bool} {f : Feed}

/-- The unit that serves a queue stands. -/
def unitStands (s : State) : QueueId → Prop
  | .cluster k _ => (siteOf s k).isSome = true
  | _ => True

theorem qStreams_upStreams (u : unitStands s q) (g : List Strm → List Strm) : qStreams (upStreams s q g) q = g (qStreams s q) := by
  cases q with
  | cluster k en =>
    obtain ⟨i, hi⟩ := Option.isSome_iff_exists.1 u
    have site (x : State) : siteOf (upSite s i fun c => { c with st := { c.st with streams := g c.st.streams } }) k = some i := hi
    simp only [upStreams, qStreams, hi, site s, siteAt_upSite, if_true]
  | mve r => simp [upStreams, qStreams]
  | larder r => simp [upStreams, qStreams]

/-- A list of which the entries found are changed and stay such. -/
theorem find?_map_found {α : Type} {p : α → Bool} {g : α → α} (keep : ∀ x, p x = true → p (g x) = true) (xs : List α) :
    (xs.map fun x => if p x then g x else x).find? p = (xs.find? p).map g := by
  induction xs with
  | nil => rfl
  | cons x xs ih =>
    by_cases hx : p x = true
    · simp [hx, keep x hx]
    · simp [hx, ih]

/-- A transfer asked for has the requests of its feed. -/
theorem putStream_strm (u : unitStands s q) : ∃ y, strmOf (putStream s q e w f) q e w = some y ∧
    y.left = (ask s e.hh w (qEng q == 6) f f.count 0 0).1 ∧ y.upto = (ask s e.hh w (qEng q == 6) f f.count 0 0).2 ∧ y.out = [] := by
  simp only [putStream]
  cases found : strmOf s q e w with
  | none =>
    simp only [strmOf] at found
    simp only [strmOf, qStreams_upStreams u, List.find?_append, found, Option.none_or, List.find?_singleton]
    rw [if_pos (by simp [Strm.serves])]
    exact ⟨_, rfl, rfl, rfl, rfl⟩
  | some y =>
    simp only [strmOf] at found
    have key := List.find?_some found
    simp only [Strm.serves, Bool.and_eq_true, beq_iff_eq] at key
    obtain ⟨⟨⟨kh, ks⟩, ke⟩, kw⟩ := key
    have same (x : Strm) : (x.hh == y.hh && x.seq == y.seq && x.eng == y.eng && x.write == y.write) =
        (x.serves q e && x.write == w) := by rw [kh, ks, ke, kw]; rfl
    simp only [strmOf, upStrm, qStreams_upStreams u, same]
    rw [find?_map_found (fun _ _ => by simp [Strm.serves]), found]
    exact ⟨_, rfl, rfl, rfl, rfl⟩

/-- The first block asked for has requests when its first span translates. -/
theorem ask_first {h : Hh} {byBlock : Bool} {va len rank : Nat} {p : PageX} (count : 0 < f.count)
    (ok : f.ok 0 = true) (span : (f.spans 0).head? = some (va, len))
    (page : xlate s h true (if w then .write else .read) va = .ok p) : ∃ r ∈ (ask s h w byBlock f f.count 0 rank).1, r.blk = 0 := by
  obtain ⟨n, hn⟩ := Nat.exists_eq_add_of_lt count
  obtain ⟨rest, span⟩ := List.head?_eq_some_iff.1 span
  rw [hn, ask.eq_def]
  simp only [ok, if_true, blockRequests, span, List.filterMap_cons, page]
  exact ⟨_, List.mem_append_left _ (List.mem_map.2 ⟨_, List.mem_iff_getElem.2 ⟨0, by simp, rfl⟩, rfl⟩), rfl⟩
end

theorem siteOf_live {s : State} {k : Gl} {i : Site} {h : Hh} (live : liveSet s k = some (i, h)) : siteOf s k = some i := by
  simp only [liveSet] at live
  split at live
  · rename_i j hj
    split at live
    · simp at live
    · obtain ⟨_, -, e⟩ := Option.map_eq_some_iff.1 live
      cases e
      exact hj
  · simp at live
/-- A transfer asked for changes the streams of its unit. -/
theorem putStream_streams (s : State) (q : QueueId) (e : Entry) (w : Bool) (f : Feed) :
    ∃ g : List Strm → List Strm, putStream s q e w f = upStreams s q g := by
  simp only [putStream]
  split
  · exact ⟨_, rfl⟩
  · exact ⟨_, rfl⟩
theorem upStreams_cluster {s : State} {k : Gl} {i : Site} (site : siteOf s k = some i) (en : Fin 5) (g : List Strm → List Strm) :
    upStreams s (.cluster k en) g = upSite s i fun c => { c with st := { c.st with streams := g c.st.streams } } := by
  simp only [upStreams, site]
/-- A wait is counted in the registers of its site. -/
theorem stallNote_cluster {s : State} {k : Gl} {i : Site} (site : siteOf s k = some i) (en : Fin 5) (h : Hh) (c : Fin 10) :
    ∃ g : Vector (Vector Nat 10) 8 → Vector (Vector Nat 10) 8, stallNote s (.cluster k en) h c =
      tickFresh (tickFresh (upSite s i fun x => { x with stallLive := g x.stallLive })) := by
  simp only [stallNote, stallFor, site, stallUnits]
  exact ⟨fun v => vmod ((waitUnits s h en).foldl (fun v u => vmod v u fun w => addStall w c (freeWait s)) v) 7 fun w =>
    addStall w c ((Config.freeWordAt s.fresh 901).toNat % (freeWait s + 1)), rfl⟩

/- The start of a form. -/

section
variable {s t : State} {k : Gl} {i : Site} {en : Fin 5} {e : Entry} {l : Lease} {src dst : Desc} {a d : Nat} {g g' : Entry → Entry}

/-- State t has LIVE cleared in the descriptor at d, the command changed by g and no other bytes or doorbells. -/
structure Cleared (s t : State) (k : Gl) (en : Fin 5) (i : Site) (e : Entry) (d : Nat) (g : Entry → Entry) : Prop where
  live : liveSet t k = some (i, e.hh)
  ents : qEnts t (.cluster k en) = changed (qEnts s (.cluster k en)) e g
  bytes : ∀ b, cGet t b = if b = cpaOf s e.hh ((d + 20) % 2 ^ 64) then cGet s b &&& 0xFE else cGet s b
  db : t.db = s.db

theorem Cleared.upSite (c : Cleared s t k en i e d g) {f : SiteSt → SiteSt}
    (hf : ∀ x, (f x).sets = x.sets ∧ (f x).dead = x.dead ∧ (f x).served = x.served) : Cleared s (upSite t i f) k en i e d g := by
  have lt : liveSet (Machine.upSite t i f) k = some (i, e.hh) := (liveSet_upSite fun x => (hf x).2).trans c.live
  have sets : setAt (Machine.upSite t i f) i e.hh = setAt t i e.hh := by simp [setAt, (hf _).1]
  refine ⟨lt, ?_, c.bytes, c.db⟩
  rw [← c.ents, qEnts_cluster lt, qEnts_cluster c.live, sets]
/-- Two changes of one command, the first of which keeps its name. -/
theorem changed_changed (key : ∀ x, (g x).hh = x.hh ∧ (g x).seq = x.seq) (es : List Entry) :
    changed (changed es e g) e g' = changed es e (g' ∘ g) := by
  rw [changed, changed, List.map_map]
  refine List.map_congr_left fun x _ => ?_
  by_cases hx : x.hh = e.hh ∧ x.seq = e.seq
  · simp [hx, key]
  · simp [hx]
theorem Cleared.tickFresh (c : Cleared s t k en i e d g) : Cleared s (tickFresh t) k en i e d g := ⟨c.live, c.ents, c.bytes, c.db⟩
theorem Cleared.upEntry (c : Cleared s t k en i e d g) (key : ∀ x, (g x).hh = x.hh ∧ (g x).seq = x.seq) :
    Cleared s (upEntry t (.cluster k en) e.hh e.seq g') k en i e d (g' ∘ g) := by
  have ents := qEnts_upEntry c.live en e g'
  rw [c.ents, changed_changed key] at ents
  rw [upEntry_cluster c.live] at ents ⊢
  exact ⟨(liveSet_upSet ..).trans c.live, ents, c.bytes, c.db⟩

/-- LIVE cleared in the flags of a descriptor (R37). -/
theorem clrBit_byte (b : Byte) : BitVec.ofNat 8 (clrBit b.toNat 0) = b &&& 0xFE := by
  revert b; decide

theorem clearLive_cleared (live : liveSet s k = some (i, e.hh)) (p : PlainDest s e.hh (vaRange d 64))
    (desc : readDesc s e.hh d = .ok dst) : ∃ t, clearLive s e.hh dst = .ok t ∧ Cleared s t k en i e d id ∧
      RegsOnly s t i ∧ ∀ acc va, xlate t e.hh true acc va = xlate s e.hh true acc va := by
  have raw : dst = ⟨d, hBytes s e.hh d 64⟩ := by
    rw [readDesc_plain p (List.Subset.refl _)] at desc
    exact (Except.ok.inj desc).symm
  have sub : vaRange (d + 20) 1 ⊆ vaRange d 64 := vaRange_sub (by decide)
  have one (x : Nat) : (leBytes 1 x).length = 1 := leBytes_length 1 x
  let b := hByte s e.hh ((d + 20) % 2 ^ 64)
  have flags : leAt dst.raw 0x14 1 = b.toNat := by
    rw [raw, leAt_hBytes s e.hh d (by decide)]
    simp [hBytes, vaRange, leNat, b]
  obtain ⟨t, et, st, bt⟩ := hWrite_plain (va := d + 20) (bs := leBytes 1 (clrBit b.toNat 0)) p (by rwa [one]) (by rw [one]; decide)
  rw [one] at st bt
  obtain ⟨pt, x⟩ := st.carry p sub
  have regs := st.regs i
  have lt := (regs.liveSet k).trans live
  refine ⟨t, ?_, ⟨lt, ?_, fun c => ?_, ?_⟩, regs, x⟩
  · simp only [clearLive, flags]
    simp only [raw, et]
  · rw [qEnts_cluster lt, qEnts_cluster live, setAt, regs.sets, ← setAt]
    simp [changed]
  · split
    · rename_i hc
      have : hByte t e.hh ((d + 20) % 2 ^ 64) = b &&& 0xFE := by
        rw [← clrBit_byte]
        simpa [hBytes, vaRange, leBytes] using bt
      rw [hByte, st.cpaOf p sub] at this
      rw [hc, this]
      rfl
    · exact st.off c (by simpa [vaRange] using ‹_›)
  · exact show (offCellar t).db = (offCellar s).db by rw [st.frame]

/-- A command that holds both descriptors. -/
def holding (src dst : Desc) (x : Entry) : Entry := { x with held := src.raw ++ dst.raw }

/-- A form that starts holds both descriptors and has asked for its source. -/
theorem ctBegin_starts {feed0 : Feed} {feed : State → Desc → Desc → Feed} {va len : Nat}
    (live : liveSet s k = some (i, e.hh)) (r : CipherStarts s e l a d src dst feed0)
    (asks : ∀ t, (∀ acc va, xlate t e.hh true acc va = xlate s e.hh true acc va) → 0 < (feed t src dst).count ∧
      (feed t src dst).ok 0 = true ∧ ((feed t src dst).spans 0).head? = some (va, len) ∧ ∃ p, xlate s e.hh true .read va = .ok p) :
    ∃ t, (∀ chk : Desc → Desc → Option Nat, chk src src = none → chk src dst = none →
        ctBegin s (.cluster k en) e a d chk feed = .ok (t, src, dst)) ∧
      Cleared s t k en i e d (holding src dst) ∧
      ∃ x, strmOf t (.cluster k en) e false = some x ∧ ∃ y ∈ x.left, y.blk = 0 := by
  obtain ⟨t, et, ct, -, x⟩ := clearLive_cleared (en := en) live r.dest r.descs.2
  have held : ¬ e.held.length = 128 := by simp [r.ops.2.2.2.1]
  obtain ⟨count, ok, span, p, page⟩ := asks t x
  have cu : Cleared s (upEntry t (.cluster k en) e.hh e.seq (holding src dst)) k en i e d (holding src dst) :=
    ct.upEntry fun _ => ⟨rfl, rfl⟩
  have site : siteOf (upEntry t (.cluster k en) e.hh e.seq (holding src dst)) k = some i := siteOf_live cu.live
  have same : xlate (upEntry t (.cluster k en) e.hh e.seq (holding src dst)) e.hh true = xlate s e.hh true := by
    rw [upEntry_cluster ct.live]
    funext acc va
    exact x acc va
  obtain ⟨y, ey, left, -⟩ := putStream_strm (s := upEntry t (.cluster k en) e.hh e.seq (holding src dst)) (q := .cluster k en) (e := e)
    (w := false) (f := feed t src dst) (Option.isSome_iff_exists.2 ⟨i, site⟩)
  refine ⟨putStream (upEntry t (.cluster k en) e.hh e.seq (holding src dst)) (.cluster k en) e false (feed t src dst),
    fun chk own other => ?_, ?_, y, ey, ?_⟩
  · simp only [ctBegin, held, if_false, r.descs.1, own, r.descs.2, other, et]
    rfl
  · obtain ⟨f, hf⟩ := putStream_streams (upEntry t (.cluster k en) e.hh e.seq (holding src dst)) (.cluster k en) e false (feed t src dst)
    rw [hf, upStreams_cluster site]
    exact cu.upSite fun _ => ⟨rfl, rfl, rfl⟩
  · rw [left]
    exact ask_first count ok span (same ▸ page)

/-- Its first block has not been read. -/
theorem blockRead_asked {q : QueueId} (asked : ∃ x, strmOf t q e false = some x ∧ ∃ y ∈ x.left, y.blk = 0) (f : Feed) :
    blockRead t q e f 0 = false := by
  obtain ⟨x, ex, y, hy, hb⟩ := asked
  have left : x.left.isEmpty = false := by simpa using List.ne_nil_of_mem hy
  simp only [blockRead, ex, atFault, left, Bool.and_false, Bool.false_and, Bool.or_false, Bool.and_eq_false_iff]
  refine .inr ?_
  simp only [List.all_eq_false, bne_iff_ne, ne_eq, Decidable.not_not]
  exact ⟨y, List.mem_append_left _ hy, hb⟩
theorem readyRun_zero {ok : Nat → Bool} (h : ok 0 = false) (n : Nat) : readyRun ok n 0 = 0 := by
  cases n with
  | zero => rfl
  | succ n => simp [readyRun, List.range_succ_eq_map, h]

/-- A form that has just asked for its source waits for it. -/
theorem moveWaits_begun (c : Cleared s t k en i e d (holding src dst))
    (asked : ∃ x, strmOf t (.cluster k en) e false = some x ∧ ∃ y ∈ x.left, y.blk = 0) (f : Feed) :
    cipherBegun s (tickFresh (moveWaits t (.cluster k en) e false f 0)) k en e d src dst := by
  obtain ⟨x, ex, y, hy, -⟩ := asked
  have ne : x.left ≠ [] := List.ne_nil_of_mem hy
  have cu := c.upEntry (g' := fun y => { y with pos := 0 }) fun _ => ⟨rfl, rfl⟩
  have strm : strmOf (upEntry t (.cluster k en) e.hh e.seq fun y => { y with pos := 0 }) (.cluster k en) e false = some x := by
    rw [← ex, upEntry_cluster c.live]
    exact congrArg (List.find? _) (qStreams_upSite fun _ => rfl)
  simp only [moveWaits]
  generalize (upEntry t (.cluster k en) e.hh e.seq fun y => { y with pos := 0 }) = u at cu strm
  have wait : moreRequests u (.cluster k en) e false f = none := by
    have left : x.left.isEmpty = false := by simpa using ne
    simp only [moreRequests, strm, left, Bool.false_and, Bool.false_eq_true, if_false]
  obtain ⟨g, hg⟩ := stallNote_cluster (siteOf_live cu.live) en e.hh scOperand
  rw [wait, Option.getD_none, hg]
  obtain ⟨-, ents, bytes, db⟩ := (cu.upSite (f := fun x => { x with stallLive := g x.stallLive }) fun _ => ⟨rfl, rfl, rfl⟩).tickFresh
  refine ⟨ents, bytes, ⟨x, ?_, ne⟩, db⟩
  rw [← strm]
  exact congrArg (List.find? _) (qStreams_upSite (s := u) (i := i) (f := fun x => { x with stallLive := g x.stallLive }) fun _ => rfl)
/-- Registers of its site that are noted between do not matter. -/
theorem moveWaits_noted (c : Cleared s t k en i e d (holding src dst))
    (asked : ∃ x, strmOf t (.cluster k en) e false = some x ∧ ∃ y ∈ x.left, y.blk = 0) {r : SiteSt → SiteSt}
    (keep : ∀ x, (r x).sets = x.sets ∧ (r x).dead = x.dead ∧ (r x).served = x.served) (st : ∀ x, (r x).st = x.st) (f : Feed) :
    cipherBegun s (tickFresh (moveWaits (upSite t i r) (.cluster k en) e false f 0)) k en e d src dst := by
  refine moveWaits_begun (c.upSite keep) ?_ f
  have same : strmOf (upSite t i r) (.cluster k en) e false = strmOf t (.cluster k en) e false :=
    congrArg (List.find? _) (qStreams_upSite st)
  rwa [same]

end

end Sys2Proof.Machine
end

section
/-! PROOFS. The starts of the four descriptor forms, and what they do (R36-R39, R192, R196, R197, R218). -/

namespace Sys2Proof.Machine

/- What a form asks for first. -/

section
variable {s t : State} {k : Gl} {i : Site} {en : Fin 5} {e : Entry} {h : Hh} {l : Lease} {src dst d : Desc} {n p x m : Nat} {acc : Acc}

theorem xlate_of_xlateRange {agent : Bool} {va : Nat} (hn : 0 < n) (ok : xlateRange s h agent acc va n = none) :
    ∃ p, xlate s h agent acc (va % 2 ^ 64) = .ok p := by
  simp only [xlateRange, Nat.ne_of_gt hn, if_false, List.findSome?_eq_none_iff] at ok
  have first := ok va (List.mem_map.2 ⟨0, List.mem_range.2 (Nat.succ_pos _), if_pos rfl⟩)
  split at first
  · simp at first
  · exact ⟨_, ‹_›⟩

theorem limbFault_congr (eq : ∀ acc va, xlate t h true acc va = xlate s h true acc va) (n : Nat) (d : Desc) (p x : Nat) (acc : Acc) :
    limbFault t h n d p x acc = limbFault s h n d p x acc := by
  simp only [limbFault, xlateRange, eq]
theorem partFault_congr (eq : ∀ acc va, xlate t h true acc va = xlate s h true acc va) (n : Nat) (d : Desc) (p cnt : Nat) (acc : Acc) :
    partFault t h n d p cnt acc = partFault s h n d p cnt acc := by
  simp only [partFault, limbFault_congr eq]

theorem spansOf_first (fuel va : Nat) {n : Nat} (hn : n ≠ 0) :
    (spansOf (fuel + 1) va n).head? = some (va % 2 ^ 64, min (min 1024 n) (65536 - va % 65536)) := by
  simp only [spansOf, hn, if_false, List.head?_cons]
/-- The first request of a slot is at its address. -/
theorem limbSpans_first (hn : 1024 ≤ n) : ∃ len, (limbSpans n d p x).head? = some (d.slotVa p x % 2 ^ 64, len) := by
  obtain ⟨j, hj⟩ : ∃ j, n / 1024 = j + 1 := ⟨n / 1024 - 1, by omega⟩
  rw [limbSpans, hj, List.range_succ_eq_map, List.flatMap_cons, List.head?_append, spansOf_first 7 _ (by decide)]
  exact ⟨_, rfl⟩
theorem ringN_large (h10 : 10 ≤ l.log2n) : 1024 ≤ ringN l := Nat.pow_le_pow_right (n := 2) (by decide) h10
/-- That address is translated when the slot is. -/
theorem page_of_limbFault (hn : 0 < n) (ok : limbFault s h n d p x acc = none) : ∃ q, xlate s h true acc (d.slotVa p x % 2 ^ 64) = .ok q := by
  refine xlate_of_xlateRange (n := 4 * n) (by omega) ?_
  simp only [limbFault] at ok
  split at ok
  · simp at ok
  · assumption

/-- A form that goes limb by limb asks for its first limb. -/
theorem limbFeed_asks (h10 : 10 ≤ l.log2n) (count : 0 < src.parts * src.slots) (ok : (limbFeed s h l src dst).ok 0 = true) :
    ∃ len, ∀ t, (∀ acc va, xlate t h true acc va = xlate s h true acc va) → 0 < (limbFeed t h l src dst).count ∧
      (limbFeed t h l src dst).ok 0 = true ∧ ((limbFeed t h l src dst).spans 0).head? = some (src.slotVa 0 0 % 2 ^ 64, len) ∧
      ∃ p, xlate s h true .read (src.slotVa 0 0 % 2 ^ 64) = .ok p := by
  obtain ⟨len, span⟩ := limbSpans_first (d := src) (p := 0) (x := 0) (ringN_large h10)
  refine ⟨len, fun t eq => ⟨count, ?_, ?_, ?_⟩⟩
  · simpa only [limbFeed, limbFault_congr eq] using ok
  · simpa only [limbFeed, Nat.zero_div, Nat.zero_mod] using span
  · simp only [limbFeed, Nat.zero_div, Nat.zero_mod, Bool.and_eq_true, Option.isNone_iff_eq_none] at ok
    exact page_of_limbFault (Nat.two_pow_pos _) ok.1
/-- RESCALECT asks for the first limb of its first part. -/
theorem partFeed_asks (h10 : 10 ≤ l.log2n) (parts : 0 < src.parts) (level : 0 < src.level) (ok : (partFeed s h l src dst m).ok 0 = true) :
    ∃ len, ∀ t, (∀ acc va, xlate t h true acc va = xlate s h true acc va) → 0 < (partFeed t h l src dst m).count ∧
      (partFeed t h l src dst m).ok 0 = true ∧ ((partFeed t h l src dst m).spans 0).head? = some (src.slotVa 0 0 % 2 ^ 64, len) ∧
      ∃ p, xlate s h true .read (src.slotVa 0 0 % 2 ^ 64) = .ok p := by
  obtain ⟨j, hj⟩ : ∃ j, src.level = j + 1 := ⟨src.level - 1, by omega⟩
  obtain ⟨len, span⟩ := limbSpans_first (d := src) (p := 0) (x := 0) (ringN_large h10)
  refine ⟨len, fun t eq => ⟨parts, ?_, ?_, ?_⟩⟩
  · simpa only [partFeed, partFault_congr eq] using ok
  · simp only [partFeed, hj, List.range_succ_eq_map, List.flatMap_cons, List.head?_append, span, Option.some_or]
  · simp only [partFeed, Bool.and_eq_true, Option.isNone_iff_eq_none, partFault, List.findSome?_eq_none_iff, List.mem_range] at ok
    exact page_of_limbFault (Nat.two_pow_pos _) (ok.1 0 level)

/-- A source is fit for as many limbs a part as it has slots. -/
theorem sourceCheck_dest {domain : Option Nat} (ok : sourceCheck l src domain = none) (hn : n ≤ src.slots) : destCheck l src n = none := by
  obtain ⟨-, counts, addr⟩ := sourceCheck_none ok
  have aligned : src.va % 64 = 0 := by
    by_contra bad
    simp [sourceCheck, bad] at ok
  simp only [Desc.countsOk, Bool.and_eq_true, decide_eq_true_eq] at counts
  simp only [destCheck, aligned, addr]
  simp
  omega
theorem sourceCheck_counts {domain : Option Nat} (ok : sourceCheck l src domain = none) : 0 < src.parts ∧ 0 < src.level := by
  obtain ⟨-, counts, -⟩ := sourceCheck_none ok
  simp only [Desc.countsOk, Bool.and_eq_true, Bool.or_eq_true, beq_iff_eq, decide_eq_true_eq] at counts
  omega

/- The forms. -/

theorem ctLimbs_none (s : State) (h : Hh) (l : Lease) (src dst : Desc) (f : Nat → List Nat → List Nat) (fuel : Nat) :
    ctLimbs s h l src dst f 0 fuel 0 = (s, 0, none) := by
  cases fuel with
  | zero => rfl
  | succ fuel => simp only [ctLimbs, ge_iff_le, Nat.le_refl, true_or, if_true]

/-- FWDCT and INVCT. -/
theorem ctTransform_starts {a d : Nat} {inverse : Bool} (live : liveSet s k = some (i, e.hh)) (mod : e.cmd.mod = 0)
    (ok : sourceCheck l src (some (if inverse then 1 else 0)) = none) (fits : destCheck l dst src.slots = none)
    (r : CipherStarts s e l a d src dst (limbFeed s e.hh l src dst)) :
    cipherBegun s (tickFresh (ctTransform inverse .clean k i e s)) k 1 e d src dst := by
  obtain ⟨parts, level⟩ := sourceCheck_counts ok
  have count : 0 < src.parts * src.slots := Nat.mul_pos parts (by rw [Desc.slots]; omega)
  obtain ⟨len, asks⟩ := limbFeed_asks r.lease.2.1 count r.pages
  have own := sourceCheck_dest ok (Nat.le_refl _)
  obtain ⟨t, et, ct, asked⟩ := ctBegin_starts (en := 1) (feed := fun t => limbFeed t e.hh l) live r asks
  obtain ⟨⟨opA, opB, opD, -, pos⟩, ⟨lease, -, mode⟩, -, -, -⟩ := r
  have run (f : Feed) : readyRun (blockRead t (.cluster k 1) e f) f.count 0 = 0 := readyRun_zero (blockRead_asked asked _) _
  have go : 0 < (limbFeed t e.hh l src dst).count := count
  simp only [ctTransform, mod, ne_eq, not_true_eq_false, if_false, opA, opB, opD, lease, mode, et, ok, own, fits, pos, run, Nat.add_zero,
    twRun_clean, Option.getD_none, ctLimbs_none, twNote, go, if_true, Option.isSome_none, Bool.false_eq_true]
  refine moveWaits_noted ct asked ?_ ?_ _
  · exact fun _ => ⟨rfl, rfl, rfl⟩
  · exact fun _ => rfl

/-- AUTOCT. -/
theorem autoct_starts {a d : Nat} (live : liveSet s k = some (i, e.hh))
    (galois : e.cmd.mod % 2 = 1 ∧ e.cmd.mod < 2 * ringN l ∧ e.cmd.mod < 2 ^ 18)
    (ok : sourceCheck l src none = none) (fits : destCheck l dst src.slots = none)
    (r : CipherStarts s e l a d src dst (limbFeed s e.hh l src dst)) :
    cipherBegun s (tickFresh (autoctOp k i e s)) k 2 e d src dst := by
  obtain ⟨parts, level⟩ := sourceCheck_counts ok
  have count : 0 < src.parts * src.slots := Nat.mul_pos parts (by rw [Desc.slots]; omega)
  have own := sourceCheck_dest ok (Nat.le_refl _)
  have nt : Noted s (noteG s i e.cmd.mod) i := .upSite s i fun _ => ⟨rfl, rfl, rfl, rfl, rfl, rfl⟩
  have live' := (nt.toRegsOnly.liveSet k).trans live
  have r' : CipherStarts (noteG s i e.cmd.mod) e l a d src dst (limbFeed (noteG s i e.cmd.mod) e.hh l src dst) :=
    ⟨r.ops, r.lease, r.descs, (nt.same r.dest).1, r.pages⟩
  obtain ⟨len, asks⟩ := limbFeed_asks r'.lease.2.1 count r'.pages
  obtain ⟨t, et, ct, asked⟩ := ctBegin_starts (en := 2) (feed := fun t => limbFeed t e.hh l) live' r' asks
  obtain ⟨⟨opA, opB, opD, -, pos⟩, ⟨lease, -, mode⟩, -, -, -⟩ := r
  have run (f : Feed) : readyRun (blockRead t (.cluster k 2) e f) f.count 0 = 0 := readyRun_zero (blockRead_asked asked _) _
  have go : 0 < (limbFeed t e.hh l src dst).count := count
  have g : bits e.cmd.mod 0 18 = e.cmd.mod := by simp only [bits]; omega
  have high : bits e.cmd.mod 18 14 = 0 := by simp only [bits]; omega
  have good : galoisBad l e.cmd.mod = false := by simp [galoisBad, galois]
  have ents : qEnts (noteG s i e.cmd.mod) (.cluster k 2) = qEnts s (.cluster k 2) := by
    rw [qEnts_cluster live', qEnts_cluster live, setAt, nt.sets, setAt]
  obtain ⟨held, bytes, strm, db⟩ := moveWaits_begun ct asked (limbFeed t e.hh l src dst)
  rw [ents] at held
  simp only [autoctOp, high, g, good, mode, ne_eq, not_true_eq_false, if_false, opA, opB, opD, lease, decide_false, Bool.or_self,
    Bool.false_eq_true, et, ok, own, fits, pos, run, Nat.add_zero, ctLimbs_none, go, if_true]
  exact ⟨held, bytes, strm, db⟩

/-- RESCALECT. -/
theorem rescalect_starts {a d : Nat} (live : liveSet s k = some (i, e.hh)) (mod : e.cmd.mod < 2) (hm : m = e.cmd.mod + 1)
    (ok : sourceCheck l src (some 0) = none) (level : m < src.level) (special : src.special = 0)
    (fits : destCheck l dst (src.level - m) = none) (r : CipherStarts s e l a d src dst (partFeed s e.hh l src dst m)) :
    cipherBegun s (tickFresh (rescalectOp k i e s)) k 3 e d src dst := by
  obtain ⟨parts, levels⟩ := sourceCheck_counts ok
  have own : destCheck l src (src.level - m) = none := sourceCheck_dest ok (by rw [Desc.slots]; omega)
  obtain ⟨len, asks⟩ := partFeed_asks r.lease.2.1 parts levels r.pages
  obtain ⟨t, et, ct, asked⟩ := ctBegin_starts (en := 3) (feed := fun t src dst => partFeed t e.hh l src dst m) live r asks
  obtain ⟨⟨opA, opB, opD, -, pos⟩, ⟨lease, -, mode⟩, -, -, -⟩ := r
  have run (f : Feed) : readyRun (blockRead t (.cluster k 3) e f) f.count 0 = 0 := readyRun_zero (blockRead_asked asked _) _
  have go : 0 < (partFeed t e.hh l src dst m).count := parts
  have pick := droppedPrimes mod hm
  have high : bits e.cmd.mod 1 31 = 0 := by simp only [bits]; omega
  have lower : ¬ src.level ≤ m := Nat.not_le.2 level
  simp only [rescalectOp, high, pick, mode, ne_eq, not_true_eq_false, if_false, opA, opB, opD, lease, et, ok, own, fits, lower, special,
    pos, run, rescaleParts, go, if_true]
  exact moveWaits_begun ct asked _
end

/-- Settles O30: a descriptor form that starts clears LIVE and asks for its source, one that goes on lays its limbs one by
one into a plain destination, where they are read back. -/
theorem ciphertextForms : Obligations.CiphertextForms := by
  intro s k i e l a d src dst limb
  refine ⟨fun w mod ok => ⟨fun ⟨r, fits⟩ => ?_, fun r fits => ?_⟩, fun w mod ok => ⟨fun ⟨r, fits⟩ => ?_, fun r fits => ?_⟩,
    fun w galois ok => ⟨fun ⟨r, fits⟩ => ?_, fun r fits => ?_⟩, fun m w mod hm ok level special fits => ⟨fun r => ?_, fun r => ?_⟩⟩
  · exact ⟨_, congrArg Host.Outcome.next (engineRow_atWork w _), ctTransform_starts (inverse := false) w.live mod ok fits r⟩
  · obtain ⟨t, rfl, ran, desc, read⟩ := ctTransform_ends (inverse := false) w.live rfl mod r (sourceCheck_none ok).1
    exact ⟨_, congrArg Host.Outcome.next (engineRow_atWork w _), ran, desc, read⟩
  · exact ⟨_, congrArg Host.Outcome.next (engineRow_atWork w _), ctTransform_starts (inverse := true) w.live mod ok fits r⟩
  · obtain ⟨t, rfl, ran, desc, read⟩ := ctTransform_ends (inverse := true) w.live rfl mod r (sourceCheck_none ok).1
    exact ⟨_, congrArg Host.Outcome.next (engineRow_atWork w _), ran, desc, read⟩
  · exact ⟨_, congrArg Host.Outcome.next (engineRow_atWork w _), autoct_starts w.live galois ok fits r⟩
  · obtain ⟨t, rfl, ran, desc, read⟩ := autoct_ends w.live rfl galois r (sourceCheck_none ok).1
    exact ⟨_, congrArg Host.Outcome.next (engineRow_atWork w _), ran, desc, read⟩
  · exact ⟨_, congrArg Host.Outcome.next (engineRow_atWork w _), rescalect_starts w.live mod hm ok level special fits r⟩
  · obtain ⟨t, rfl, ran, desc, read⟩ := rescalect_ends w.live mod hm level special r (sourceCheck_none ok).1
    exact ⟨_, congrArg Host.Outcome.next (engineRow_atWork w _), ran, desc, read⟩

end Sys2Proof.Machine
end

section
/-! PROOFS. Announcements of a larder and their expansion into the cellar (R245, R253). -/

namespace Sys2Proof.Machine

/- Commands of a larder. -/

theorem upReg_upReg (s : State) (r : Rg) (f g : RegionSt → RegionSt) : upReg (upReg s r f) r g = upReg s r fun x => g (f x) := by
  simp [upReg, vmod_vmod, Function.comp_def]

/-- An update of one command, as an update of its region. -/
theorem upEntry_larder (s : State) (r : Rg) (e : Entry) (f : Entry → Entry) : upEntry s (.larder r) e.hh e.seq f =
    upReg s r fun g => { g with larder := { g.larder with ents := changed g.larder.ents e f } } := by
  have same (es : List Entry) : (es.map fun x => if x.hh == e.hh && x.seq == e.seq then f x else x) = changed es e f := by
    simp [changed]
  simp only [upEntry, upEnts, same]
/-- A command of a larder ends with a status that names no operand. -/
theorem endEntry_larder (s : State) (r : Rg) (e : Entry) (st : Nat) : endEntry s (.larder r) e st 0 0 =
    upReg s r fun g => { g with larder := { g.larder with ents := changed g.larder.ents e fun x => overWith x st 0 0 } } := by
  rw [endEntry_plain, upEntry_larder]

/- PREX. -/

section
variable {s : State} {r : Rg} {e : Entry} {l : Lease} {va sb : Nat} {d : Tensor} {bs : List Byte}

/-- A PREX whose key passes is announced while the region holds fewer than eight announcements, and refused otherwise. -/
theorem prexOp_passes (run : runningEntry s (.larder r) 0xC2 = some e) (lease : (hhAt s e.hh).lease = some l)
    (opA : e.opA = .desc va) (opB : e.opB = .none) (opD : e.opD = .cellar d sb) (mod : e.cmd.mod = 0)
    (read : hRead s e.hh true .read va 256 = .ok bs) (ok : keyCheck l va ⟨bs⟩ none = none) (compressed : KeyHdr.compressed ⟨bs⟩ = true) :
    prexOp s r = if (regAt s r).ld.ann.length ≥ 8 then endEntry s (.larder r) e stRange 0 0
      else endEntry (upReg s r fun g => { g with ld := { g.ld with ann := g.ld.ann ++ [⟨e.hh, bs, 0, va, d.base, false⟩] } })
        (.larder r) e stOk 0 0 := by
  simp only [prexOp, run, lease, opA, opB, opD, mod, read, ok, compressed, ne_eq, not_true_eq_false, if_false, Bool.not_true,
    Bool.false_eq_true]
end

/- The expansion. -/

/-- Block j of row `row` of an expansion whose half-limbs are `half`. -/
def expandBlock (area seals n : Nat) (half : Nat → List Nat) (row j : Nat) : CBlock :=
  ⟨(area + row * 4 * n + 4096 * j) % 2 ^ 64, (seals + 4 * (row * (n / 1024) + j)) % 2 ^ 64, unElems 4 (wordsOf (half row) j)⟩
/-- All blocks of an expansion. -/
def expandBlocks (area seals n rows : Nat) (half : Nat → List Nat) : List CBlock :=
  (List.range rows).flatMap fun row => (List.range (n / 1024)).flatMap fun j => [expandBlock area seals n half row j]
/-- Addresses of an expansion area and of its seals. -/
def expandVas (area seals n rows : Nat) : List Nat := vaRange area (rows * 4 * n) ++ vaRange seals (4 * (rows * (n / 1024)))

section
variable {s t u : State} {h : Hh} {W : List Nat} {area seals n rows : Nat} {half : Nat → List Nat}

theorem vaRange_prefix (va : Nat) {m k : Nat} (h : m ≤ k) : (vaRange va m).Sublist (vaRange va k) := by
  obtain ⟨j, rfl⟩ := Nat.exists_eq_add_of_le h
  rw [vaRange_append]
  exact List.sublist_append_left _ _
theorem flatMap_sublist {α β : Type} {f g : α → List β} (h : ∀ x, (f x).Sublist (g x)) (xs : List α) :
    (xs.flatMap f).Sublist (xs.flatMap g) := by
  induction xs with
  | nil => exact List.Sublist.refl _
  | cons x xs ih => exact (h x).append ih

theorem wordsOf_le (ws : List Nat) (j : Nat) : (unElems 4 (wordsOf ws j)).length ≤ 4096 := by
  rw [unElems_length, wordsOf, List.length_take]
  omega

/-- Bytes of m rows of words. -/
theorem rows_bytes (hn : wholeRing n) (m : Nat) : m * 4 * n = 4096 * (m * (n / 1024)) :=
  calc m * 4 * n = m * 4 * (1024 * (n / 1024)) := congrArg (m * 4 * ·) hn
    _ = 4096 * (m * (n / 1024)) := by ring

/-- The blocks of an expansion lie apart in its area. -/
theorem fits_expandBlocks (hn : wholeRing n) (nd : (expandVas area seals n rows).Nodup) :
    Fits (expandVas area seals n rows) (expandBlocks area seals n rows half) := by
  have sub : ((expandBlocks area seals n rows half).flatMap CBlock.vas).Sublist
      ((List.range (rows * (n / 1024))).flatMap fun x => blockVas (area + 4096 * x) 4096 (seals + 4 * x)) := by
    rw [range_mul_flatMap, expandBlocks, List.flatMap_assoc]
    refine flatMap_sublist (fun row => ?_) _
    rw [List.flatMap_assoc]
    refine flatMap_sublist (fun j => ?_) _
    have va : area + row * 4 * n + 4096 * j = area + 4096 * (row * (n / 1024) + j) := by
      rw [rows_bytes hn]; omega
    simp only [List.flatMap_cons, List.flatMap_nil, List.append_nil, CBlock.vas, expandBlock, blockVas, vaRange_mod, va]
    exact (vaRange_prefix _ (wordsOf_le _ _)).append (List.Sublist.refl _)
  have perm : ((List.range (rows * (n / 1024))).flatMap fun x => blockVas (area + 4096 * x) 4096 (seals + 4 * x)).Perm
      (expandVas area seals n rows) := by
    rw [expandVas, rows_bytes hn]
    exact chunks_perm ..
  refine ⟨fun a ha => perm.subset (sub.subset ha), (perm.nodup_iff.2 nd).sublist sub, fun b hb => ?_⟩
  simp only [expandBlocks, List.mem_flatMap, List.mem_singleton] at hb
  obtain ⟨row, -, j, -, rfl⟩ := hb
  exact (wordsOf_le _ _).trans (by decide)

/-- An expansion lays its blocks row by row. -/
theorem expand_laid (p : PlainDest s h W) (f : Fits W (expandBlocks area seals n rows half)) :
    ∃ t, (List.range rows).foldl (fun (t : Except MErr State) row => (List.range (n / 1024)).foldl (fun t j => match t with
        | .error x => .error x
        | .ok u => hWriteBlock u h ((area + row * 4 * n + 4096 * j) % 2 ^ 64) (unElems 4 (((half row).drop (1024 * j)).take 1024))
            ((seals + 4 * (row * (n / 1024) + j)) % 2 ^ 64)) t) (.ok s) = .ok t ∧
      Laid s t h (expandBlocks area seals n rows half) := by
  refine laid_fold (emb := Except.ok) p f fun row _ t pt ft => laid_fold (emb := Except.ok) pt ft fun j _ u pu fu => ?_
  obtain ⟨v, e, lv⟩ := laid_block pu fu
  simp only [expandBlock, wordsOf] at e
  exact ⟨v, e, lv⟩
end

/- The announcement at work. -/

section
variable {s : State} {r : Rg} {l : Lease} {a : Announce}

/-- Rows of the expansion of an announcement, and the address of their seals. -/
def Announce.rows (a : Announce) : Nat := KeyHdr.digits ⟨a.header⟩ * KeyHdr.positions ⟨a.header⟩
def Announce.seals (a : Announce) (l : Lease) : Nat := a.area + a.rows * 4 * ringN l
/-- The half-limb that is regenerated for a row. -/
def Announce.half (a : Announce) (l : Lease) (row : Nat) : List Nat :=
  let k : KeyHdr := ⟨a.header⟩
  let i := row % k.positions
  let id := if i < k.limbs then i else 64 + (i - k.limbs)
  regenLimb k.seed (row / k.positions) id ((primeOfId l id).getD 2) (ringN l)
/-- The area of an announcement may not be written. -/
def Announce.bad (a : Announce) (s : State) (l : Lease) : Bool :=
  areaBad s a.hh a.area (a.rows * 4 * ringN l) || areaBad s a.hh (a.seals l) (a.rows * (ringN l / 256))

theorem expandOp_drop (on : expansionOn s r = true) (found : (regAt s r).ld.ann.find? (fun a => !a.done) = some a)
    (lease : (hhAt s a.hh).lease = some l) (bad : a.bad s l = true) : expandOp s r = raise (upReg s r fun g => { g with
      ld := { g.ld with ann := g.ld.ann.erase a, evPrexDrop := true } }) (64 + r.val) := by
  simp only [Announce.bad, Announce.seals, Announce.rows] at bad
  simp only [expandOp, on, Bool.not_true, Bool.false_eq_true, if_false, found, lease, bad, if_true, evLd, upReg_upReg, regBell]

/-- An expansion writes its area, is counted and raises the doorbell of its region. -/
theorem expandOp_done (on : expansionOn s r = true) (found : (regAt s r).ld.ann.find? (fun a => !a.done) = some a)
    (lease : (hhAt s a.hh).lease = some l) (good : a.bad s l = false) (hn : wholeRing (ringN l))
    (p : PlainDest s a.hh (expandVas a.area (a.seals l) (ringN l) a.rows)) :
    ∃ t, Laid s t a.hh (expandBlocks a.area (a.seals l) (ringN l) a.rows (a.half l)) ∧
      expandOp s r = raise (upReg t r fun g => { g with ld := { g.ld with
        ann := g.ld.ann.map fun x => if x == a then { x with done := true } else x
        regenKw := (g.ld.regenKw + a.rows * (ringN l / 1024)) % 2 ^ 32
        evPrexDone := true } }) (64 + r.val) := by
  obtain ⟨t, e, lt⟩ := expand_laid p (fits_expandBlocks hn p.nodupVas)
  refine ⟨t, lt, ?_⟩
  simp only [Announce.half, Announce.seals, Announce.rows] at e
  simp only [Announce.bad, Announce.seals, Announce.rows] at good
  simp only [expandOp, on, Bool.not_true, Bool.false_eq_true, if_false, found, lease, good, evLd, upReg_upReg, regBell]
  split
  · rename_i x failed
    cases e.symm.trans failed
  · rename_i u done
    cases e.symm.trans done
    rfl

theorem raise_db_congr {t : State} (h : t.db = s.db) (x : Nat) : (raise t x).db = (raise s x).db := by
  have pending : dbPending t x = dbPending s x := by simp only [dbPending, h]
  simp only [raise, pending, h]
  split <;> rfl

/-- What an expansion leaves: its doorbell, its counts, the blocks it has written and nothing else. -/
theorem expandOp_leaves (on : expansionOn s r = true) (found : (regAt s r).ld.ann.find? (fun a => !a.done) = some a)
    (lease : (hhAt s a.hh).lease = some l) (good : a.bad s l = false) (hn : wholeRing (ringN l))
    (p : PlainDest s a.hh (expandVas a.area (a.seals l) (ringN l) a.rows)) :
    ∃ t, exec (.prexExpansion r) s = .next t ∧ t.db = (raise s (64 + r.val)).db ∧ t.sites = s.sites ∧ t.hhs = s.hhs ∧
      (regAt t r).ld = { (regAt s r).ld with
        evPrexDone := true
        regenKw := ((regAt s r).ld.regenKw + a.rows * (ringN l / 1024)) % 2 ^ 32
        ann := (regAt s r).ld.ann.map fun x => if x = a then { x with done := true } else x } ∧
      (∀ row < a.rows, (a.half l row).length = ringN l → ∀ j < ringN l / 1024, hReadBlock t a.hh
        ((a.area + row * 4 * ringN l + 4096 * j) % 2 ^ 64) 4096 ((a.seals l + 4 * (row * (ringN l / 1024) + j)) % 2 ^ 64) =
          .ok (unElems 4 (wordsOf (a.half l row) j))) ∧
      ∀ b, b ∉ (expandVas a.area (a.seals l) (ringN l) a.rows).map (cpaOf s a.hh) →
        cGet t b = cGet s b ∧ poisoned t b = poisoned s b := by
  obtain ⟨t, lt, e⟩ := expandOp_done on found lease good hn p
  have fits := fits_expandBlocks (half := a.half l) hn p.nodupVas
  have pt := lt.plain p fits
  have at' {β : Type} (f : State → β) (hf : ∀ u, f (offCellar u) = f u) : f t = f s := by
    rw [← hf, lt.stored.frame, hf]
  refine ⟨_, congrArg Host.Outcome.next e, ?_, ?_, ?_, ?_, fun row hrow hl j hj => ?_, fun b hb => ?_⟩
  · refine raise_db_congr ?_ _
    exact at' (·.db) fun _ => rfl
  · exact (raise_sites ..).trans (at' (·.sites) fun _ => rfl)
  · exact (raise_hhs ..).trans (at' (·.hhs) fun _ => rfl)
  · rw [regAt_raise, regAt_upReg, if_pos rfl, at' (regAt · r) fun _ => rfl]
    simp only [beq_iff_eq]
  · have mem : expandBlock a.area (a.seals l) (ringN l) (a.half l) row j ∈ expandBlocks a.area (a.seals l) (ringN l) a.rows (a.half l) :=
      List.mem_flatMap.2 ⟨row, List.mem_range.2 hrow, List.mem_flatMap.2 ⟨j, List.mem_range.2 hj, List.mem_singleton_self _⟩⟩
    generalize hu : raise _ _ = u
    have hc : u.cellar = t.cellar := by rw [← hu, raise_cellar]; rfl
    obtain ⟨pu, -, bytes⟩ := pt.same hc (by rw [← hu, raise_hhs]; rfl) (by rw [← hu, raise_selBase]; rfl)
    obtain ⟨b1, b2⟩ := lt.blocks _ mem
    have read := hReadBlock_sealed pu (fun _ ha => fits.sub (List.mem_flatMap.2 ⟨_, mem, ha⟩)) ⟨bytes ▸ b1, bytes ▸ b2⟩
    rw [expandBlock, unElems_wordsOf_length hl hj] at read
    exact read
  · have off := lt.stored.mono fits.sub
    generalize hu : raise _ _ = u
    have hc : u.cellar = t.cellar := by rw [← hu, raise_cellar]; rfl
    refine ⟨?_, ?_⟩
    · rw [cGet, place, hc]; exact off.off b hb
    · rw [poisoned, place, hc]; exact off.poisoned b
end

end Sys2Proof.Machine
end

section
/-! PROOFS. Blocks of a key in the windows of the subscribers of a STREAM (R222, R233, R239). -/

namespace Sys2Proof.Machine

/- Updates of several sites. -/

section
variable {s t : State} {is : List Site} {f g : SiteSt → SiteSt}

/-- State s with f on each of the sites. -/
def atSites (s : State) (is : List Site) (f : SiteSt → SiteSt) : State := is.foldl (fun t i => upSite t i f) s

theorem atSites_frame (s : State) (is : List Site) (f : SiteSt → SiteSt) : ∃ v, atSites s is f = { s with sites := v } := by
  induction is generalizing s with
  | nil => exact ⟨s.sites, rfl⟩
  | cons i is ih =>
    obtain ⟨v, e⟩ := ih (upSite s i f)
    exact ⟨v, e.trans rfl⟩
theorem regAt_atSites (s : State) (is : List Site) (f : SiteSt → SiteSt) (r : Rg) : regAt (atSites s is f) r = regAt s r := by
  obtain ⟨v, e⟩ := atSites_frame s is f
  rw [e]; rfl
theorem siteAt_atSites (nd : is.Nodup) (s : State) (f : SiteSt → SiteSt) (j : Site) :
    siteAt (atSites s is f) j = if j ∈ is then f (siteAt s j) else siteAt s j := by
  induction is generalizing s with
  | nil => rfl
  | cons i is ih =>
    obtain ⟨hi, nd⟩ := List.nodup_cons.1 nd
    refine (ih nd (upSite s i f)).trans ?_
    rw [siteAt_upSite]
    by_cases hj : j = i
    · subst hj; simp [hi]
    · simp [hj, Ne.symm hj]
/-- A loop over sites that does f on each, as it finds it. -/
theorem foldl_atSites {step : State → Site → State} (nd : is.Nodup)
    (turn : ∀ i ∈ is, ∀ t, siteAt t i = siteAt s i → step t i = upSite t i f) : is.foldl step s = atSites s is f := by
  induction is generalizing s with
  | nil => rfl
  | cons i is ih =>
    obtain ⟨hi, nd⟩ := List.nodup_cons.1 nd
    rw [List.foldl_cons, turn i List.mem_cons_self s rfl]
    refine ih nd fun j hj t ht => turn j (List.mem_cons_of_mem _ hj) t ?_
    rw [ht, siteAt_upSite, if_neg]
    rintro rfl
    exact hi hj
end

/- The window of a subscriber. -/

section
variable {s t : State} {h : Hh} {w : Fin 4} {base b : Nat} {c c' : SiteSt} {blk : Nat → List Byte} {x : KWin}

/-- Window w of household h changed by f. -/
def withWin (h : Hh) (w : Fin 4) (f : KWin → KWin) (c : SiteSt) : SiteSt :=
  { c with sets := vmod c.sets h fun t => { t with wins := vmod t.wins w f } }
theorem withWin_win (h : Hh) (w : Fin 4) (f : KWin → KWin) (c : SiteSt) :
    ((withWin h w f c).sets.get h).wins.get w = f ((c.sets.get h).wins.get w) := by simp [withWin]
theorem upWin_eq (s : State) (i : Site) (h : Hh) (w : Fin 4) (f : KWin → KWin) : upWin s i h w f = upSite s i (withWin h w f) := rfl

/-- A block that enters the window of a subscriber. -/
def takeBlock (h : Hh) (w : Fin 4) (a : Nat) (bs : List Byte) (c : SiteSt) : SiteSt :=
  withWin h w (fun x => { x with fill := x.fill + 1 }) (pStoreBlock c a bs none)

/-- A site c' that was c when its window, at `base`, was x: it has taken the first b blocks of a key. -/
structure HasTaken (c c' : SiteSt) (h : Hh) (w : Fin 4) (x : KWin) (base b : Nat) (blk : Nat → List Byte) : Prop where
  mem : pantryOk c'
  win : (c'.sets.get h).wins.get w = { x with fill := b }
  hqs : (c'.sets.get h).hqs = (c.sets.get h).hqs
  blocks : ∀ j < b, spRead 0 c'.pantry (base + 4096 * j) 4096 = blk j ∧ spGet 0 c'.seals ((base + 4096 * j) / 128) = blockSeal (blk j)
  off : ∀ y, (y < base ∨ base + 4096 * b ≤ y) → spGet 0 c'.pantry y = spGet 0 c.pantry y

theorem HasTaken.zero (mem : pantryOk c) (win : (c.sets.get h).wins.get w = x) (fill : x.fill = 0) :
    HasTaken c c h w x base 0 blk :=
  ⟨mem, by rw [win, ← fill], rfl, fun j hj => absurd hj (Nat.not_lt_zero j), fun _ _ => rfl⟩

theorem HasTaken.next (p : HasTaken c c' h w x base b blk) (size : (blk b).length = 4096) :
    HasTaken c (takeBlock h w (base + 4096 * b) (blk b) c') h w x base (b + 1) blk := by
  have byte (y : Nat) : spGet 0 (takeBlock h w (base + 4096 * b) (blk b) c').pantry y =
      if base + 4096 * b ≤ y ∧ y < base + 4096 * b + 4096 then (blk b).getD (y - (base + 4096 * b)) 0 else spGet 0 c'.pantry y := by
    have stored := pStoreBlock_byte (a := base + 4096 * b) (x := y) (bs := blk b) (r := none) p.mem
    rw [size] at stored
    exact stored
  have slot (y : Nat) : spGet 0 (takeBlock h w (base + 4096 * b) (blk b) c').seals y =
      if (base + 4096 * b) / 128 = y then blockSeal (blk b) else spGet 0 c'.seals y :=
    pStoreBlock_seal (r := none) p.mem
  have win : ((takeBlock h w (base + 4096 * b) (blk b) c').sets.get h).wins.get w = { x with fill := b + 1 } := by
    simp [takeBlock, withWin, pStoreBlock, p.win]
  have hqs : ((takeBlock h w (base + 4096 * b) (blk b) c').sets.get h).hqs = (c'.sets.get h).hqs := by
    simp [takeBlock, withWin, pStoreBlock]
  refine ⟨pStoreBlock_ok p.mem none, win, hqs.trans p.hqs, fun j hj => ?_, fun y hy => ?_⟩
  · by_cases hb : j = b
    · subst hb
      refine ⟨List.ext_getElem (by rw [spRead_length, size]) fun n h1 h2 => ?_, by rw [slot, if_pos rfl]⟩
      simp only [spRead, List.getElem_map, List.getElem_range, byte]
      rw [if_pos (by omega), Nat.add_sub_cancel_left, List.getD_eq_getElem _ _ h2]
    · obtain ⟨b1, b2⟩ := p.blocks j (by omega)
      refine ⟨?_, by rw [slot, if_neg (by omega), b2]⟩
      rw [← b1]
      refine List.map_congr_left fun n hn => ?_
      have := List.mem_range.1 hn
      rw [byte, if_neg (by omega)]
  · rw [byte, if_neg (by omega), p.off y (by omega)]
end

end Sys2Proof.Machine
end

section
/-! PROOFS. The body of a STREAM: each block enters the windows of the bound subscribers (R236, R239, R243, R244). -/

namespace Sys2Proof.Machine

/- Form and subscribers. -/

section
variable {s : State} {r : Rg} {e : Entry} {l : Lease} {va iv f m : Nat} {d : Tensor}

theorem strLevel_imm (opB : e.opB = .imm iv) : strLevel e = iv % 2 ^ 7 := by simp [strLevel, opB]

/-- A STREAM whose fields pass. -/
theorem streamForm_ok (lease : (hhAt s e.hh).lease = some l) (opA : e.opA = .desc va) (opB : e.opB = .imm iv) (opD : e.opD = .pantry d f)
    (low : e.cmd.mod % 2 ^ 7 = 0) (gap : e.cmd.mod / 2 ^ 21 % 2 ^ 5 = 0) (imm : iv / 2 ^ 7 % 2 ^ 9 = 0) (named : e.cmd.mod / 2 ^ 28 % 16 ≠ 0)
    (owned : (ownedSubs s r e).length = popCount 4 (e.cmd.mod / 2 ^ 28 % 16)) (lv0 : 0 < iv % 2 ^ 7) (lvL : iv % 2 ^ 7 ≤ l.primes.length)
    (posN : 0 < e.cmd.mod / 2 ^ 7 % 2 ^ 7) (top : e.cmd.mod / 2 ^ 14 % 2 ^ 7 + e.cmd.mod / 2 ^ 7 % 2 ^ 7 ≤ iv % 2 ^ 7 + l.specials.length) :
    streamForm s r e = .ok (l, va, iv, d) := by
  have posN0 : strPosN e.cmd ≠ 0 := Nat.ne_of_gt posN
  have top' : ¬ strPos0 e.cmd + strPosN e.cmd > iv % 2 ^ 7 + l.specials.length := Nat.not_lt.2 top
  have lv1 : ¬ iv % 2 ^ 7 = 0 := Nat.ne_of_gt lv0
  have lv2 : ¬ iv % 2 ^ 7 > l.primes.length := Nat.not_lt.2 lvL
  have low' : e.cmd.mod % 128 = 0 := low
  have gap' : bits e.cmd.mod 21 5 = 0 := gap
  have imm' : bits iv 7 9 = 0 := imm
  have mask : ¬ bits e.cmd.mod 28 4 = 0 := named
  have count : (ownedSubs s r e).length = popCount 4 (bits e.cmd.mod 28 4) := owned
  simp only [streamForm, lease, opA, opB, opD, strLevel_imm opB, low', gap', imm', mask, count, posN0, top', lv1, lv2, ne_eq,
    not_true_eq_false, decide_false, Bool.or_self, Bool.false_eq_true, if_false]

/-- The sites of the bound clusters are those of the bound subscribers. -/
theorem boundSites (known : ∀ j : Fin 4, m.testBit j.val = true → ∃ x ∈ ownedSubs s r e, x.1 = j) :
    (((List.finRange 4).filter fun j => m.testBit j.val).filterMap fun c => siteOf s (clusterOf r c)) =
      ((ownedSubs s r e).filter fun x => m.testBit x.1.val).map (·.2.2) := by
  rw [ownedSubs, streamSubs, List.filter_filterMap, List.filter_filterMap, List.map_filterMap, List.filterMap_filter]
  refine List.filterMap_congr fun j _ => ?_
  by_cases hj : m.testBit j.val = true
  · obtain ⟨x, hx, rfl⟩ := known j hj
    simp only [ownedSubs, streamSubs, List.mem_filter, List.mem_filterMap] at hx
    obtain ⟨⟨j, -, named⟩, held⟩ := hx
    split at named
    · rename_i bit
      obtain ⟨i, hi, rfl⟩ := Option.map_eq_some_iff.1 named
      simp [bit, hi, hj, held]
    · cases named
  · rw [if_neg hj, eq_comm, Option.map_eq_none_iff, Option.filter_eq_none_iff]
    intro x hx
    obtain ⟨hx, -⟩ := Option.filter_eq_some_iff.1 hx
    split at hx
    · obtain ⟨i, -, rfl⟩ := Option.map_eq_some_iff.1 hx
      simpa using hj
    · cases hx
end

/- A block on its way. -/

theorem hRead_pages {s : State} {h : Hh} {agent : Bool} {acc : Acc} {va n : Nat} {bs : List Byte}
    (e : hRead s h agent acc va n = .ok bs) : xlateRange s h agent acc va n = none := by
  simp only [hRead] at e
  split at e
  · cases e
  · assumption
/-- A block that is read has its pages and those of its seal. -/
theorem hReadBlock_pages {s : State} {h : Hh} {va n sl : Nat} {bs : List Byte} (e : hReadBlock s h va n sl = .ok bs) :
    xlateRange s h true .read va n = none ∧ xlateRange s h true .read sl 4 = none := by
  unfold hReadBlock at e
  split at e
  · cases e
  · rename_i block
    split at e
    · cases e
    · rename_i slot
      exact ⟨hRead_pages block, hRead_pages slot⟩

section
variable {s t : State} {r : Rg} {e : Entry} {l : Lease} {va b : Nat} {k : KeyHdr} {d : Tensor} {bound : List (Fin 4)} {is : List Site}
  {sl : Vector LdSlot 4} {blk : Nat → List Byte}

/-- State t is s but for sites and the larder of region r, of which commands and announcements stand and the
slots are `sl`. -/
structure LarderOnly (s t : State) (r : Rg) (sl : Vector LdSlot 4) : Prop where
  frame : t = { s with sites := t.sites, regions := t.regions }
  larder : (regAt t r).larder = (regAt s r).larder
  slots : (regAt t r).ld.slots = sl
  ann : (regAt t r).ld.ann = (regAt s r).ld.ann

/-- Block b of a key: read where it is stored, or regenerated from the seed. -/
def blockComes (s : State) (r : Rg) (e : Entry) (l : Lease) (va : Nat) (k : KeyHdr) (blk : Nat → List Byte) (b : Nat) : Prop :=
  match streamSrc s r e l va k b with
  | .stored a sl => hReadBlock s e.hh a 4096 sl = .ok (blk b)
  | .regen =>
    let nb := ringN l / 1024
    let (dg, _, p) := streamPos e.cmd nb b
    blk b = unElems 4 (((regenLimb k.seed dg (limbId (strLevel e) p) ((primeOfId l (limbId (strLevel e) p)).getD 2) (ringN l)).drop
      (1024 * (b % nb))).take 1024) ∧ (blk b).length = 4096

/-- The bound sites have taken the first b blocks, the other sites stand. -/
structure Streamed (s t : State) (r : Rg) (sl : Vector LdSlot 4) (e : Entry) (d : Tensor) (is : List Site) (blk : Nat → List Byte)
    (b : Nat) : Prop extends LarderOnly s t r sl where
  on : ∀ i ∈ is, HasTaken (siteAt s i) (siteAt t i) e.hh (strWin e.cmd) (winOf s i e.hh (strWin e.cmd)) d.base b blk
  off : ∀ i, i ∉ is → siteAt t i = siteAt s i

theorem LarderOnly.streamSrc (p : LarderOnly s t r sl) : streamSrc t r e l va k b = streamSrc s r e l va k b := by
  simp only [Machine.streamSrc, preExpanded, p.ann]
theorem LarderOnly.memory (p : LarderOnly s t r sl) : hReadBlock t = hReadBlock s ∧ xlateRange t = xlateRange s ∧ siteOf t = siteOf s := by
  rw [p.frame]
  exact ⟨rfl, rfl, rfl⟩
theorem LarderOnly.upReg (p : LarderOnly s t r sl) {f : RegionSt → RegionSt}
    (hf : ∀ g, (f g).larder = g.larder ∧ (f g).ld.slots = g.ld.slots ∧ (f g).ld.ann = g.ld.ann) :
    LarderOnly s (upReg t r f) r sl := by
  obtain ⟨h1, h2, h3⟩ := hf (regAt t r)
  have frame : Machine.upReg t r f = { s with sites := t.sites, regions := (Machine.upReg t r f).regions } := by
    conv_lhs => rw [p.frame]
    rfl
  refine ⟨frame, ?_, ?_, ?_⟩ <;> rw [regAt_upReg, if_pos rfl]
  · exact h1.trans p.larder
  · exact h2.trans p.slots
  · exact h3.trans p.ann
theorem LarderOnly.tickFresh (p : LarderOnly s t r sl) : LarderOnly (tickFresh s) (tickFresh t) r sl := by
  refine ⟨?_, p.larder, p.slots, p.ann⟩
  conv_lhs => rw [p.frame]
  rfl
/-- The slots of a command change. -/
theorem LarderOnly.upSlot (p : LarderOnly s t r sl) (e : Entry) (f : LdSlot → LdSlot) : LarderOnly s (upSlot t r e f) r
    (sl.map fun x => if x.active && x.hh == e.hh.val && x.seq == e.seq then f x else x) := by
  have frame : Machine.upSlot t r e f = { s with sites := t.sites, regions := (Machine.upSlot t r e f).regions } := by
    conv_lhs => rw [p.frame]
    rfl
  refine ⟨frame, ?_, ?_, ?_⟩ <;> rw [Machine.upSlot, regAt_upReg, if_pos rfl]
  · exact p.larder
  · exact congrArg (Vector.map _) p.slots
  · exact p.ann
theorem LarderOnly.atSites (p : LarderOnly s t r sl) (is : List Site) (f : SiteSt → SiteSt) : LarderOnly s (atSites t is f) r sl := by
  obtain ⟨v, e⟩ := atSites_frame t is f
  refine ⟨?_, ?_, ?_, ?_⟩
  · rw [e]
    conv_lhs => rw [p.frame]
  all_goals rw [regAt_atSites]
  · exact p.larder
  · exact p.slots
  · exact p.ann

/-- The window of a bound site stays BOUND. -/
theorem Streamed.winBound {u : State} {i : Site} (p : Streamed s t r sl e d is blk b)
    (state : ∀ i ∈ is, (winOf s i e.hh (strWin e.cmd)).state = .bound) (hi : i ∈ is) (same : siteAt u i = siteAt t i) :
    (winOf u i e.hh (strWin e.cmd)).state = .bound := by
  rw [winOf, setAt, same, (p.on i hi).win]
  exact state i hi

/-- A block delivered. -/
theorem deliver_streamed (p : Streamed s t r sl e d is blk b) (nd : is.Nodup)
    (sites : (bound.filterMap fun c => siteOf s (clusterOf r c)) = is)
    (state : ∀ i ∈ is, (winOf s i e.hh (strWin e.cmd)).state = .bound) (size : (blk b).length = 4096) :
    Streamed s (deliver t r e d bound b (blk b)) r sl e d is blk (b + 1) := by
  obtain ⟨-, -, at'⟩ := p.toLarderOnly.memory
  have loop : is.foldl (fun t i => if (winOf t i e.hh (strWin e.cmd)).state == .bound then
      upWin (upSite t i fun c => pStoreBlock c (d.base + 4096 * b) (blk b) none) i e.hh (strWin e.cmd) fun x => { x with fill := x.fill + 1 }
      else t) t = Machine.atSites t is (takeBlock e.hh (strWin e.cmd) (d.base + 4096 * b) (blk b)) := by
    refine foldl_atSites nd fun i hi u hu => ?_
    rw [p.winBound state hi hu, if_pos (by rfl), upWin_eq]
    simp only [upSite, vmod_vmod]
    rfl
  have all := (p.toLarderOnly.atSites is (takeBlock e.hh (strWin e.cmd) (d.base + 4096 * b) (blk b)))
  simp only [deliver, at', sites, loop]
  refine ⟨all.upReg fun _ => ⟨rfl, rfl, rfl⟩, fun i hi => ?_, fun i hi => ?_⟩
  · rw [siteAt_upReg, siteAt_atSites nd, if_pos hi]
    exact (p.on i hi).next size
  · rw [siteAt_upReg, siteAt_atSites nd, if_neg hi]
    exact p.off i hi
end

end Sys2Proof.Machine
end

section
/-! PROOFS. The end of a STREAM: all blocks have gone to the subscribers, the windows are FILLED and the hand-offs pushed
(R239, R242, R252). -/

namespace Sys2Proof.Machine

/-- Blocks that all move. -/
theorem moveBlocks_all {f : State → Nat → State × Option BlkStop} {P : State → Nat → Prop} {n : Nat} {s : State} {lo : Nat}
    (turn : ∀ b, lo ≤ b → b < lo + n → ∀ t, P t b → ∃ u, f t b = (u, none) ∧ P u (b + 1)) (start : P s lo) :
    ∃ u, moveBlocks f n s lo = (u, lo + n, none) ∧ P u (lo + n) := by
  induction n generalizing s lo with
  | zero => exact ⟨s, rfl, start⟩
  | succ n ih =>
    obtain ⟨t, e, pt⟩ := turn lo (Nat.le_refl _) (by omega) s start
    obtain ⟨u, e', pu⟩ := ih (fun b h1 h2 => turn b (by omega) (by omega)) pt
    exact ⟨u, by simp only [moveBlocks, e, e']; congr 2; omega, by rwa [show lo + (n + 1) = lo + 1 + n by omega]⟩

section
variable {s t : State} {r : Rg} {e : Entry} {l : Lease} {va b f : Nat} {k : KeyHdr} {d : Tensor} {bound : List (Fin 4)} {is : List Site}
  {sl : Vector LdSlot 4} {blk : Nat → List Byte}

/-- Each block is delivered. -/
theorem streamBlock_streamed (p : Streamed s t r sl e d is blk b) (nd : is.Nodup)
    (sites : (bound.filterMap fun c => siteOf s (clusterOf r c)) = is)
    (state : ∀ i ∈ is, (winOf s i e.hh (strWin e.cmd)).state = .bound) (comes : blockComes s r e l va k blk b) :
    ∃ u, streamBlock r e l va k d bound t b = (u, none) ∧ Streamed s u r sl e d is blk (b + 1) := by
  obtain ⟨block, pages, -⟩ := p.toLarderOnly.memory
  simp only [streamBlock, p.toLarderOnly.streamSrc, block, pages]
  unfold blockComes at comes
  cases src : streamSrc s r e l va k b with
  | stored a sl =>
    simp only [src] at comes ⊢
    obtain ⟨p1, p2⟩ := hReadBlock_pages comes
    simp only [p1, p2, comes]
    exact ⟨_, rfl, deliver_streamed p nd sites state (hReadBlock_length comes)⟩
  | regen =>
    simp only [src] at comes ⊢
    obtain ⟨eq, size⟩ := comes
    rw [← eq]
    obtain ⟨all, on, off⟩ := deliver_streamed p nd sites state size
    exact ⟨_, rfl, all.upReg fun _ => ⟨rfl, rfl, rfl⟩, on, off⟩

/-- A filled window. -/
def fillWin (x : KWin) : KWin := { x with state := .filled, seen := [] }
/-- The hand-off queue of a command. -/
def hqOf (e : Entry) : Fin 8 := ⟨e.cmd.hq, Nat.mod_lt _ (by decide)⟩
theorem hqOf_eq (e : Entry) (h : e.cmd.hq % 8 < 8) : (⟨e.cmd.hq % 8, h⟩ : Fin 8) = hqOf e := Fin.ext (Nat.mod_mod _ 8)
/-- A hand-off entry that a STREAM pushes. -/
def takeHandoff (e : Entry) (f : Nat) (c : SiteSt) : SiteSt :=
  { c with sets := vmod c.sets e.hh fun t => { t with hqs := vmod t.hqs (hqOf e) fun q => q ++ [f] } }

theorem pushHandoff_eq (opD : e.opD = .pantry d f) (s : State) (i : Site) :
    pushHandoff s i e = if e.cmd.handoff then upSite s i (takeHandoff e f) else s := by
  unfold pushHandoff
  cases e.cmd.handoff with
  | false => rfl
  | true => simp only [opD, if_true]; rfl

/-- State u is t but for the waits of region r, and the command changed by g in its queue. -/
structure EntryOnly (t u : State) (r : Rg) (e : Entry) (g : Entry → Entry) : Prop where
  cellar : u.cellar = t.cellar
  sites : u.sites = t.sites
  slots : (regAt u r).ld.slots = (regAt t r).ld.slots
  ents : (regAt u r).larder.ents = changed (regAt t r).larder.ents e g

/-- A STREAM waits at block b for room in a hand-off queue. -/
theorem stallNote_entryOnly (t : State) (r : Rg) (e : Entry) (g : Entry → Entry) (c : Fin 10) :
    EntryOnly t (stallNote (upEntry t (.larder r) e.hh e.seq g) (.larder r) e.hh c) r e g := by
  rw [upEntry_larder]
  have at' (u : State) (n : Nat) : regAt (tickFresh (upReg u r fun x => { x with ldStall := addStall x.ldStall c n })) r =
      { regAt u r with ldStall := addStall (regAt u r).ldStall c n } := (regAt_upReg ..).trans (if_pos rfl)
  refine ⟨rfl, rfl, ?_, ?_⟩ <;> simp only [stallNote, stallFor, at', regAt_upReg, if_true]
theorem moveEnd_entryOnly (t : State) (r : Rg) (e : Entry) (b : Nat) :
    EntryOnly t (moveEnd t (.larder r) e b none) r e fun x => overWith { x with pos := b } stOk 0 0 := by
  simp only [moveEnd, upEntry_larder, endEntry_larder, upReg_upReg]
  refine ⟨rfl, rfl, ?_, ?_⟩ <;> rw [regAt_upReg, if_pos rfl]
  exact changed_changed (e := e) (g := fun x => { x with pos := b }) (g' := fun x => overWith x stOk 0 0) (fun _ => ⟨rfl, rfl⟩) _

/-- State t with the windows of the bound sites FILLED. -/
def filledAt (t : State) (e : Entry) (is : List Site) : State := atSites t is (withWin e.hh (strWin e.cmd) fillWin)
/-- A hand-off queue is full in which the STREAM pushes. -/
def handoffsFull (s : State) (e : Entry) (is : List Site) : Prop :=
  e.cmd.handoff = true ∧ ∃ i ∈ is, 16 ≤ ((setAt s i e.hh).hqs.get (hqOf e)).length

theorem handoffsFull_map {α : Type} (s : State) (e : Entry) (g : α → Site) (xs : List α) : handoffsFull s e (xs.map g) ↔
    e.cmd.handoff = true ∧ ∃ x ∈ xs, 16 ≤ ((setAt s (g x) e.hh).hqs.get (hqOf e)).length := by
  simp [handoffsFull]

/-- The last step of a STREAM: it waits for room in the hand-off queues, or pushes and ends. -/
theorem streamDone_leaves (p : Streamed s t r sl e d is blk b) (opD : e.opD = .pantry d f) (nd : is.Nodup)
    (sites : (bound.filterMap fun c => siteOf s (clusterOf r c)) = is)
    (state : ∀ i ∈ is, (winOf s i e.hh (strWin e.cmd)).state = .bound) :
    (handoffsFull s e is → EntryOnly (filledAt t e is) (streamDone t r e bound b) r e fun x => { x with pos := b }) ∧
    (¬ handoffsFull s e is → EntryOnly (if e.cmd.handoff then atSites (filledAt t e is) is (takeHandoff e f) else filledAt t e is)
      (streamDone t r e bound b) r e fun x => overWith { x with pos := b } stOk 0 0) := by
  obtain ⟨-, -, at'⟩ := p.toLarderOnly.memory
  have loop : is.foldl (fun t i => if (winOf t i e.hh (strWin e.cmd)).state == .bound then
      upWin t i e.hh (strWin e.cmd) fun y => { y with state := .filled, seen := [] } else t) t = filledAt t e is := by
    refine foldl_atSites nd fun i hi v hv => ?_
    rw [p.winBound state hi hv, if_pos (by rfl), upWin_eq]
    rfl
  have queue (i : Site) (hi : i ∈ is) : (setAt (filledAt t e is) i e.hh).hqs = (setAt s i e.hh).hqs := by
    rw [filledAt, setAt, siteAt_atSites nd, if_pos hi]
    simpa [withWin, setAt] using (p.on i hi).hqs
  have full : (is.any (handoffFull (filledAt t e is) e) = true) ↔ handoffsFull s e is := by
    simp only [List.any_eq_true, handoffFull, Bool.and_eq_true, decide_eq_true_eq, handoffsFull, ge_iff_le, hqOf_eq]
    constructor
    · rintro ⟨i, hi, on, long⟩
      exact ⟨on, i, hi, queue i hi ▸ long⟩
    · rintro ⟨on, i, hi, long⟩
      exact ⟨i, hi, on, (queue i hi).symm ▸ long⟩
  have push : is.foldl (fun t i => pushHandoff t i e) (filledAt t e is) =
      if e.cmd.handoff then atSites (filledAt t e is) is (takeHandoff e f) else filledAt t e is := by
    simp only [pushHandoff_eq opD]
    split
    · rfl
    · exact List.foldl_fixed' (fun _ => rfl) is
  constructor <;> intro h <;> simp only [streamDone, at', sites, loop, push]
  · rw [if_pos (full.2 h)]
    exact stallNote_entryOnly ..
  · rw [if_neg (h ∘ full.1)]
    exact moveEnd_entryOnly ..
end

end Sys2Proof.Machine
end

section
/-! PROOFS. STREAM from its header to its end (R236-R244, R251, R252). -/

namespace Sys2Proof.Machine

section
variable {s t s' t' : State} {r : Rg} {e : Entry} {l : Lease} {va b f total : Nat} {k : KeyHdr} {d : Tensor} {bound : List (Fin 4)}
  {is : List Site} {sl sl' : Vector LdSlot 4} {blk : Nat → List Byte}

theorem Streamed.of (p : Streamed s t r sl e d is blk b) (q : LarderOnly s' t' r sl') (hs : s'.sites = s.sites) (ht : t'.sites = t.sites) :
    Streamed s' t' r sl' e d is blk b := by
  have at_s (i : Site) : siteAt s' i = siteAt s i := by rw [siteAt, siteAt, hs]
  have at_t (i : Site) : siteAt t' i = siteAt t i := by rw [siteAt, siteAt, ht]
  refine ⟨q, fun i hi => ?_, fun i hi => ?_⟩
  · rw [at_t, at_s, winOf, setAt, at_s]
    exact p.on i hi
  · rw [at_t, at_s]
    exact p.off i hi

/-- Slots of a command of a larder changed by f. -/
def slotsOf (e : Entry) (f : LdSlot → LdSlot) (sl : Vector LdSlot 4) : Vector LdSlot 4 :=
  sl.map fun x => if x.active && x.hh == e.hh.val && x.seq == e.seq then f x else x
theorem slotsOf_eq (e : Entry) (f : LdSlot → LdSlot) (sl : Vector LdSlot 4) :
    slotsOf e f sl = sl.map fun x => if x.active = true ∧ x.hh = e.hh.val ∧ x.seq = e.seq then f x else x := by
  simp [slotsOf, and_assoc]

/-- The body of a STREAM whose blocks have all been read goes to the bound sites. -/
theorem streamBody_streamed (nd : is.Nodup) (sites : (bound.filterMap fun c => siteOf s (clusterOf r c)) = is)
    (mem : ∀ i ∈ is, pantryOk (siteAt s i)) (state : ∀ i ∈ is, (winOf s i e.hh (strWin e.cmd)).state = .bound)
    (fill : ∀ i ∈ is, (winOf s i e.hh (strWin e.cmd)).fill = 0) (pos : e.pos = 0) (all : total = streamCount l e k)
    (read : ∀ b < total, blockRead s (.larder r) e (bodyFeed s r e l va k) b = true)
    (comes : ∀ b < total, blockComes s r e l va k blk b) : ∃ t,
      Streamed (tickFresh s) t r (slotsOf e (fun y => { y with left := 0 }) (regAt s r).ld.slots) e d is blk total ∧
      streamBody s r e l va k d bound = streamDone t r e bound total := by
  have start : Streamed s s r (regAt s r).ld.slots e d is blk 0 :=
    ⟨⟨rfl, rfl, rfl, rfl⟩, fun i hi => .zero (mem i hi) rfl (fill i hi), fun _ _ => rfl⟩
  obtain ⟨t, et, pt⟩ := moveBlocks_all (f := streamBlock r e l va k d bound) (n := total)
    (fun b _ hb t p => streamBlock_streamed p nd sites state (comes b (by omega))) start
  rw [Nat.zero_add] at et pt
  have run : readyRun (blockRead s (.larder r) e (bodyFeed s r e l va k)) total 0 = total := readyRun_all read
  have go : ¬ total < total := Nat.lt_irrefl _
  simp only [streamBody, ← all, pos, run, et, go, if_false, Nat.sub_self]
  refine ⟨_, ?_, rfl⟩
  refine pt.of ((LarderOnly.upReg pt.toLarderOnly ?_).tickFresh.upSlot e _) rfl rfl
  exact fun _ => ⟨rfl, rfl, rfl⟩

variable {iv m : Nat} {bs : List Byte}

/-- A bound STREAM goes on with its body. -/
theorem streamOp_body (run : runningEntry s (.larder r) 0xC1 = some e) (form : streamForm s r e = .ok (l, va, iv, d))
    (held : e.held = bs ++ leBytes 1 m) (hb : bs.length = 256) (hm : m < 256)
    (served : ∀ x ∈ ownedSubs s r e, serves s x.2.2 e.hh = true) :
    streamOp s r = streamBody s r e l va ⟨bs⟩ d ((List.finRange 4).filter fun j => m.testBit j.val) := by
  have long : e.held.length = 257 := by rw [held, List.length_append, hb, leBytes_length]
  have mask : leAt e.held 256 1 = m := by
    rw [held, leAt, slice, List.drop_left' hb, List.take_of_length_le (by rw [leBytes_length]), leBytes_length]
    simpa [leNat_leBytes] using hm
  have head : e.held.take 256 = bs := by rw [held, List.take_left' hb]
  have all : ((ownedSubs s r e).any fun x => !serves s x.2.2 e.hh) = false := by
    simpa using served
  simp only [streamOp, run, form, long, if_true, mask, head, all, Bool.false_eq_true, if_false]

/-- A STREAM whose header has been read and passes binds its subscribers. -/
theorem streamOp_header (run : runningEntry s (.larder r) 0xC1 = some e) (form : streamForm s r e = .ok (l, va, iv, d))
    (held : e.held = []) (arrived : blockRead s (.larder r) e (headerFeed s e.hh va) 0 = true)
    (read : hRead s e.hh true .read va 256 = .ok bs) (ok : keyCheck l va ⟨bs⟩ (some (strLevel e)) = none) (range : wholeRange d = true)
    (shape : d.inner = ringN l ∧ d.c1 = strPosN e.cmd ∧ d.c2 = 2 * cdiv (strLevel e) (KeyHdr.alpha ⟨bs⟩)) :
    streamOp s r = streamBind s r e l va bs d := by
  obtain ⟨inner, c1, c2⟩ := shape
  have short : ¬ e.held.length = 257 := by simp [held]
  have wide : (d.inner ≠ ringN l || d.c1 ≠ strPosN e.cmd || d.c2 ≠ 2 * cdiv (strLevel e) (KeyHdr.alpha ⟨bs⟩)) = false := by
    simp [inner, c1, c2]
  simp only [streamOp, run, form, short, if_false, arrived, Bool.not_true, Bool.false_eq_true, hRead_pages read, read, ok, range, wide]

/- Binding. -/

/-- A bound window. -/
def bindWin (x : KWin) : KWin := { x with state := .bound, fill := 0 }

/-- Every subscriber that agrees with the key is bound. -/
theorem bindOne_all (xs : List (Fin 4 × Gl × Site)) (nd : (xs.map (·.2.2)).Nodup) {s : State} {bound : List (Fin 4)}
    (agree : ∀ x ∈ xs, consumerCheck (winOf s x.2.2 e.hh (strWin e.cmd)) d k (strLevel e) = none) :
    xs.foldl (bindOne r e d k) (s, bound, none, false) =
      (atSites s (xs.map (·.2.2)) (withWin e.hh (strWin e.cmd) bindWin), bound ++ xs.map (·.1), none, false) := by
  induction xs generalizing s bound with
  | nil => simp [atSites]
  | cons x xs ih =>
    obtain ⟨hx, nd⟩ := List.nodup_cons.1 nd
    have one : bindOne r e d k (s, bound, none, false) x =
        (upSite s x.2.2 (withWin e.hh (strWin e.cmd) bindWin), bound ++ [x.1], none, false) := by
      simp only [bindOne, Bool.false_eq_true, if_false, agree x List.mem_cons_self]
      rfl
    rw [List.foldl_cons, one, ih nd fun y hy => ?_]
    · simp [atSites]
    · have apart : x.2.2 ≠ y.2.2 := fun same => hx (List.mem_map.2 ⟨y, hy, same.symm⟩)
      rw [winOf, setAt, siteAt_upSite, if_neg apart]
      exact agree y (List.mem_cons_of_mem _ hy)

/-- All blocks that translate are asked for. -/
theorem ask_all {h : Hh} {w byBlock : Bool} {g : Feed} {n lo rank : Nat} (ok : ∀ b, lo ≤ b → b < lo + n → g.ok b = true) :
    (ask s h w byBlock g n lo rank).2 = lo + n := by
  induction n generalizing lo rank with
  | zero => rfl
  | succ n ih =>
    rw [ask, if_pos (ok lo (Nat.le_refl _) (by omega))]
    exact (ih fun b h1 h2 => ok b (by omega) (by omega)).trans (by omega)

/-- The state in which a STREAM with the mask m has bound its subscribers, before it asks for its body. -/
def boundState (s : State) (r : Rg) (e : Entry) (l : Lease) (bs : List Byte) (m : Nat) (is : List Site) : State :=
  upSlot (upEntry (atSites s is (withWin e.hh (strWin e.cmd) bindWin)) (.larder r) e.hh e.seq fun x => { x with held := bs ++ leBytes 1 m })
    r e fun y => { y with bound := m, left := streamCount l e ⟨bs⟩ }

theorem bodyFeed_ok_congr (ann : (regAt t r).ld.ann = (regAt s r).ld.ann) (pages : xlateRange t = xlateRange s) :
    (bodyFeed t r e l va k).ok = (bodyFeed s r e l va k).ok := by
  simp only [bodyFeed, streamSrc, preExpanded, ann, pages]

theorem streamBind_binds (nd : ((ownedSubs s r e).map (·.2.2)).Nodup) (nonempty : ownedSubs s r e ≠ [])
    (opened : ∀ x ∈ ownedSubs s r e, (winOf s x.2.2 e.hh (strWin e.cmd)).state = .opened ∧ serves s x.2.2 e.hh = true)
    (agree : ∀ x ∈ ownedSubs s r e, consumerCheck (winOf s x.2.2 e.hh (strWin e.cmd)) d ⟨bs⟩ (strLevel e) = none)
    (hm : m = maskOf 4 fun j => (ownedSubs s r e).any fun y => y.1.val == j) :
    ∃ g : Feed, (∀ b, g.ok b = (bodyFeed s r e l va ⟨bs⟩).ok b) ∧ g.count = streamCount l e ⟨bs⟩ ∧ streamBind s r e l va bs d =
      putStream (boundState s r e l bs m ((ownedSubs s r e).map (·.2.2))) (.larder r) e false g := by
  have ready : ((ownedSubs s r e).any fun x => (winOf s x.2.2 e.hh (strWin e.cmd)).state != .opened || !serves s x.2.2 e.hh) = false := by
    simp only [List.any_eq_false, Bool.or_eq_true, bne_iff_ne, Bool.not_eq_true', not_or, ne_eq, Decidable.not_not, Bool.not_eq_false]
    exact opened
  have waits : bindWaits s e d ⟨bs⟩ (ownedSubs s r e) = false := by
    simp only [bindWaits, List.any_eq_false]
    intro x hx
    simp [agree x hx]
  have mask : (maskOf 4 fun i => ((ownedSubs s r e).map (·.1)).any fun c => c.val == i) = m := by
    rw [hm]; simp only [List.any_map]; rfl
  have any' : ((ownedSubs s r e).map (·.1)).isEmpty = false := by simpa using nonempty
  obtain ⟨v, frame⟩ := atSites_frame s ((ownedSubs s r e).map (·.2.2)) (withWin e.hh (strWin e.cmd) bindWin)
  simp only [streamBind, ready, waits, Bool.false_eq_true, if_false, bindOne_all _ nd agree, List.nil_append, any', mask]
  refine ⟨_, fun b => ?_, ?_, rfl⟩
  · refine congrFun (bodyFeed_ok_congr ?_ ?_) b
    · rw [upEntry_larder, regAt_upReg, if_pos rfl, regAt_atSites]
    · rw [upEntry_larder, frame]
      rfl
  · rfl

theorem upStreams_larder (s : State) (r : Rg) (g : List Strm → List Strm) : upStreams s (.larder r) g =
    upReg s r fun x => { x with larder := { x.larder with streams := g x.larder.streams } } := rfl

/-- What binding leaves: the command holds the header and the mask, its slot the number of blocks, the subscribers' windows
are BOUND, and the body is asked for. -/
theorem streamBind_leaves (nd : is.Nodup) (g : Feed) :
    let t := putStream (boundState s r e l bs m is) (.larder r) e false g
    t.cellar = s.cellar ∧
      (regAt t r).larder.ents = changed (regAt s r).larder.ents e (fun x => { x with held := bs ++ leBytes 1 m }) ∧
      (regAt t r).ld.slots = slotsOf e (fun y => { y with bound := m, left := streamCount l e ⟨bs⟩ }) (regAt s r).ld.slots ∧
      (∀ i, siteAt t i = if i ∈ is then withWin e.hh (strWin e.cmd) bindWin (siteAt s i) else siteAt s i) ∧
      ∃ x, strmOf t (.larder r) e false = some x ∧ x.out = [] ∧ ((∀ b < g.count, g.ok b = true) → x.upto = g.count) := by
  intro t
  obtain ⟨v, frame⟩ := atSites_frame s is (withWin e.hh (strWin e.cmd) bindWin)
  obtain ⟨h, form⟩ := putStream_streams (boundState s r e l bs m is) (.larder r) e false g
  have reg : regAt t r = { regAt (boundState s r e l bs m is) r with larder := { (regAt (boundState s r e l bs m is) r).larder with
      streams := h (regAt (boundState s r e l bs m is) r).larder.streams } } := by
    simp only [t, form, upStreams_larder, regAt_upReg, if_true]
  have bound : regAt (boundState s r e l bs m is) r = { regAt s r with
      ld := { (regAt s r).ld with slots := slotsOf e (fun y => { y with bound := m, left := streamCount l e ⟨bs⟩ }) (regAt s r).ld.slots }
      larder := { (regAt s r).larder with
        ents := changed (regAt s r).larder.ents e (fun x => { x with held := bs ++ leBytes 1 m }) } } := by
    simp only [boundState, upSlot, upEntry_larder, regAt_upReg, if_true, regAt_atSites, slotsOf]
  refine ⟨?_, by rw [reg, bound], by rw [reg, bound], fun i => ?_, ?_⟩
  · simp only [t, form, upStreams_larder, boundState, upSlot, upEntry_larder, frame]
    rfl
  · simp only [t, form, upStreams_larder, boundState, upSlot, upEntry_larder, siteAt_upReg, siteAt_atSites nd]
  · obtain ⟨x, ex, -, upto, out⟩ := putStream_strm (s := boundState s r e l bs m is) (q := .larder r) (e := e) (w := false) (f := g)
      trivial
    exact ⟨x, ex, out, fun ok => by rw [upto, ask_all fun b _ hb => ok b (by omega), Nat.zero_add]⟩

/-- A site whose window has taken a whole key, once the window is FILLED. -/
theorem HasTaken.filled {c c' : SiteSt} {h : Hh} {w : Fin 4} {x : KWin} {base : Nat} (p : HasTaken c c' h w x base b blk) :
    ((withWin h w fillWin c').sets.get h).wins.get w = { x with state := .filled, fill := b, seen := [] } ∧
      ((withWin h w fillWin c').sets.get h).hqs = (c.sets.get h).hqs := by
  simp [withWin, fillWin, p.win, p.hqs]
/-- A hand-off entry leaves the windows. -/
theorem takeHandoff_set (e : Entry) (f : Nat) (c : SiteSt) : ((takeHandoff e f c).sets.get e.hh).wins = (c.sets.get e.hh).wins ∧
    ((takeHandoff e f c).sets.get e.hh).hqs.get (hqOf e) = (c.sets.get e.hh).hqs.get (hqOf e) ++ [f] := by
  simp [takeHandoff]
end

end Sys2Proof.Machine
end

section
/-! PROOFS. What a STREAM, a PREX and an expansion leave (R236-R253). -/

namespace Sys2Proof.Machine

section
variable {s t : State} {r : Rg} {e : Entry} {l : Lease} {va b f : Nat} {k : KeyHdr} {d : Tensor} {bound : List (Fin 4)}
  {is : List Site} {sl : Vector LdSlot 4} {blk : Nat → List Byte}

/-- Site i once a STREAM has ended, or waits to end, when it was c after the last block. -/
structure DoneSite (s : State) (e : Entry) (is : List Site) (f b : Nat) (i : Site) (c c' : SiteSt) : Prop where
  pantry : c'.pantry = c.pantry ∧ c'.seals = c.seals
  win : (c'.sets.get e.hh).wins.get (strWin e.cmd) = { winOf s i e.hh (strWin e.cmd) with state := .filled, fill := b, seen := [] }
  pushed : e.cmd.handoff = true ∧ ¬ handoffsFull s e is →
    (c'.sets.get e.hh).hqs.get (hqOf e) = (setAt s i e.hh).hqs.get (hqOf e) ++ [f]
  kept : ¬ (e.cmd.handoff = true ∧ ¬ handoffsFull s e is) →
    (c'.sets.get e.hh).hqs.get (hqOf e) = (setAt s i e.hh).hqs.get (hqOf e)

theorem streamDone_sites (p : Streamed s t r sl e d is blk b) (opD : e.opD = .pantry d f) (nd : is.Nodup)
    (sites : (bound.filterMap fun c => siteOf s (clusterOf r c)) = is)
    (state : ∀ i ∈ is, (winOf s i e.hh (strWin e.cmd)).state = .bound) (i : Site) :
    (i ∈ is → DoneSite s e is f b i (siteAt t i) (siteAt (streamDone t r e bound b) i)) ∧
      (i ∉ is → siteAt (streamDone t r e bound b) i = siteAt t i) := by
  obtain ⟨whenFull, whenNot⟩ := streamDone_leaves p opD nd sites state
  have at_filled (i : Site) : siteAt (filledAt t e is) i =
      if i ∈ is then withWin e.hh (strWin e.cmd) fillWin (siteAt t i) else siteAt t i := siteAt_atSites nd t _ i
  have of_sites {u : State} (h : (streamDone t r e bound b).sites = u.sites) : siteAt (streamDone t r e bound b) i = siteAt u i := by
    rw [siteAt, siteAt, h]
  have filled (hi : i ∈ is) := (p.on i hi).filled
  by_cases push : e.cmd.handoff = true ∧ ¬ handoffsFull s e is
  · have done := (whenNot push.2).sites
    rw [if_pos push.1] at done
    rw [of_sites done, siteAt_atSites nd, at_filled]
    refine ⟨fun hi => ?_, fun hi => by simp [hi]⟩
    obtain ⟨win, hqs⟩ := filled hi
    obtain ⟨wins, queue⟩ := takeHandoff_set e f (withWin e.hh (strWin e.cmd) fillWin (siteAt t i))
    simp only [hi, if_true]
    exact ⟨⟨rfl, rfl⟩, by rw [wins, win], fun _ => by rw [queue, hqs, setAt], fun no => absurd push no⟩
  · have done : (streamDone t r e bound b).sites = (filledAt t e is).sites := by
      by_cases full : handoffsFull s e is
      · exact (whenFull full).sites
      · have off : ¬ e.cmd.handoff = true := fun on => push ⟨on, full⟩
        simpa [off] using (whenNot full).sites
    rw [of_sites done, at_filled]
    refine ⟨fun hi => ?_, fun hi => by simp [hi]⟩
    obtain ⟨win, hqs⟩ := filled hi
    simp only [hi, if_true]
    exact ⟨⟨rfl, rfl⟩, win, fun yes => absurd yes push, fun _ => by rw [hqs, setAt]⟩

theorem streamDone_region (p : Streamed s t r sl e d is blk b) (opD : e.opD = .pantry d f) (nd : is.Nodup)
    (sites : (bound.filterMap fun c => siteOf s (clusterOf r c)) = is)
    (state : ∀ i ∈ is, (winOf s i e.hh (strWin e.cmd)).state = .bound) :
    let u := streamDone t r e bound b
    u.cellar = s.cellar ∧ (regAt u r).ld.slots = sl ∧
      (handoffsFull s e is → (regAt u r).larder.ents = changed (regAt s r).larder.ents e fun x => { x with pos := b }) ∧
      (¬ handoffsFull s e is → (regAt u r).larder.ents =
        changed (regAt s r).larder.ents e fun x => overWith { x with pos := b } stOk 0 0) := by
  intro u
  obtain ⟨whenFull, whenNot⟩ := streamDone_leaves p opD nd sites state
  have ends {v : State} {g : Entry → Entry} (q : LarderOnly s v r sl) (h : EntryOnly v u r e g) :
      u.cellar = s.cellar ∧ (regAt u r).ld.slots = sl ∧ (regAt u r).larder.ents = changed (regAt s r).larder.ents e g := by
    refine ⟨?_, h.slots.trans q.slots, by rw [h.ents, q.larder]⟩
    rw [h.cellar, q.frame]
  have filled : LarderOnly s (filledAt t e is) r sl := p.toLarderOnly.atSites is _
  by_cases full : handoffsFull s e is
  · obtain ⟨cellar, slots, ents⟩ := ends filled (whenFull full)
    exact ⟨cellar, slots, fun _ => ents, fun no => absurd full no⟩
  · have last : LarderOnly s (if e.cmd.handoff then atSites (filledAt t e is) is (takeHandoff e f) else filledAt t e is) r sl := by
      split
      · exact filled.atSites is _
      · exact filled
    obtain ⟨cellar, slots, ents⟩ := ends last (whenNot full)
    exact ⟨cellar, slots, fun yes => absurd yes full, fun _ => ents⟩

/-- A bound STREAM of which all blocks have been read delivers them to its bound subscribers. -/
theorem streamOp_delivers {iv m : Nat} {bs : List Byte} {is : List Site} (run : runningEntry s (.larder r) 0xC1 = some e)
    (form : streamForm s r e = .ok (l, va, iv, d)) (held : e.held = bs ++ leBytes 1 m) (hb : bs.length = 256) (hm : m < 16)
    (pos : e.pos = 0) (nd : ((ownedSubs s r e).map (·.2.2)).Nodup)
    (served : ∀ x ∈ ownedSubs s r e, serves s x.2.2 e.hh = true ∧ siteMemOk (siteAt s x.2.2) = true)
    (known : ∀ j : Fin 4, m.testBit j.val = true → ∃ x ∈ ownedSubs s r e, x.1 = j)
    (his : is = ((ownedSubs s r e).filter fun x => m.testBit x.1.val).map (·.2.2))
    (ready : ∀ i ∈ is, (winOf s i e.hh (strWin e.cmd)).state = .bound ∧ (winOf s i e.hh (strWin e.cmd)).fill = 0)
    (read : ∀ b < streamCount l e ⟨bs⟩, blockRead s (.larder r) e (bodyFeed s r e l va ⟨bs⟩) b = true)
    (comes : ∀ b < streamCount l e ⟨bs⟩, blockComes s r e l va ⟨bs⟩ blk b) :
    is.Nodup ∧ ∃ bound t, ((bound.filterMap fun c => siteOf s (clusterOf r c)) = is) ∧
      Streamed (tickFresh s) t r (slotsOf e (fun y => { y with left := 0 }) (regAt s r).ld.slots) e d is blk (streamCount l e ⟨bs⟩) ∧
      streamOp s r = streamDone t r e bound (streamCount l e ⟨bs⟩) := by
  have sites := (boundSites known).trans his.symm
  have nd' : is.Nodup := his ▸ nd.sublist (List.filter_sublist.map _)
  have mem : ∀ i ∈ is, pantryOk (siteAt s i) := fun i hi => by
    obtain ⟨x, hx, rfl⟩ := List.mem_map.1 (his ▸ hi)
    have ok := (served x (List.mem_of_mem_filter hx)).2
    simp only [siteMemOk, Bool.and_eq_true] at ok
    exact ok.1
  obtain ⟨t, pt, et⟩ := streamBody_streamed nd' sites mem (fun i hi => (ready i hi).1) (fun i hi => (ready i hi).2) pos rfl read comes
  exact ⟨nd', _, t, sites, pt, (streamOp_body run form held hb (by omega) fun x hx => (served x hx).1).trans et⟩
end

end Sys2Proof.Machine
end

section
/-! PROOFS. Keys streamed and expanded (R236-R253). -/

namespace Sys2Proof.Machine

theorem popCount_pos {v : Nat} (h : v < 16) (hv : v ≠ 0) : popCount 4 v ≠ 0 := by
  have all : ∀ v : Fin 16, v.val ≠ 0 → popCount 4 v.val ≠ 0 := by decide
  exact all ⟨v, h⟩ hv

/-- Settles O37: the subscribers are bound one by one, each block enters all of them, and an expansion lays its blocks into
its area. -/
theorem keyStreams : Obligations.KeyStreams := by
  refine ⟨?_, fun s r h l lease => ⟨?_, ?_, ?_⟩⟩
  · intro s r e l va iv f d bs blk run lease h10 opA opB opD c w pos0 posN lv k subs digits nb total feed window slots low gap imm mask
      owned lv0 lvL posN0 top hb range nd served
    have form := streamForm_ok lease opA opB opD low gap imm mask owned lv0 lvL posN0 top
    have level : strLevel e = lv := strLevel_imm opB
    have count : streamCount l e k = total := by rw [streamCount, level]; rfl
    refine ⟨fun held pos read arrived ok inner c1 c2 agree => ?_, ?_⟩
    -- the header is read and the subscribers are bound
    · let is := subs.map (·.2.2)
      let m := maskOf 4 fun j => subs.any fun y => y.1.val == j
      have nonempty : subs ≠ [] := fun none => by
        rw [none] at owned
        exact popCount_pos (Nat.mod_lt _ (by decide)) mask owned.symm
      have fits : ∀ x ∈ subs, consumerCheck (winOf s x.2.2 e.hh (strWin e.cmd)) d k (strLevel e) = none := fun x hx => by
        obtain ⟨-, base, blocks, tag, g, wl⟩ := agree x hx
        rw [level]
        simp only [consumerCheck, show winOf s x.2.2 e.hh (strWin e.cmd) = window s x.2.2 from rfl, base, blocks, tag, g, wl]
        simp
      have op := streamOp_header run form held arrived read (level ▸ ok) range ⟨inner, c1, by rw [level]; exact c2⟩
      obtain ⟨g, gok, gcount, binds⟩ := streamBind_binds (l := l) (va := va) nd nonempty
        (fun x hx => ⟨(agree x hx).1, (served x hx).1⟩) fits rfl
      obtain ⟨cellar, ents, slotsNow, sites, y, ey, out, upto⟩ :=
        streamBind_leaves (s := s) (r := r) (e := e) (l := l) (bs := bs) (m := m) nd g
      refine ⟨_, m, congrArg Host.Outcome.next (op.trans binds), cellar, rfl, ents, ?_, fun x hx => ?_, fun i hi => ?_, y, ey, out, ?_⟩
      · rw [slotsOf_eq, count] at slotsNow
        exact slotsNow
      · have at' := sites x.2.2
        rw [if_pos (List.mem_map.2 ⟨x, hx, rfl⟩)] at at'
        exact ⟨(congrArg (fun c : SiteSt => (c.sets.get e.hh).wins.get w) at').trans (withWin_win ..),
          (congrArg SiteSt.pantry at').trans rfl, (congrArg SiteSt.seals at').trans rfl⟩
      · refine (sites i).trans (if_neg fun h => ?_)
        obtain ⟨x, hx, rfl⟩ := List.mem_map.1 h
        exact hi x hx rfl
      · intro all
        rw [gcount, count] at upto
        exact upto fun b hb => (gok b).trans (all b hb)
    -- the body goes to them
    · intro m held hm pos _ arrived comes bound known ready n full
      let is := bound.map (·.2.2)
      have of_site {i : Site} (hi : i ∈ is) : ∃ x ∈ bound, x.2.2 = i := List.mem_map.1 hi
      have to_site {x : Fin 4 × Gl × Site} (hx : x ∈ bound) : x.2.2 ∈ is := List.mem_map.2 ⟨x, hx, rfl⟩
      have windows : ∀ i ∈ is, (winOf s i e.hh (strWin e.cmd)).state = .bound ∧ (winOf s i e.hh (strWin e.cmd)).fill = 0 := fun i hi => by
        obtain ⟨x, hx, rfl⟩ := of_site hi
        exact ready x hx
      have blocks : ∀ b < streamCount l e k, blockComes s r e l va k blk b := fun b hb => by
        simp only [blockComes, streamSrc, streamPos, basisPos, limbId, level]
        exact comes b (count ▸ hb)
      obtain ⟨nd', _, t, sites, pt, op⟩ :=
        streamOp_delivers run form held hb hm pos nd served known rfl windows (fun b hb => arrived b (count ▸ hb)) blocks
      rw [show streamCount l e ⟨bs⟩ = total from count] at pt op
      have state := fun i hi => (windows i hi).1
      obtain ⟨cellar, slotsNow, whenFull, whenNot⟩ := streamDone_region pt opD nd' sites state
      have queue : n = hqOf e := hqOf_eq e _
      have isFull : full ↔ handoffsFull (tickFresh s) e is := by
        simp only [full, queue, is, handoffsFull_map]
        rfl
      refine ⟨_, congrArg Host.Outcome.next op, cellar, fun h => whenFull (isFull.1 h), fun h => whenNot fun h' => h (isFull.2 h'),
        slotsNow.trans (slotsOf_eq ..), fun x hx => ?_, fun i hi => ?_⟩
      · have taken := pt.on _ (to_site hx)
        obtain ⟨⟨bytes, seals⟩, win, pushed, kept⟩ := (streamDone_sites pt opD nd' sites state x.2.2).1 (to_site hx)
        refine ⟨win, ?_, fun b hb => ?_, fun y hy => ?_⟩
        · by_cases push : e.cmd.handoff = true ∧ ¬ full
          · rw [if_pos push, queue]
            exact pushed ⟨push.1, fun h => push.2 (isFull.2 h)⟩
          · rw [if_neg push, queue, List.append_nil]
            exact kept fun h => push ⟨h.1, fun h' => h.2 (isFull.1 h')⟩
        · rw [bytes, seals]; exact taken.blocks b hb
        · rw [bytes]; exact taken.off y hy
      · have off : i ∉ is := fun h => by
          obtain ⟨x, hx, rfl⟩ := of_site h
          exact hi x hx rfl
        exact ((streamDone_sites pt opD nd' sites state i).2 off).trans (pt.off i off)
  -- PREX
  · rintro e va d sb bs run rfl opA opB opD mod read ok compressed
    have passes := prexOp_passes run lease opA opB opD mod read ok compressed
    intro ends
    refine ⟨fun room => ?_, fun full => ?_⟩
    · refine congrArg Host.Outcome.next (passes.trans ?_)
      rw [if_neg (by omega), endEntry_larder, upReg_upReg]
      rfl
    · refine congrArg Host.Outcome.next (passes.trans ?_)
      rw [if_pos full, endEntry_larder]
      rfl
  -- the expansion
  · rintro a on found rfl
    refine ⟨fun bad => congrArg Host.Outcome.next (expandOp_drop on found lease bad), fun good p h10 => ?_⟩
    exact expandOp_leaves on found lease good (ringN_whole h10) p
  -- no expansion
  · intro off
    exact congrArg Host.Outcome.next (by simp [expandOp, off])

end Sys2Proof.Machine
end

section
/-! PROOFS. What each part of the block reads right after a power-on reset (R63, R95, R153, R304, R377, R378, R399, R418, R440). -/

namespace Sys2Proof.Machine

@[simp] theorem get_replicate {α : Type} {n : Nat} (x : α) (i : Fin n) : (Vector.replicate n x).get i = x := by
  simp [get_val]

@[simp] theorem siteAt_reset (i : Site) : siteAt State.reset i = SiteSt.init := get_replicate ..
@[simp] theorem setAt_reset (i : Site) (h : Hh) : setAt State.reset i h = HSet.init := by
  rw [setAt, siteAt_reset]; exact get_replicate ..
@[simp] theorem coreAt_reset (r : Rg) : coreAt State.reset r = Core.init := congrArg RegionSt.core (get_replicate ..)
@[simp] theorem hhAt_reset (h : Hh) : hhAt State.reset h = HhSt.init := get_replicate ..
@[simp] theorem portAt_reset (p : PortId) : portAt State.reset p = Port.init := get_replicate ..
theorem stackAt_reset (k : StackId) : State.reset.cellar.stackSts.get k = StackSt.init := get_replicate ..

theorem map_reset (k : Gl) : State.reset.map.get k = k.val := by simp [State.reset, get_val]
/-- Every site serves its own number. -/
theorem siteOf_reset (k : Gl) : siteOf State.reset k = some k := by simp [siteOf, map_reset, fin?]

/-- The built-in curves alone are valid. -/
theorem slotMask_reset : slotMask State.reset = 7 := by decide +kernel
theorem memOk_reset : memOk State.reset = true := by
  have sites : State.reset.sites.toList.all siteMemOk = true := by simp [State.reset, siteMemOk, SiteSt.init, spWf, spWfFrom]
  rw [memOk, sites]; rfl
theorem modesOk_reset : modesOk State.reset = true := by
  simp [modesOk, State.reset, RegionSt.init, Core.init, coreOk]

/-- Settles O2: each part stands in its initial value, which holds the values of its table. -/
theorem resetState : Obligations.ResetState := by
  refine ⟨rfl, rfl, rfl, rfl, rfl, rfl, fun k => ⟨map_reset k, siteOf_reset k⟩, fun i => ?_, fun i h => ?_, fun r => ?_,
    fun h => ?_, rfl, rfl, rfl, rfl, rfl, rfl, rfl, rfl, rfl, slotMask_reset, fun p => ?_, fun k => ?_, fun _ => ⟨rfl, rfl⟩,
    memOk_reset, modesOk_reset⟩
  · simp [SiteSt.init, MxRegs.init, HSet.init, KWin.shut]
  · simp [HSet.init, Xsq.init, Psq.init, EQueue.empty]
  · simp [Core.init]
  · rw [hhAt_reset]; exact ⟨rfl, rfl, rfl, rfl, rfl, rfl, rfl, rfl, rfl⟩
  · rw [portAt_reset]; exact ⟨rfl, rfl⟩
  · rw [stackAt_reset]; exact ⟨rfl, rfl⟩

end Sys2Proof.Machine
end

section
/-! PROOFS. Accesses and commands that the block refuses: they are discarded and counted, or reach nothing (R58, R59, R69,
R101, R361, R367, R395, R396). -/

namespace Sys2Proof.Machine

/- A discarded access, and one that the block does not answer. -/

theorem satInc_eq_min (n : Nat) : satInc 16 n = min (n + 1) 65535 := by
  simp only [satInc]; split <;> omega
theorem noteUr_eq (s : State) : noteUr s = { s with porch := { s.porch with ur := min (s.porch.ur + 1) 65535 } } := by
  rw [noteUr, satInc_eq_min]
theorem discard_eq (s : State) (a : Agent) :
    discard s a = { s with discFunc := funcCode a, discCount := min (s.discCount + 1) 65535 } := by
  rw [discard, discardBy, satInc_eq_min]

/-- A virtual function that is refused finds its household not live, unless the package or the porch answers nobody. -/
theorem access_down_vf {s : State} {h : Hh} (down : agentUp s (.vf h) = false) (f : State → State) :
    access s (.vf h) f = if alive s = true ∧ quiescing s 0x51 = false then noteUr s else s := by
  by_cases up : alive s = true ∧ quiescing s 0x51 = false
  · have live : vfLive s h = false := by simpa [agentUp, up] using down
    simp [access, up, live]
  · rw [if_neg up]
    by_cases awake : alive s = true
    · have closed : quiescing s 0x51 = true := by simpa [awake] using up
      simp [access, closed]
    · simp [access, awake]
theorem access_down {s : State} {a : Agent} (down : agentUp s a = false) (notVf : ∀ h, a ≠ .vf h) (f : State → State) :
    access s a f = s := by
  cases a with
  | vf h => exact absurd rfl (notVf h)
  | house => simp_all [agentUp, access]
  | pf => cases hs : alive s <;> simp_all [agentUp, access]
  | cc r => cases hs : alive s <;> simp_all [agentUp, access]

/- Accesses of a wrong size or alignment, and past the map (R56, R58). -/

theorem accessOk_false {off size : Nat} (bad : (size ≠ 4 ∧ size ≠ 8) ∨ off % size ≠ 0) : accessOk off size = false := by
  rcases bad with ⟨h4, h8⟩ | h
  · simp [accessOk, h4, h8]
  · simp [accessOk, h]

theorem apertureOf_spec {off : Nat} {k : Gl} {o : Nat} (e : apertureOf off = some (k, o)) :
    off < 0x3200000 ∧ ∃ n, off = 0x80000 * n + o := by
  obtain ⟨place, e⟩ := Option.ite_none_right_eq_some.1 e
  simp only [fin?, Option.map_eq_some_iff, Option.dite_none_right_eq_some, Prod.mk.injEq] at e
  obtain ⟨_, ⟨lt, -⟩, -, rfl⟩ := e
  exact ⟨by omega, 2 * (off / 0x100000) + 1, by omega⟩

/-- An aperture access has the size and the alignment of its offset in BAR0. -/
theorem accessOk_aperture {off : Nat} {k : Gl} {o : Nat} (e : apertureOf off = some (k, o)) (size : Nat) :
    accessOk o size = accessOk off size := by
  obtain ⟨-, n, rfl⟩ := apertureOf_spec e
  by_cases h : size = 4 ∨ size = 8
  · have same : (0x80000 * n + o) % size = o % size := by rcases h with rfl | rfl <;> omega
    simp [accessOk, same]
  · rw [accessOk_false (.inl (not_or.1 h)), accessOk_false (.inl (not_or.1 h))]

theorem apertureAt_of_not_accessOk {off size : Nat} (bad : accessOk off size = false) (s : State) (a : Agent) (k : Gl) (write : Bool) :
    apertureAt s a k off size write = none := by simp [apertureAt, bad]

theorem regOf_pastMap {off : Nat} (h : 0x3E00000 ≤ off) : regOf off = none := by
  have below {n : Nat} (hn : n ≤ 0x3E00000) : ¬ off < n := by omega
  simp [regOf, below]
theorem coveredRegs_pastMap {off : Nat} (h : 0x3E00000 ≤ off) (size : Nat) : coveredRegs off size = [] := by
  have past (j : Nat) : regOf (off + j) = none := regOf_pastMap (by omega)
  simp [coveredRegs, covered, past]

/-- An access of a wrong size or alignment, or one that no register and no aperture lies under. -/
def refusedAccess (off size : Nat) : Prop := accessOk off size = false ∨ (apertureOf off = none ∧ coveredRegs off size = [])

theorem refusedAccess_of {off size : Nat} (h : (size ≠ 4 ∧ size ≠ 8) ∨ off % size ≠ 0 ∨ 0x3E00000 ≤ off) : refusedAccess off size := by
  rcases or_assoc.2 h with bad | past
  · exact .inl (accessOk_false bad)
  · refine .inr ⟨?_, coveredRegs_pastMap past size⟩
    by_contra inAperture
    obtain ⟨⟨k, o⟩, e⟩ := Option.ne_none_iff_exists'.1 inAperture
    have := (apertureOf_spec e).1
    omega

theorem registerWriteOp_refused {off size : Nat} (bad : refusedAccess off size) (s : State) (a : Agent) (v hw : Nat) :
    registerWriteOp s a off size v hw = discard s a := by
  cases e : apertureOf off with
  | none => rcases bad with bad | ⟨-, bad⟩ <;> simp [registerWriteOp, e, bad]
  | some p =>
    have bad : accessOk p.2 size = false := by simpa [accessOk_aperture e, refusedAccess, e] using bad
    simp [registerWriteOp, e, apertureWrite, apertureAt_of_not_accessOk bad]
theorem registerReadOp_refused {off size : Nat} (bad : refusedAccess off size) (s : State) (a : Agent) (hw : Nat) :
    registerReadOp s a off size hw = { discard s a with bus := 0 } := by
  cases e : apertureOf off with
  | none => rcases bad with bad | ⟨-, bad⟩ <;> simp [registerReadOp, e, bad]
  | some p =>
    have bad : accessOk p.2 size = false := by simpa [accessOk_aperture e, refusedAccess, e] using bad
    simp [registerReadOp, e, apertureRead, apertureAt_of_not_accessOk bad]

/- Commands by agents without the right (R59, R69, R396). -/

/-- A command on a register of household `h` goes through that household's row. -/
theorem exec_hhCommand {i : Instr} {a : Agent} {h : Hh} (c : hhCommandOf i = some (a, h)) :
    ∃ f, ∀ s, exec i s = .next (hhRow s a h f) := by
  unfold hhCommandOf at c
  split at c <;> cases c
  all_goals exact ⟨_, fun _ => rfl⟩
theorem exec_houseCommand {i : Instr} {a : Agent} (c : houseCommandOf i = some a) :
    ∃ f, ∀ s, exec i s = .next (pfRow s a f) := by
  unfold houseCommandOf at c
  split at c <;> cases c
  all_goals exact ⟨_, fun _ => rfl⟩
theorem exec_clCommand {i : Instr} {a : Agent} {k : Gl} (c : clCommandOf i = some (a, k)) :
    ∃ f, ∀ s, exec i s = .next (clusterRow s a k f) := by
  unfold clCommandOf at c
  split at c <;> cases c
  all_goals exact ⟨_, fun _ => rfl⟩

section
variable {s : State} {a : Agent} (f : State → State)

theorem hhRow_otherVf {g h : Hh} (up : agentUp s (.vf g) = true) (other : g ≠ h) : hhRow s (.vf g) h f = discard s (.vf g) := by
  rw [hhRow, access_up up]; exact if_neg other
theorem pfRow_others (up : agentUp s a = true) (other : pfOrHouse a = false) : pfRow s a f = discard s a := by
  rw [pfRow, access_up up, other]; rfl
theorem clusterRow_unserved {k : Gl} (up : agentUp s a = true) (unserved : siteOf s k = none) : clusterRow s a k f = discard s a := by
  rw [clusterRow, access_up up, unserved]
theorem clusterRow_unseen {k : Gl} {g : Hh} (up : agentUp s (.vf g) = true) (unseen : vfSees s g k = false) :
    clusterRow s (.vf g) k f = discard s (.vf g) := by
  rw [clusterRow, access_up up]
  cases siteOf s k <;> simp [unseen]
theorem clusterRow_unwritable {k : Gl} {j : Site} (up : agentUp s a = true) (site : siteOf s k = some j)
    (shut : siteWritable s j = false) : clusterRow s a k f = discard s a := by
  rw [clusterRow, access_up up, site]; simp [shut]

end

/-- Settles O19: a refused access is a discard whatever it names, and a command goes through the row of its register, which
refuses it. -/
theorem refusedAccesses : Obligations.RefusedAccesses := by
  refine ⟨fun s a off size v hw => ⟨fun up bad => ?_, fun down => ?_⟩, fun i s a up => ⟨fun g h c e other => ?_,
    fun c other => ?_, fun k c shut => ?_⟩⟩
  · have bad := refusedAccess_of bad
    rw [exec_registerWrite, exec_registerRcRead, access_up up, access_up up, registerWriteOp_refused bad,
      registerReadOp_refused bad, discard_eq]
    cases a <;> exact ⟨rfl, rfl⟩
  · rw [exec_registerWrite, exec_registerRcRead]
    cases a with
    | vf h => rw [access_down_vf down, access_down_vf down, noteUr_eq]; exact ⟨rfl, rfl⟩
    | pf | cc _ | house => rw [access_down down nofun, access_down down nofun]; exact ⟨rfl, rfl⟩
  · subst e
    obtain ⟨f, row⟩ := exec_hhCommand c
    rw [row, hhRow_otherVf f up other]
  · obtain ⟨f, row⟩ := exec_houseCommand c
    rw [row, pfRow_others f up other]
  · obtain ⟨f, row⟩ := exec_clCommand c
    rw [row]
    rcases shut with unserved | ⟨g, rfl, unseen⟩ | ⟨j, site, closed⟩
    · rw [clusterRow_unserved f up unserved]
    · rw [clusterRow_unseen f up unseen]
    · rw [clusterRow_unwritable f up site closed]

end Sys2Proof.Machine
end

section
/-! PROOFS. Registers of the command rings: the semaphores of a cluster, the descriptor table and the completion ring (O20, O21, O24). -/

namespace Sys2Proof.Machine

/- One site's state. -/

theorem vmod_id {α : Type} {n : Nat} (v : Vector α n) (i : Fin n) {f : α → α} (hf : f (v.get i) = v.get i) :
    vmod v i f = v := by
  unfold vmod
  rw [hf]
  exact Vector.set_getElem_self ..

theorem vmod_congr {α : Type} {n : Nat} (v : Vector α n) (i : Fin n) {f g : α → α} (hf : f (v.get i) = g (v.get i)) :
    vmod v i f = vmod v i g := by
  unfold vmod
  rw [hf]

theorem upSite_upSite (s : State) (i : Site) (f g : SiteSt → SiteSt) :
    upSite (upSite s i f) i g = upSite s i fun c => g (f c) := by
  unfold upSite
  simp only [vmod_vmod]
  rfl

theorem upSite_congr (s : State) (i : Site) {f g : SiteSt → SiteSt} (h : f (siteAt s i) = g (siteAt s i)) :
    upSite s i f = upSite s i g := by
  unfold upSite
  rw [vmod_congr _ _ h]

theorem upSite_id (s : State) (i : Site) {f : SiteSt → SiteSt} (h : f (siteAt s i) = siteAt s i) : upSite s i f = s := by
  unfold upSite
  rw [vmod_id _ _ h]

theorem upSet_congr (s : State) (i : Site) (h : Hh) {f g : HSet → HSet} (e : f (setAt s i h) = g (setAt s i h)) :
    upSet s i h f = upSet s i h g :=
  upSite_congr s i (by simp only [vmod_congr _ _ e])

theorem upSet_id (s : State) (i : Site) (h : Hh) {f : HSet → HSet} (e : f (setAt s i h) = setAt s i h) :
    upSet s i h f = s :=
  upSite_id s i (by simp only [vmod_id _ _ e])

theorem upSet_upSet (s : State) (i : Site) (h : Hh) (f g : HSet → HSet) :
    upSet (upSet s i h f) i h g = upSet s i h fun c => g (f c) := by
  unfold upSet
  simp only [upSite_upSite, vmod_vmod]
  rfl

/- Rights over registers. -/

/-- An agent that reaches the window of a cluster acts on it. -/
theorem clusterRow_open {s : State} {a : Agent} {k : Gl} {i : Site} (o : clusterOpen s a k i) (f : State → State) :
    clusterRow s a k f = f s := by
  obtain ⟨up, hs, hw, hv⟩ := o
  unfold clusterRow
  rw [access_up up]
  cases a with
  | vf h => simp [hs, hw, hv h rfl]
  | pf => simp [hs, hw]
  | cc r => simp [hs, hw]
  | house => simp [hs, hw]

theorem hhRow_open {s : State} {a : Agent} {h : Hh} (o : hhOpen s a h) (f : State → State) : hhRow s a h f = f s := by
  obtain ⟨up, hv⟩ := o
  unfold hhRow
  rw [access_up up]
  cases a with
  | vf g => simp [hv g rfl]
  | pf => rfl
  | cc r => rfl
  | house => rfl

theorem mveQctlRow_open {s : State} {a : Agent} {r : Rg} (up : agentUp s a = true) (own : ownRegion a r = true)
    (on : regionUp s r = true) (f : State → State) : mveQctlRow s a r f = f s := by
  unfold mveQctlRow
  rw [access_up up]
  simp [own, on]

theorem larderQctlRow_open {s : State} {a : Agent} {r : Rg} (up : agentUp s a = true) (own : ownRegion a r = true)
    (on : larderUp s r = true) (f : State → State) : larderQctlRow s a r f = f s := by
  unfold larderQctlRow
  rw [access_up up]
  simp [own, on]

/- A software write of a semaphore (R136). -/

theorem semWrite_plain (x : Sem) (v : Nat) : semWrite x v none = ⟨v % 65536, x.ovf && !v.testBit 16⟩ := rfl

theorem semWrite_decrement (x : Sem) (v : Nat) : semWrite x v (some false) = ⟨v % 65536 - 1, x.ovf && !v.testBit 16⟩ := rfl

theorem semWrite_increment (x : Sem) (v : Nat) : semWrite x v (some true) =
    ⟨min (v % 65536 + 1) 65535, (x.ovf && !v.testBit 16) || v % 65536 == 65535⟩ := by
  by_cases hc : v % 65536 = 65535
  · simp [semWrite, hc]
  · have : min (v % 65536 + 1) 65535 = v % 65536 + 1 := by omega
    simp [semWrite, hc, this]

theorem lostInc_false (c : Nat) : lostInc c false = c := rfl

/-- A clear of OVF that an increment past 65,535 undoes at once (R13). -/
def semClearLost (old : Sem) (v : Nat) (hw : Option Bool) : Bool :=
  v.testBit 16 && old.ovf && hw == some true && decide (v % 65536 = 0xFFFF)

theorem semClearLost_iff (old : Sem) (v : Nat) (hw : Option Bool) :
    semClearLost old v hw = true ↔ hw = some true ∧ v % 65536 = 65535 ∧ old.ovf = true ∧ v.testBit 16 = true := by
  simp only [semClearLost, Bool.and_eq_true, beq_iff_eq, decide_eq_true_eq]
  tauto

/-- A write of a semaphore on a cluster that serves a household. -/
theorem clSemOp_live {s : State} {k : Gl} {i : Site} {h : Hh} (live : liveSet s k = some (i, h)) (n : Fin 16) (v : Nat)
    (hw : Option Bool) : clSemOp s k n v hw =
      upSite (upSet s i h fun t => { t with sems := t.sems.set n.val (semWrite ((setAt s i h).sems.get n) v hw) n.isLt }) i
        fun y => { y with lost := vmod y.lost 0 fun x => lostInc x (semClearLost ((setAt s i h).sems.get n) v hw) } := by
  unfold clSemOp
  rw [live]
  rfl

/-- Settles O20: the three cases of the hardware change, and the lost clear as a saturating count. -/
theorem semaphoreWrite : Obligations.SemaphoreWrite := by
  intro s a k n v hw i h o live old c kept x lost
  have hx : semWrite old v hw = x := by
    cases hw with
    | none => exact semWrite_plain old v
    | some b => cases b with
      | false => exact semWrite_decrement old v
      | true => exact semWrite_increment old v
  change Host.Outcome.next (clusterRow s a k fun s => clSemOp s k n v hw) = _
  rw [clusterRow_open o, clSemOp_live live, hx]
  congr 1
  apply upSite_congr
  by_cases hl : lost
  · have hb := (semClearLost_iff old v hw).2 hl
    rw [if_pos hl, show semClearLost ((setAt s i h).sems.get n) v hw = true from hb]
    rfl
  · have hb : semClearLost old v hw = false := Bool.eq_false_iff.2 fun hb => hl ((semClearLost_iff old v hw).1 hb)
    rw [if_neg hl, show semClearLost ((setAt s i h).sems.get n) v hw = false from hb]
    simp only [lostInc_false]
    rw [vmod_id _ _ rfl]

/- Registers of the descriptor table and the completion ring. -/

theorem upCmd_congr (s : State) (h : Hh) {f g : HhCmd → HhCmd} (e : f (hhAt s h).cmd = g (hhAt s h).cmd) :
    upCmd s h f = upCmd s h g := by
  unfold upCmd upHh
  rw [vmod_congr s.hhs h (f := fun c => { c with cmd := f c.cmd }) (g := fun c => { c with cmd := g c.cmd })]
  simp only [show f (s.hhs.get h).cmd = g (s.hhs.get h).cmd from e]

/-- A write of a word of HH_DT_VALID sets the word and a new record of the entries made valid. -/
theorem dtValidOp_eq (s : State) (h : Hh) (w : Fin 64) (v : Nat) : ∃ snap, dtValidOp s h w v = upCmd s h fun c =>
    { c with dtValid := c.dtValid.set w.val (v % 2 ^ 64) w.isLt, dtSnap := snap } := by
  unfold dtValidOp
  exact ⟨_, upCmd_congr s h rfl⟩

/-- A write of HH_CQ_BASE with its conditions as propositions. -/
theorem cqBaseOp_eq (s : State) (h : Hh) (v : Nat) : cqBaseOp s h v = upCmd s h fun c => { c with
    cqBase := v / 2 ^ 12 % 2 ^ 36 * 2 ^ 12
    cqLog2 := if 6 ≤ v % 32 ∧ v % 32 ≤ 16 then v % 32 else c.cqLog2
    cqEnable := v.testBit 7
    cqHead := if v.testBit 7 = true ∧ c.cqEnable = false then 0 else c.cqHead
    cqTail := if v.testBit 7 = true ∧ c.cqEnable = false then 0 else c.cqTail
    cqWait := if v.testBit 7 = false ∧ c.cqEnable = true then [] else c.cqWait
    cqFault := if v.testBit 7 = false ∧ c.cqEnable = true then false else c.cqFault } := by
  unfold cqBaseOp
  apply upCmd_congr
  simp only [bits, Bool.and_eq_true, decide_eq_true_eq, Bool.not_eq_true', and_comm (b := v.testBit 7 = false)]
  rfl

/-- Settles O21: both writes are a change of the household's registers, mirrored to the twin. -/
theorem tableAndRingRegisterWrites : Obligations.TableAndRingRegisterWrites := by
  intro s a h v o
  constructor
  · intro w
    obtain ⟨snap, hs⟩ := dtValidOp_eq s h w v
    refine ⟨snap, ?_⟩
    change Host.Outcome.next (hhRow s a h fun s => mirror (dtValidOp s h w v) _) = _
    rw [hhRow_open o, hs]
    rfl
  · change Host.Outcome.next (hhRow s a h fun s => mirror (cqBaseOp s h v) _) = _
    rw [hhRow_open o, cqBaseOp_eq]
    rfl

/- The completion ring (R138, R139). -/

/-- A status word as it stands in the ring: its last flag is the phase of the pass. -/
def withPhase (ph : Nat) (w : List Byte) : List Byte :=
  (w.zip (List.range 16)).map fun e => if e.2 = 3 then BitVec.ofNat 8 (e.1.toNat % 128 + 128 * ph) else e.1

theorem withPhase_length (ph : Nat) {w : List Byte} (hw : w.length = 16) : (withPhase ph w).length = 16 := by
  simp [withPhase, hw]

theorem withPhase_getD (ph : Nat) {w : List Byte} (hw : w.length = 16) {j : Nat} (hj : j < 16) :
    (withPhase ph w).getD j 0 = if j = 3 then BitVec.ofNat 8 ((w.getD 3 0).toNat % 128 + 128 * ph) else w.getD j 0 := by
  have hj' : j < w.length := by omega
  have h3 : 3 < w.length := by omega
  rw [List.getD_eq_getElem _ _ (by rw [withPhase_length _ hw]; exact hj), List.getD_eq_getElem _ _ hj',
    List.getD_eq_getElem _ _ h3]
  simp only [withPhase, List.getElem_map, List.getElem_zip, List.getElem_range]
  by_cases e : j = 3
  · subst e; rfl
  · simp only [if_neg e]

/-- The ring slot that the next word of household h takes. -/
def ringSlot (s : State) (h : Hh) : Nat := (hhAt s h).cmd.cqBase + 16 * ((hhAt s h).cmd.cqTail % 2 ^ (hhAt s h).cmd.cqLog2)
/-- The phase of its pass. -/
def ringPhase (s : State) (h : Hh) : Nat := ((hhAt s h).cmd.cqTail / 2 ^ (hhAt s h).cmd.cqLog2 + 1) % 2

/-- A word put in the ring: a write of its bytes at the tail slot, and TAIL moves on. -/
theorem ringPut_eq (s : State) (h : Hh) (w : List Byte) : ∃ t, ringPut s h w =
    upCmd t h (fun c => { c with cqTail := wrapInc 32 c.cqTail }) ∧ offCellar t = offCellar s ∧
      ∀ p, walk s h (ringSlot s h) = some p → t = cWrite s (readCpa s h false p (ringSlot s h)) (withPhase (ringPhase s h) w) := by
  unfold ringPut
  refine ⟨_, rfl, ?_, ?_⟩
  · split
    · exact cWrite_offCellar ..
    · rfl
  · intro p hp
    simp only [ringSlot] at hp
    simp only [hp]
    rfl

theorem ringPut_tail (s : State) (h : Hh) (w : List Byte) :
    (hhAt (ringPut s h w) h).cmd.cqTail = ((hhAt s h).cmd.cqTail + 1) % 2 ^ 32 := by
  obtain ⟨t, ht, off, -⟩ := ringPut_eq s h w
  have hh : hhAt t h = hhAt s h := congrArg (·.get h) (hhs_of_offCellar off)
  simp [ht, hh, wrapInc]

/-- A word put in a ring of plain pages is the write of its 16 bytes. -/
theorem ringPut_byte {s : State} {h : Hh} {w : List Byte} {p : PageX} (hp : walk s h (ringSlot s h) = some p)
    (tx : p.tx = false) (wf : spWf 0 s.cellar.mem = true) (hr : s.cellar.retired = none) (hw : w.length = 16) (a : Nat) :
    let b := p.frame + ringSlot s h % 65536
    cGet (ringPut s h w) a = if b ≤ a ∧ a < b + 16 then (withPhase (ringPhase s h) w).getD (a - b) 0 else cGet s a := by
  obtain ⟨t, ht, -, hb⟩ := ringPut_eq s h w
  have cpa : readCpa s h false p (ringSlot s h) = p.frame + ringSlot s h % 65536 := by simp [readCpa, tx]
  rw [ht, hb p hp, cpa]
  have := cGet_cWrite (withPhase (ringPhase s h) w) (p.frame + ringSlot s h % 65536) wf hr a
  rw [withPhase_length _ hw] at this
  exact this

/- The retry of held words. -/

theorem upHh_upHh (s : State) (h : Hh) (f g : HhSt → HhSt) : upHh (upHh s h f) h g = upHh s h fun c => g (f c) := by
  unfold upHh
  simp only [vmod_vmod]
  rfl

theorem recordFault_upCmd (s : State) (h : Hh) (f : HhCmd → HhCmd) (agent st va : Nat) :
    recordFault (upCmd s h f) h agent st va = upHh s h fun c => { c with
      cmd := f c.cmd, tr := { c.tr with faultStatus := st, faultAgent := agent, faultVa := va % 2 ^ 48 } } :=
  upHh_upHh ..

theorem ringDrain_empty {s : State} {h : Hh} (he : (hhAt s h).cmd.cqWait = []) : ringDrain s h = s := by
  simp [ringDrain, he, ringDrain.go]

theorem ringDrain_single {s : State} {h : Hh} {x : RingWait} (he : (hhAt s h).cmd.cqWait = [x])
    (free : ringState s h = .free) :
    ringDrain s h = upCmd (ringPut s h x.word) h fun c => { c with cqWait := [], cqFault := false } := by
  simp [ringDrain, he, ringDrain.go, free]

theorem ringDrain_fault {s : State} {h : Hh} {x : RingWait} {xs : List RingWait} {st a : Nat}
    (he : (hhAt s h).cmd.cqWait = x :: xs) (f : ringState s h = .fault st a) :
    ringDrain s h = if (hhAt s h).cmd.cqFault then s
      else errBell (recordFault (upCmd s h fun c => { c with cqFault := true }) h 10 st a) h := by
  simp [ringDrain, he, ringDrain.go, f]

/-- Settles O24: the bytes by the write rule of the cellar, the retry by its first step. -/
theorem completionRing : Obligations.CompletionRing := by
  intro s h p w c pos va phase
  refine ⟨?_, fun _ _ _ _ _ _ _ => rfl, ?_, ?_, ?_, ?_⟩
  · intro hp tx _ _ hr wf hw
    have byte := ringPut_byte hp tx wf hr hw
    refine ⟨ringPut_tail s h w, ?_, ?_⟩
    · intro j hj
      rw [byte, if_pos (by exact ⟨Nat.le_add_right .., Nat.add_lt_add_left hj _⟩)]
      rw [← withPhase_getD phase hw hj]
      exact congrArg (List.getD _ · 0) (Nat.add_sub_cancel_left ..)
    · intro a ha
      rw [byte, if_neg]
      change a < p.frame + ringSlot s h % 65536 ∨ p.frame + ringSlot s h % 65536 + 16 ≤ a at ha
      omega
  · intro he
    exact congrArg Host.Outcome.next (ringDrain_empty he)
  · intro x he free
    exact congrArg Host.Outcome.next (ringDrain_single he free)
  · intro x xs st a he f hf
    exact congrArg Host.Outcome.next ((ringDrain_fault he f).trans (if_pos hf))
  · intro x xs st a he f hf
    have := ringDrain_fault he f
    rw [hf] at this
    change Host.Outcome.next (ringDrain s h) = _
    rw [this, if_neg (by simp), recordFault_upCmd]
    rfl

end Sys2Proof.Machine
end

section
/-! PROOFS. RESUME and FLUSH of the engine queues (O25). -/

namespace Sys2Proof.Machine

/- A calm state goes on as it is. -/

theorem poolStep_idle {s : State} {i : Fin 8} (hi : (s.pools.get i).stage = .none) : poolStep s i = s := by
  simp [poolStep, poolAt, hi]

theorem loaderProgress_idle {s : State} (hj : s.loader.job = none) : loaderProgress s = s := by
  have step : loaderStep s = s := by simp [loaderStep, hj]
  simp [loaderProgress, step]

theorem settle_calm {s : State} (c : calm s) : settle s = s := by
  obtain ⟨hp, hj⟩ := c
  have pools (l : List (Fin 8)) : l.foldl (fun t i => poolStep (poolStep t i) i) s = s := by
    induction l with
    | nil => rfl
    | cons i l ih => rw [List.foldl_cons, poolStep_idle (hp i), poolStep_idle (hp i), ih]
  unfold settle
  rw [pools]
  exact loaderProgress_idle hj

/- Regions. -/

theorem upReg_congr (s : State) (r : Rg) {f g : RegionSt → RegionSt} (h : f (regAt s r) = g (regAt s r)) :
    upReg s r f = upReg s r g := by
  unfold upReg
  rw [vmod_congr _ _ h]

/- What RESUME and FLUSH make of the commands of a household (R137). -/

/-- A suspended command goes on. -/
def wakes (y : Entry) : Entry :=
  if y.phase = .suspended then { y with phase := .running, status := 0, operand := 0, offset := 0 } else y
/-- A suspended command of a move engine goes on behind the one in execution (R283). -/
def wakesBehind (es : List Entry) (y : Entry) : Entry :=
  if y.phase = .suspended ∧ (∃ x ∈ es, x.phase = .running ∨ x.phase = .done ∨ x.phase = .faulted) then
    { wakes y with phase := .resumed } else wakes y
/-- A command that FLUSH leaves. -/
def outlasts (y : Entry) : Bool := y.phase != .queued && y.phase != .suspended && y.phase != .resumed

theorem outlasts_eq (y : Entry) : (y.phase != .queued && !(y.phase == .suspended || y.phase == .resumed)) = outlasts y := by
  simp only [outlasts, bne, Bool.not_or, Bool.and_assoc]

theorem wakes_eq (y : Entry) : (if y.phase == .suspended then
    { y with phase := .running, status := 0, operand := 0, offset := 0 } else y) = wakes y := by
  simp only [wakes, beq_iff_eq]

theorem wakes_of_household (h : Hh) (y : Entry) : (if y.hh == h && y.phase == .suspended then
    { y with phase := .running, status := 0, operand := 0, offset := 0 } else y) = if y.hh = h then wakes y else y := by
  by_cases hy : y.hh = h <;> simp [wakes, hy]

theorem wakesBehind_of_household (h : Hh) (es : List Entry) (y : Entry) : (if y.hh == h && y.phase == .suspended then { y with
    phase := if es.any fun x => x.phase == .running || x.phase == .done || x.phase == .faulted then .resumed else .running
    status := 0, operand := 0, offset := 0 } else y) = if y.hh = h then wakesBehind es y else y := by
  have any : (es.any fun x => x.phase == .running || x.phase == .done || x.phase == .faulted) = true ↔
      ∃ x ∈ es, x.phase = .running ∨ x.phase = .done ∨ x.phase = .faulted := by simp [or_assoc]
  by_cases hy : y.hh = h
  · by_cases hp : y.phase = .suspended
    · by_cases hb : ∃ x ∈ es, x.phase = .running ∨ x.phase = .done ∨ x.phase = .faulted
      · simp [wakesBehind, wakes, hy, hp, any.2 hb, hb]
      · simp [wakesBehind, wakes, hy, hp, hb, show ¬ _ from fun hx => hb (any.1 hx)]
    · simp [wakesBehind, wakes, hp]
  · simp [hy]

/- RESUME and FLUSH of a larder or an MVE. -/

/-- A queue of a region after RESUME for household h. -/
def resumedQueue (h : Hh) (f : Entry → Entry) (q : RQueue) : RQueue := { q with
  qctl := h.val, halted := q.halted.set h.val false h.isLt, ents := q.ents.map fun y => if y.hh = h then f y else y }
/-- The commands of a region that FLUSH for household h leaves. -/
def unflushed (h : Hh) (es : List Entry) : List Entry := es.filter fun y => y.hh != h || outlasts y
/-- A queue of a region after FLUSH for household h: the streams of commands that went are gone. -/
def flushedQueue (h : Hh) (q : RQueue) : RQueue := { q with
  qctl := h.val, halted := q.halted.set h.val false h.isLt, ents := unflushed h q.ents
  streams := q.streams.filter fun x => (unflushed h q.ents).any fun e => e.hh == x.hh && e.seq == x.seq && e.phase != .queued }

theorem resumeQueue_mve (s : State) (r : Rg) (h : Hh) : resumeQueue s (.mve r) h = upReg s r fun g => { g with mve := { g.mve with
    halted := g.mve.halted.set h.val false h.isLt
    ents := g.mve.ents.map fun y => if y.hh = h then wakesBehind g.mve.ents y else y } } := by
  simp only [resumeQueue, setHalted, upEnts, upReg_upReg, wakesBehind_of_household]

theorem resumeQueue_larder (s : State) (r : Rg) (h : Hh) : resumeQueue s (.larder r) h = upReg s r fun g => { g with larder := { g.larder with
    halted := g.larder.halted.set h.val false h.isLt
    ents := g.larder.ents.map fun y => if y.hh = h then wakes y else y } } := by
  simp only [resumeQueue, setHalted, upEnts, upReg_upReg, wakes_of_household]

theorem engineAbort_closed {s : State} {h : Hh} (tx : (hhAt s h).tx.opened = false) (b : AbortBy) : engineAbort s h b = s := by
  simp [engineAbort, tx]

/-- The streams and slots of a unit end with their commands. -/
theorem sweep_mve (s : State) (r : Rg) : sweep s (.mve r) = upReg s r fun g => { g with mve := { g.mve with
    streams := g.mve.streams.filter fun x => g.mve.ents.any fun e => e.hh == x.hh && e.seq == x.seq && e.phase != .queued } } := by
  unfold sweep
  apply upReg_congr
  simp only [qEnts, ← Fin.val_inj, beq_eq_decide]
theorem sweep_larder (s : State) (r : Rg) : sweep s (.larder r) = upReg s r fun g => { g with
    larder := { g.larder with
      streams := g.larder.streams.filter fun x => g.larder.ents.any fun e => e.hh == x.hh && e.seq == x.seq && e.phase != .queued }
    ld := { g.ld with slots := g.ld.slots.map fun x => { x with active := x.active &&
      (g.larder.ents.any fun e => e.hh.val == x.hh && e.seq == x.seq && e.phase != .queued) } } } := by
  unfold sweep
  apply upReg_congr
  simp only [qEnts, ← Fin.val_inj, beq_eq_decide]

/-- FLUSH outside a transaction group. -/
theorem flushQueue_mve {s : State} (r : Rg) {h : Hh} (tx : (hhAt s h).tx.opened = false) :
    flushQueue s (.mve r) h = sweep (upReg s r fun g => { g with mve := { g.mve with
      halted := g.mve.halted.set h.val false h.isLt, ents := unflushed h g.mve.ents } }) (.mve r) := by
  simp only [flushQueue, setHalted, upEnts, upReg_upReg, outlasts_eq]
  split
  · exact engineAbort_closed (by simpa [sweep_mve] using tx) _
  · rfl
theorem flushQueue_larder {s : State} (r : Rg) {h : Hh} (tx : (hhAt s h).tx.opened = false) :
    flushQueue s (.larder r) h = sweep (upReg s r fun g => { g with larder := { g.larder with
      halted := g.larder.halted.set h.val false h.isLt, ents := unflushed h g.larder.ents } }) (.larder r) := by
  simp only [flushQueue, setHalted, upEnts, upReg_upReg, outlasts_eq]
  split
  · exact engineAbort_closed (by simpa [sweep_larder] using tx) _
  · rfl

theorem regionQctl_resume (s : State) (q : QueueId) (h : Hh) : regionQctl s q h false = resumeQueue s q h := rfl

theorem upReg_calm {s : State} (c : calm s) (r : Rg) (f : RegionSt → RegionSt) : calm (upReg s r f) := c

theorem mvQctlOp_resume {s : State} (c : calm s) (r : Rg) (h : Hh) : mvQctlOp s r h false =
    upReg s r fun g => { g with mve := resumedQueue h (wakesBehind g.mve.ents) g.mve } := by
  rw [mvQctlOp, regionQctl_resume, resumeQueue_mve, upReg_upReg, settle_calm (upReg_calm c ..)]
  rfl
theorem ldQctlOp_resume {s : State} (c : calm s) (r : Rg) (h : Hh) : ldQctlOp s r h false =
    upReg s r fun g => { g with larder := resumedQueue h wakes g.larder } := by
  rw [ldQctlOp, regionQctl_resume, resumeQueue_larder, upReg_upReg, settle_calm (upReg_calm c ..)]
  rfl

theorem mvQctlOp_flush {s : State} (c : calm s) (r : Rg) {h : Hh} (tx : (hhAt s h).tx.opened = false) :
    mvQctlOp s r h true = upReg s r fun g => { g with mve := flushedQueue h g.mve } := by
  have noStream (t : State) : regionQctl t (.mve r) h true = flushQueue t (.mve r) h := by
    simp only [regionQctl]
    split <;> simp_all
  rw [mvQctlOp, noStream, flushQueue_mve r (s := upReg s r _) tx, sweep_mve, upReg_upReg, upReg_upReg, settle_calm (upReg_calm c ..)]
  rfl

/-- The slots of a larder whose command has gone are free. -/
def flushedSlots (h : Hh) (g : RegionSt) : LdRegs := { g.ld with slots := g.ld.slots.map fun x => { x with active := x.active &&
  ((unflushed h g.larder.ents).any fun e => e.hh.val == x.hh && e.seq == x.seq && e.phase != .queued) } }

theorem ldQctlOp_flush {s : State} (c : calm s) (r : Rg) {h : Hh} (tx : (hhAt s h).tx.opened = false)
    (plain : ∀ y ∈ (regAt s r).larder.ents, ¬ (y.hh = h ∧ y.phase = .suspended ∧ y.cmd.opcode = 0xC1)) :
    ldQctlOp s r h true = upReg s r fun g => { g with larder := flushedQueue h g.larder, ld := flushedSlots h g } := by
  let s1 := upReg s r fun g => { g with larder := { g.larder with qctl := h.val } }
  have none : (qEnts s1 (.larder r)).find? (fun e => e.hh == h && e.phase == .suspended && e.cmd.opcode == 0xC1) = none := by
    rw [List.find?_eq_none]
    intro y hy
    simpa [and_assoc] using plain y (by simpa [s1, qEnts] using hy)
  have noStream : regionQctl s1 (.larder r) h true = flushQueue s1 (.larder r) h := by
    simp [regionQctl, none]
  rw [ldQctlOp, noStream, flushQueue_larder r (s := s1) tx, sweep_larder, upReg_upReg, upReg_upReg, settle_calm (upReg_calm c ..)]
  rfl

/- RESUME and FLUSH of a cluster queue. -/

/-- A freeze of a set's cluster once no wait is behind it (R144). -/
def frozenAfter (t : HSet) : Option (FreezeCause × Nat) → Option (FreezeCause × Nat)
  | some (c, u) => if freezeLasts t c u then some (c, u) else none
  | none => none

theorem settleFreeze_eq (s : State) (i : Site) (h : Hh) :
    settleFreeze s i h = upSite s i fun c => { c with frozen := frozenAfter (setAt s i h) c.frozen } := by
  unfold settleFreeze setFrozen
  split
  · rename_i c u hf
    split
    · rename_i lasts
      exact (upSite_id s i (by simp only [hf, frozenAfter, if_pos lasts]; rw [← hf])).symm
    · rename_i ended
      exact upSite_congr s i (by simp only [hf, frozenAfter, if_neg ended])
  · rename_i hf
    exact (upSite_id s i (by simp only [hf, frozenAfter]; rw [← hf])).symm

/-- A queue of a set changed by f. -/
def upQueue (en : Fin 5) (f : EQueue → EQueue) (t : HSet) : HSet := { t with queues := vmod t.queues en f }

theorem upQueue_queues (en : Fin 5) (f : EQueue → EQueue) (t : HSet) (j : Fin 5) :
    (upQueue en f t).queues.get j = if j = en then f (t.queues.get j) else t.queues.get j := by
  simp only [upQueue, vmod_get, eq_comm (a := en)]

theorem upQueue_upQueue (en : Fin 5) (f g : EQueue → EQueue) (t : HSet) :
    upQueue en g (upQueue en f t) = upQueue en (fun x => g (f x)) t := by
  simp only [upQueue, vmod_vmod]
  rfl

theorem upQueue_congr {en : Fin 5} {f g : EQueue → EQueue} {t : HSet} (e : f (t.queues.get en) = g (t.queues.get en)) :
    upQueue en f t = upQueue en g t := by
  simp only [upQueue, vmod_congr _ _ e]

/-- A cluster queue after RESUME. -/
def resumedCluster (x : EQueue) : EQueue := { x with halted := false, ents := x.ents.map wakes }
/-- A cluster queue after FLUSH. -/
def flushedCluster (x : EQueue) : EQueue := { x with halted := false, ents := x.ents.filter outlasts }

theorem resumeQueue_cluster {s : State} {k : Gl} {i : Site} (site : siteOf s k = some i) (en : Fin 5) (h : Hh) :
    resumeQueue s (.cluster k en) h = upSet s i h (upQueue en resumedCluster) := by
  simp only [resumeQueue, setHalted, site, siteOf_upSet, wakes_eq, upSet_upSet, vmod_vmod, Function.comp_def]
  rfl

theorem siteOf_setHalted (s : State) (q : QueueId) (h : Hh) (on : Bool) (k : Gl) :
    siteOf (setHalted s q h on) k = siteOf s k := by
  cases q with
  | cluster k' en => simp only [setHalted]; split <;> rfl
  | mve r => rfl
  | larder r => rfl

/-- Streams of a cluster's stream unit end with their commands. -/
theorem sweep_cluster {s : State} {k : Gl} {i : Site} {h : Hh} (live : liveSet s k = some (i, h)) (en : Fin 5) :
    ∃ f : List Strm → List Strm,
      sweep s (.cluster k en) = upSite s i fun c => { c with st := { c.st with streams := f c.st.streams } } := by
  simp only [sweep, live]
  exact ⟨_, rfl⟩

/-- FLUSH outside a transaction group: the streams of the commands that went are gone too. -/
theorem flushQueue_cluster {s : State} {k : Gl} {i : Site} {h : Hh} (live : liveSet s k = some (i, h)) (en : Fin 5)
    (tx : (hhAt s h).tx.opened = false) (own : ∀ y ∈ ((setAt s i h).queues.get en).ents, y.hh = h) :
    ∃ f : List Strm → List Strm, flushQueue s (.cluster k en) h =
      upSite (upSet s i h (upQueue en flushedCluster)) i
        fun c => { c with st := { c.st with streams := f c.st.streams } } := by
  let s1 := upSet s i h (upQueue en flushedCluster)
  have site := siteOf_live live
  have kept : ((setAt s i h).queues.get en).ents.filter (fun e => e.hh != h || outlasts e) =
      ((setAt s i h).queues.get en).ents.filter outlasts :=
    List.filter_congr fun y hy => by simp [own y hy]
  have same : upSet (setHalted s (.cluster k en) h false) i h (fun t => { t with
      queues := vmod t.queues en fun x => { x with ents := x.ents.filter fun e => e.hh != h || outlasts e } }) = s1 := by
    simp only [setHalted, site, upSet_upSet, vmod_vmod, Function.comp_def]
    exact upSet_congr s i h (upQueue_congr (by simp only [kept, flushedCluster]))
  obtain ⟨f, hf⟩ := sweep_cluster (s := s1) (i := i) (h := h) (by simpa [s1] using live) en
  refine ⟨f, ?_⟩
  rw [← hf]
  simp only [flushQueue, site, siteOf_setHalted, outlasts_eq, same]
  split
  · exact engineAbort_closed (by rw [hf]; exact tx) _
  · rfl

theorem ite_upReg (c : Prop) [Decidable c] (s : State) (r : Rg) (f : RegionSt → RegionSt) :
    ∃ g, (if c then s else upReg s r f) = upReg s r g := by
  by_cases hc : c
  · exact ⟨id, by rw [if_pos hc, upReg, vmod_id _ _ rfl]⟩
  · exact ⟨f, if_neg hc⟩

/-- ENGINE of CL_QCTL keeps the value written (R151). -/
def noteQctl (en : Fin 5) (c : SiteSt) : SiteSt := { c with qctl := en.val }

theorem liveSet_noteQctl (s : State) (i : Site) (en : Fin 5) (k : Gl) : liveSet (upSite s i (noteQctl en)) k = liveSet s k :=
  liveSet_upSite fun _ => ⟨rfl, rfl⟩

/-- CL_QCTL outside timed mode acts on the queue it names; a freeze whose wait is over ends, and landing buffers may fall free. -/
theorem clQctl_cluster {s : State} {k : Gl} {i : Site} {h : Hh} (live : liveSet s k = some (i, h)) (untimed : modeOf s h ≠ 2)
    (en : Fin 5) (flush : Bool) : ∃ g, clQctl s k en.val flush = upReg (settleFreeze (
      if flush then flushQueue (upSite s i (noteQctl en)) (.cluster k en) h
      else resumeQueue (upSite s i (noteQctl en)) (.cluster k en) h) i h) (regionOf k) g := by
  have e5 : ¬ en.val ≥ 5 := by omega
  have queues : qctlQueues (upSite s i fun c => { c with qctl := en.val }) k h en.val = [.cluster k en] := by
    have mode : (modeOf (upSite s i fun c => { c with qctl := en.val }) h == 2) = false := beq_eq_false_iff_ne.2 untimed
    simp [qctlQueues, fin?, mode]
  simp only [clQctl, live, if_neg e5, queues, List.foldl_cons, List.foldl_nil]
  exact ite_upReg ..

/-- What CL_QCTL leaves of the window of a cluster: the engine named, its freeze settled, one queue changed. -/
structure Controlled (s t : State) (i : Site) (h : Hh) (en : Fin 5) (f : EQueue → EQueue) : Prop where
  qctl : (siteAt t i).qctl = en.val
  frozen : (siteAt t i).frozen = frozenAfter (setAt t i h) (siteAt s i).frozen
  queues : ∀ j, (setAt t i h).queues.get j = if j = en then f ((setAt s i h).queues.get j) else (setAt s i h).queues.get j
  rest : t.cellar = s.cellar ∧ t.hhs = s.hhs ∧ t.db = s.db

theorem settleFreeze_controlled {s : State} {i : Site} {h : Hh} {en : Fin 5} {f : EQueue → EQueue} {G : SiteSt → SiteSt}
    (qctl : (G (siteAt s i)).qctl = en.val) (frozen : (G (siteAt s i)).frozen = (siteAt s i).frozen)
    (sets : (G (siteAt s i)).sets = vmod (siteAt s i).sets h (upQueue en f)) (r : Rg) (g : RegionSt → RegionSt) :
    Controlled s (upReg (settleFreeze (upSite s i G) i h) r g) i h en f ∧
      (calm s → calm (upReg (settleFreeze (upSite s i G) i h) r g)) := by
  rw [settleFreeze_eq]
  refine ⟨⟨?_, ?_, fun j => ?_, rfl, rfl, rfl⟩, id⟩
  · simpa using qctl
  · simp [setAt, frozen]
  · simp [setAt, sets, upQueue_queues]

theorem resume_controlled {s : State} {k : Gl} {i : Site} {h : Hh} (live : liveSet s k = some (i, h)) (untimed : modeOf s h ≠ 2)
    (en : Fin 5) : Controlled s (clQctl s k en.val false) i h en resumedCluster := by
  obtain ⟨g, hg⟩ := clQctl_cluster live untimed en false
  rw [hg, if_neg (by decide), resumeQueue_cluster (siteOf_live ((liveSet_noteQctl s i en k).trans live)), upSet, upSite_upSite]
  exact (settleFreeze_controlled rfl rfl rfl _ g).1

theorem flush_controlled {s : State} {k : Gl} {i : Site} {h : Hh} (live : liveSet s k = some (i, h)) (untimed : modeOf s h ≠ 2)
    (en : Fin 5) (tx : (hhAt s h).tx.opened = false) (own : ∀ y ∈ ((setAt s i h).queues.get en).ents, y.hh = h) :
    Controlled s (clQctl s k en.val true) i h en flushedCluster ∧ (calm s → calm (clQctl s k en.val true)) := by
  obtain ⟨g, hg⟩ := clQctl_cluster live untimed en true
  obtain ⟨f, hf⟩ := flushQueue_cluster ((liveSet_noteQctl s i en k).trans live) en tx (by simpa [setAt, noteQctl] using own)
  rw [hg, if_pos rfl, hf, upSet, upSite_upSite, upSite_upSite]
  exact settleFreeze_controlled rfl rfl rfl _ g

/-- Settles O25: each write acts on one queue, whose commands RESUME wakes and FLUSH drops. -/
theorem resumeAndFlush : Obligations.ResumeAndFlush := by
  intro s a woken stays
  constructor
  · intro k en i h o live untimed q e8 frozenAs
    have frozen {t : State} (ht : (siteAt t i).frozen = frozenAfter (setAt t i h) (siteAt s i).frozen) : frozenAs t := by
      simp only [frozenAs, ht]
      cases (siteAt s i).frozen <;> rfl
    have queue {t : State} {f : EQueue → EQueue} (ht : ∀ j, (setAt t i h).queues.get j =
        if j = en then f ((setAt s i h).queues.get j) else (setAt s i h).queues.get j) (j : Fin 5) :
        (setAt t i h).queues.get j = if j = en then f q else (setAt s i h).queues.get j := by
      rw [ht]
      by_cases hj : j = en
      · rw [if_pos hj, if_pos hj, hj]
      · rw [if_neg hj, if_neg hj]
    constructor
    · obtain ⟨qctl, fr, queues, rest⟩ := resume_controlled live untimed en
      refine ⟨clQctl s k en.val false, ?_, qctl, frozen fr, queue queues, rest⟩
      exact congrArg Host.Outcome.next (clusterRow_open o _)
    · intro c tx own
      obtain ⟨⟨qctl, fr, queues, rest⟩, still⟩ := flush_controlled live untimed en tx own
      refine ⟨clQctl s k en.val true, ?_, qctl, frozen fr, queue queues, rest⟩
      exact congrArg Host.Outcome.next ((clusterRow_open o _).trans (settle_calm (still c)))
  · intro r h up own c tx resumed behind ldFlushed flushed
    constructor
    · intro on
      constructor
      · exact congrArg Host.Outcome.next ((mveQctlRow_open up own on _).trans (mvQctlOp_resume c r h))
      · exact congrArg Host.Outcome.next ((mveQctlRow_open up own on _).trans (mvQctlOp_flush c r tx))
    · intro on
      constructor
      · exact congrArg Host.Outcome.next ((larderQctlRow_open up own on _).trans (ldQctlOp_resume c r h))
      · intro plain
        exact congrArg Host.Outcome.next ((larderQctlRow_open up own on _).trans (ldQctlOp_flush c r tx plain))

end Sys2Proof.Machine
end

section
/-! PROOFS. The sequencer of a cluster: START, STOP, RESUME and the fills of its cache (O39). -/

namespace Sys2Proof.Machine

/- A state but for stall counts and translation caches. -/

/-- A site with other stall counts. -/
def withStalls (v : Vector (Vector Nat 10) 8) (c : SiteSt) : SiteSt := { c with stallLive := v }

/-- State t is u but for the stall counts of site i, the counter of free values and the translation caches. -/
def Near (i : Site) (u t : State) : Prop :=
  t = { upSite u i (fun c => { c with stallLive := (siteAt t i).stallLive }) with fresh := t.fresh, hhs := t.hhs } ∧
    t.hhs.map noTlb = u.hhs.map noTlb

/-- A state with another counter of free values and other households. -/
def besides (n : Nat) (hs : Vector HhSt 16) (s : State) : State := { s with fresh := n, hhs := hs }

theorem upSite_comm (s : State) (i : Site) (f g : SiteSt → SiteSt) (e : ∀ c, f (g c) = g (f c)) :
    upSite (upSite s i g) i f = upSite (upSite s i f) i g := by
  rw [upSite_upSite, upSite_upSite, funext e]

theorem near_of_eq {i : Site} {u t : State} {v : Vector (Vector Nat 10) 8} {n : Nat} {hs : Vector HhSt 16}
    (e : t = besides n hs (upSite u i (withStalls v))) (hh : hs.map noTlb = u.hhs.map noTlb) : Near i u t := by
  have stalls : (siteAt t i).stallLive = v := by
    rw [e]
    exact congrArg SiteSt.stallLive ((siteAt_upSite u i (withStalls v) i).trans (if_pos rfl))
  refine ⟨?_, by rw [e]; exact hh⟩
  rw [stalls, e]
  rfl

theorem near_besides {i : Site} {u : State} {n : Nat} {hs : Vector HhSt 16} (hh : hs.map noTlb = u.hhs.map noTlb) :
    Near i u (besides n hs u) :=
  near_of_eq (v := (siteAt u i).stallLive) (by rw [upSite_id u i rfl]) hh

/-- A wait that is counted. -/
theorem stallUnits_eq (s : State) (i : Site) (us : List (Fin 8)) (c : Fin 10) (n : Nat) :
    ∃ v, stallUnits s i us c n = tickFresh (upSite s i (withStalls v)) :=
  ⟨_, congrArg tickFresh (upSite_congr s i rfl)⟩

theorem xsqFreeze_eq (s : State) (i : Site) (h : Hh) (c : FreezeCause) : ∃ v n, xsqFreeze s i h c =
    besides n s.hhs (upSite (if modeOf s h == 2 then setFrozen s i (some (c, 5)) else s) i (withStalls v)) := by
  unfold xsqFreeze
  obtain ⟨v, hv⟩ := stallUnits_eq s i (if modeOf s h == 2 then [0, 1, 2, 3, 5] else [5]) (freezeCode c) (freeWait s)
  refine ⟨v, s.fresh + 2, ?_⟩
  simp only [hv]
  by_cases timed : (modeOf s h == 2) = true
  · simp only [if_pos timed, setFrozen]
    exact congrArg (besides (s.fresh + 2) s.hhs) (upSite_comm s i (fun x => { x with frozen := some (c, 5) }) (withStalls v) fun _ => rfl)
  · simp only [if_neg timed]
    rfl

theorem near_xsqFreeze (s : State) (i : Site) (h : Hh) (c : FreezeCause) :
    Near i (if modeOf s h == 2 then setFrozen s i (some (c, 5)) else s) (xsqFreeze s i h c) := by
  obtain ⟨v, n, e⟩ := xsqFreeze_eq s i h c
  refine near_of_eq (v := v) (n := n) (hs := s.hhs) ?_ ?_
  · exact e
  · split <;> rfl

/- START, STOP and RESUME. -/

theorem upXsq_congr (s : State) (i : Site) (h : Hh) {f g : Xsq → Xsq} (e : f (setAt s i h).xsq = g (setAt s i h).xsq) :
    upXsq s i h f = upXsq s i h g :=
  upSet_congr s i h (by simp only [e])
theorem upXsq_upXsq (s : State) (i : Site) (h : Hh) (f g : Xsq → Xsq) :
    upXsq (upXsq s i h f) i h g = upXsq s i h fun x => g (f x) := upSet_upSet ..
theorem upXsq_id (s : State) (i : Site) (h : Hh) {f : Xsq → Xsq} (e : f (setAt s i h).xsq = (setAt s i h).xsq) :
    upXsq s i h f = s :=
  upSet_id s i h (by simp only [e])
theorem xsq_upXsq (s : State) (i : Site) (h : Hh) (f : Xsq → Xsq) : (setAt (upXsq s i h f) i h).xsq = f (setAt s i h).xsq := by
  simp [upXsq]

theorem xsqBytes_empty {x : Xsq} (e : x.cache = []) (pc : Nat) : xsqBytes x pc = none := by simp [xsqBytes, e]

/-- The sequencer stands at a record whose line is missing. -/
theorem xsqGoto_missing {s : State} {i : Site} {h : Hh} {pc : Nat} (at_ : (setAt s i h).xsq.pc = pc)
    (run : (setAt s i h).xsq.run = true) (miss : xsqBytes (setAt s i h).xsq pc = none) :
    xsqGoto s i h pc = xsqFreeze s i h .cacheMiss := by
  have stays : (upXsq s i h fun x => { x with pc := pc }) = s := upXsq_id s i h (by rw [← at_])
  simp [xsqGoto, stays, run, miss]

/-- The registers of a sequencer at START (R152). -/
def Xsq.started (entry : Nat) (x : Xsq) : Xsq := { x with
  entry := entry, run := true, pc := entry, checks := 0, processed := 0, loops := [], pend := [], cache := []
  tPrev := 0, accept := .replicate 5 0, gen := .replicate 64 0, adv := [] }

/-- A site at the start of a timed program: the array begins its ramp (R145). -/
def rampBegun (c : SiteSt) : SiteSt := { c with
  inflight := [], accFly := [], mx := { c.mx with step := 0, rampUp := true, rampDown := false, rampNow := c.mx.ramp } }

theorem startRamp_eq (s : State) (i : Site) (h : Hh) :
    ∃ v, startRamp s i h = tickFresh (upSite (upSite s i (withStalls v)) i rampBegun) := by
  obtain ⟨v, hv⟩ := stallUnits_eq s i (waitUnits s h 0) scRamp (siteAt s i).mx.ramp
  refine ⟨v, ?_⟩
  have begun : startRamp s i h = upSite (stallUnits s i (waitUnits s h 0) scRamp (siteAt s i).mx.ramp) i rampBegun := by
    unfold startRamp
    apply upSite_congr
    rw [hv]
    simp [rampBegun, withStalls]
  rw [begun, hv]
  rfl

theorem setAt_startRamp (s : State) (i : Site) (h g : Hh) : setAt (startRamp s i h) i g = setAt s i g := by
  obtain ⟨v, e⟩ := startRamp_eq s i h
  rw [e]
  simp [setAt, withStalls, rampBegun]

/-- START of a sequencer that stands: the array of a timed household begins its ramp and the first line is missed. -/
theorem near_xsqStart (s : State) (i : Site) (h : Hh) (entry : Nat) :
    let t := upXsq s i h (Xsq.started entry)
    Near i (if modeOf s h == 2 then upSite t i fun c => { rampBegun c with frozen := some (.cacheMiss, 5) } else t)
      (xsqGoto (if modeOf s h == 2 then startRamp t i h else t) i h entry) := by
  intro t
  have x : (setAt t i h).xsq = (setAt s i h).xsq.started entry := xsq_upXsq ..
  have mode : modeOf t h = modeOf s h := rfl
  by_cases timed : (modeOf s h == 2) = true
  · simp only [if_pos timed]
    rw [xsqGoto_missing (by rw [setAt_startRamp, x]; rfl) (by rw [setAt_startRamp, x]; rfl)
      (by rw [setAt_startRamp, x]; exact xsqBytes_empty rfl _)]
    obtain ⟨v, n, e⟩ := xsqFreeze_eq (startRamp t i h) i h .cacheMiss
    obtain ⟨w, ramp⟩ := startRamp_eq t i h
    refine near_of_eq (v := v) (n := n) (hs := t.hhs) ?_ rfl
    have timed' : (modeOf (startRamp t i h) h == 2) = true := by rw [ramp]; exact timed
    rw [e, if_pos timed', ramp]
    change besides n t.hhs (upSite (setFrozen (upSite (upSite t i (withStalls w)) i rampBegun) i _) i (withStalls v)) = _
    simp only [setFrozen, upSite_upSite]
    exact congrArg (besides n t.hhs) (upSite_congr t i rfl)
  · simp only [if_neg timed]
    rw [xsqGoto_missing (by rw [x]; rfl) (by rw [x]; rfl) (by rw [x]; exact xsqBytes_empty rfl _)]
    have := near_xsqFreeze t i h .cacheMiss
    rwa [mode, if_neg timed] at this

theorem xsqStartOp_recordsEntry {s : State} {k : Gl} {i : Site} {h : Hh} (live : liveSet s k = some (i, h)) (entry : Nat)
    (kept : (setAt s i h).xsq.run = true ∨ (setAt s i h).xsq.suspended = true ∨ modeOf s h = 0) :
    xsqStartOp s k entry = upXsq s i h fun x => { x with entry := entry } := by
  have mode : modeOf (upXsq s i h fun x => { x with entry := entry }) h = modeOf s h := rfl
  simp only [xsqStartOp, live, xsq_upXsq, mode]
  rcases kept with e | e | e <;> simp [e]

theorem xsqStartOp_starts {s : State} {k : Gl} {i : Site} {h : Hh} (live : liveSet s k = some (i, h)) (entry : Nat)
    (stands : (setAt s i h).xsq.run = false ∧ (setAt s i h).xsq.suspended = false ∧ (setAt s i h).xsq.halting = false ∧
      (setAt s i h).xsq.due = none) (mode : modeOf s h ≠ 0) (lease : (hhAt s h).lease.isSome = true) :
    let t := upXsq s i h (Xsq.started entry)
    xsqStartOp s k entry = xsqGoto (if modeOf s h == 2 then startRamp t i h else t) i h entry := by
  obtain ⟨run, susp, halt, due⟩ := stands
  have hm : modeOf (upXsq s i h fun x => { x with entry := entry }) h = modeOf s h := rfl
  have hl : (hhAt (upXsq s i h fun x => { x with entry := entry }) h).lease.isNone = false := by
    simpa [upXsq, Option.isSome_iff_ne_none] using lease
  simp only [xsqStartOp, live, xsq_upXsq, hm, hl, run, susp, halt, due, upXsq_upXsq, beq_eq_false_iff_ne.2 mode]
  rfl

/-- The array comes down its ramp where it is active (R174). -/
def rampsDown (m : MxRegs) : MxRegs :=
  if m.rampUp = true ∨ m.rampDown = true ∨ m.step ≠ 0 then { m with rampUp := false, rampDown := true, rampNow := m.ramp } else m

theorem rampsDown_eq (m : MxRegs) :
    (if m.active then { m with rampUp := false, rampDown := true, rampNow := m.ramp } else m) = rampsDown m := by
  have active : m.active = true ↔ m.rampUp = true ∨ m.rampDown = true ∨ m.step ≠ 0 := by simp [MxRegs.active, or_assoc]
  simp only [rampsDown, active]

theorem haltRamp_eq (s : State) (i : Site) (h : Hh) : haltRamp s i h =
    upSite s i fun c => { c with mx := if (modeOf s h == 2) = true then rampsDown c.mx else c.mx } := by
  unfold haltRamp
  split
  · simp only [rampsDown_eq]
  · exact (upSite_id s i rfl).symm

theorem setAt_haltRamp (s : State) (i : Site) (h g : Hh) : setAt (haltRamp s i h) i g = setAt s i g := by
  rw [haltRamp_eq]
  simp [setAt]

/-- A halted array comes down its ramp, and a freeze whose wait is over ends. -/
theorem settleFreeze_haltRamp (s : State) (i : Site) (h : Hh) : settleFreeze (haltRamp s i h) i h = upSite s i fun c => { c with
    mx := if (modeOf s h == 2) = true then rampsDown c.mx else c.mx, frozen := frozenAfter (setAt s i h) c.frozen } := by
  rw [settleFreeze_eq, setAt_haltRamp, haltRamp_eq, upSite_upSite]

theorem xsqStopOp_eq {s : State} {k : Gl} {i : Site} {h : Hh} (live : liveSet s k = some (i, h))
    (halting : (setAt s i h).xsq.halting = false) :
    let x := (setAt s i h).xsq
    let t := upXsq s i h fun x => { x with run := false, suspended := false, pend := [], loops := [] }
    xsqStopOp s k = upSite t i fun c => { c with
      mx := if (modeOf s h == 2) = true ∧ (x.run = true ∨ x.suspended = true) then rampsDown c.mx else c.mx
      frozen := frozenAfter (setAt t i h) c.frozen } := by
  intro x t
  have mode : modeOf t h = modeOf s h := rfl
  simp only [xsqStopOp, live, halting, Bool.false_eq_true, if_false]
  by_cases ran : x.run = true ∨ x.suspended = true
  · have hr : (x.run || x.suspended) = true := by simpa using ran
    simp only [ran, and_true]
    rw [if_pos hr, settleFreeze_haltRamp]
    rfl
  · have hr : ¬ (x.run || x.suspended) = true := by simpa using ran
    simp only [ran, and_false, if_false]
    rw [if_neg hr, settleFreeze_eq]

theorem xsqStopOp_halting {s : State} {k : Gl} {i : Site} {h : Hh} (live : liveSet s k = some (i, h))
    (halting : (setAt s i h).xsq.halting = true) : xsqStopOp s k = s := by
  simp [xsqStopOp, live, halting]

theorem xsqResumeOp_eq {s : State} {k : Gl} {i : Site} {h : Hh} (live : liveSet s k = some (i, h)) : xsqResumeOp s k =
    if (setAt s i h).xsq.suspended then upXsq s i h fun x => { x with suspended := false } else s := by
  simp only [xsqResumeOp, live]

/- The fills of the cache. -/

/-- The line of the record at which a sequencer stands is missing. -/
theorem xsqBytes_missing {x : Xsq} (miss : ∀ l ∈ x.cache, l.1 ≠ (x.base + 32 * x.pc) % 2 ^ 64 / 1024) : xsqBytes x x.pc = none := by
  have : x.cache.find? (fun l => l.1 == xsqAddr x x.pc / 1024) = none :=
    List.find?_eq_none.2 fun l hl => by simpa [xsqAddr] using miss l hl
  simp [xsqBytes, this]

/-- The sequencer stands, ready, at a record whose line is missing. -/
structure Misses (s : State) (k : Gl) (i : Site) (h : Hh) : Prop where
  live : liveSet s k = some (i, h)
  run : (setAt s i h).xsq.run = true
  awake : (setAt s i h).xsq.suspended = false
  due : (setAt s i h).xsq.due = none
  thawed : frozenFor s i 5 = false
  line : xsqBytes (setAt s i h).xsq (setAt s i h).xsq.pc = none

theorem xsqThaw_free {s : State} {i : Site} (f : frozenFor s i 5 = false) : xsqThaw s i = setFrozen s i none := by
  simp [xsqThaw, f]

theorem upTr_tlb_hhs (s : State) (h : Hh) (l : List TlbEnt) :
    (upTr s h fun x => { x with tlb := l }).hhs.map noTlb = s.hhs.map noTlb := by
  apply Vector.ext
  intro j hj
  simp only [upTr_hhs, vmod, Vector.getElem_map, Vector.getElem_set, get_val]
  split
  · subst j; rfl
  · rfl

theorem near_fill {s : State} {k : Gl} {i : Site} {h : Hh} (m : Misses s k i h) {bs : List Byte}
    (read : hRead s h true .read (1024 * (xsqAddr (setAt s i h).xsq (setAt s i h).xsq.pc / 1024)) 1024 = .ok bs)
    (room : (setAt s i h).xsq.cache.length < 64) :
    Near i (setFrozen (upXsq s i h fun x => { x with
      cache := (xsqAddr (setAt s i h).xsq (setAt s i h).xsq.pc / 1024, bs) :: x.cache }) i none) (xsqFillOp s k) := by
  obtain ⟨live, run, awake, due, thawed, line⟩ := m
  obtain ⟨l, hl⟩ := cachePages_eq s h (tlbUnit 1 k.val) [1024 * (xsqAddr (setAt s i h).xsq (setAt s i h).xsq.pc / 1024)]
  let v := upXsq (upTr s h fun x => { x with tlb := l }) i h fun x => { x with
    cache := (xsqAddr (setAt s i h).xsq (setAt s i h).xsq.pc / 1024, bs) :: x.cache }
  have fills : xsqFillOp s k = xsqThaw (tickFresh v) i := by
    simp only [xsqFillOp, xsqSettle, live, due, run, awake, line, thawed, read, room, hl]
    exact congrArg (fun t => xsqThaw (tickFresh t) i) (upXsq_congr (upTr s h fun x => { x with tlb := l }) i h rfl)
  have thawed' : frozenFor (tickFresh v) i 5 = false := by simpa [v, frozenFor, upXsq] using thawed
  rw [fills, xsqThaw_free thawed']
  exact near_besides (n := s.fresh + 1) (upTr_tlb_hhs s h l)

/-- A word is not written while the ring is off (R139). -/
theorem postWord_off {s : State} {h : Hh} (off : (hhAt s h).cmd.cqEnable = false) (w : List Byte) (o : Option (QueueId × Nat)) :
    postWord s h w o = s := by
  simp [postWord, off]

/-- Household h after a fault of its sequencer's fetch. -/
theorem near_fill_fault {s : State} {k : Gl} {i : Site} {h : Hh} (m : Misses s k i h) {st a : Nat}
    (read : hRead s h true .read (1024 * (xsqAddr (setAt s i h).xsq (setAt s i h).xsq.pc / 1024)) 1024 = .error (.fault st a))
    (ring : (hhAt s h).cmd.cqEnable = false) :
    let t := upXsq (errBell (recordFault s h 1 st a) h) i h fun x => { x with suspended := true, lastStatus := st }
    Near i (if modeOf s h == 2 then setFrozen t i (some (.fault, 5)) else t) (xsqFillOp s k) := by
  obtain ⟨live, run, awake, due, thawed, line⟩ := m
  have word (w : List Byte) (o : Option (QueueId × Nat)) : postWord (recordFault s h 1 st a) h w o = recordFault s h 1 st a :=
    postWord_off (by simpa [recordFault] using ring) w o
  have fails : xsqFillOp s k = xsqFreeze (upXsq (errBell (recordFault s h 1 st a) h) i h fun x => { x with
      suspended := true, lastStatus := st }) i h .fault := by
    simp only [xsqFillOp, xsqSettle, live, due, run, awake, line, thawed, read, xsqWord, word]
    rfl
  have mode : modeOf (upXsq (errBell (recordFault s h 1 st a) h) i h fun x => { x with
      suspended := true, lastStatus := st }) h = modeOf s h := by
    simp [modeOf, upXsq, recordFault]
  have := near_xsqFreeze (upXsq (errBell (recordFault s h 1 st a) h) i h fun x => { x with
      suspended := true, lastStatus := st }) i h .fault
  rw [mode] at this
  rw [fails]
  exact this

/-- Settles O39: each event is one change of the sequencer's registers, with the array's ramp, the freeze and the counts of a wait. -/
theorem sequencerControl : Obligations.SequencerControl := by
  intro s a k i h live x timed near still downs
  refine ⟨fun o => ⟨?_, ?_, ?_, ?_, ?_, ?_⟩, fun run awake due thawed line => ⟨?_, ?_⟩⟩
  · intro entry run susp halt due mode lease t
    refine ⟨_, congrArg Host.Outcome.next ((clusterRow_open o _).trans
      (xsqStartOp_starts live entry ⟨run, susp, halt, due⟩ mode lease)), ?_⟩
    exact near_xsqStart s i h entry
  · intro entry kept
    exact congrArg Host.Outcome.next ((clusterRow_open o _).trans (xsqStartOp_recordsEntry live entry kept))
  · intro c halting t
    have stop := xsqStopOp_eq live halting
    refine congrArg Host.Outcome.next ((clusterRow_open o _).trans ?_)
    rw [stop, settle_calm (Tests.upSite_calm (by exact c) i _)]
    refine upSite_congr t i ?_
    have frozen : frozenAfter (setAt t i h) (siteAt t i).frozen = still t (siteAt t i) := by
      simp only [still]
      cases (siteAt t i).frozen <;> rfl
    simp only [← frozen]
    rfl
  · intro c halting
    refine congrArg Host.Outcome.next ((clusterRow_open o _).trans ?_)
    rw [xsqStopOp_halting live halting, settle_calm c]
  · intro susp
    exact congrArg Host.Outcome.next ((clusterRow_open o _).trans ((xsqResumeOp_eq live).trans (if_pos susp)))
  · intro susp
    have asleep : ¬ (setAt s i h).xsq.suspended = true := by simpa [x] using susp
    exact congrArg Host.Outcome.next ((clusterRow_open o _).trans ((xsqResumeOp_eq live).trans (if_neg asleep)))
  · intro bs read room
    exact ⟨_, rfl, near_fill ⟨live, run, awake, due, thawed, xsqBytes_missing line⟩ read room⟩
  · intro st a read ring t
    exact ⟨_, rfl, near_fill_fault ⟨live, run, awake, due, thawed, xsqBytes_missing line⟩ read ring⟩

end Sys2Proof.Machine
end

section
/-! PROOFS. The records of a sequencer's program (O40). -/

namespace Sys2Proof.Machine

/- Words in the ring and the sites. -/

theorem cWrite_upSite (s : State) (i : Site) (f : SiteSt → SiteSt) (a : Nat) (bs : List Byte) :
    cWrite (upSite s i f) a bs = upSite (cWrite s a bs) i f := by
  have puts (es : List (Byte × Nat)) (s : State) : es.foldl (fun t e => cPut t (a + e.2) e.1) (upSite s i f) =
      upSite (es.foldl (fun t e => cPut t (a + e.2) e.1) s) i f := by
    induction es generalizing s with
    | nil => rfl
    | cons e es ih => exact ih (cPut s (a + e.2) e.1)
  unfold cWrite
  rw [puts]
  rfl

theorem ringPut_upSite (s : State) (i : Site) (f : SiteSt → SiteSt) (h : Hh) (w : List Byte) :
    ringPut (upSite s i f) h w = upSite (ringPut s h w) i f := by
  have walks (va : Nat) : walk (upSite s i f) h va = walk s h va := rfl
  unfold ringPut
  simp only [walks, cWrite_upSite, hhAt_upSite]
  split
  · rename_i p hp
    rfl
  · rfl

theorem ringPut_wait (s : State) (h : Hh) (w : List Byte) : (hhAt (ringPut s h w) h).cmd.cqWait = (hhAt s h).cmd.cqWait := by
  obtain ⟨t, ht, off, -⟩ := ringPut_eq s h w
  have hh : hhAt t h = hhAt s h := congrArg (·.get h) (hhs_of_offCellar off)
  simp [ht, hh]

/- The next record of a sequencer. -/

/-- The sequencer of household h on site i is ready, at the record of 32 bytes bs. -/
structure Ready (s : State) (k : Gl) (i : Site) (h : Hh) (bs : List Byte) : Prop where
  live : liveSet s k = some (i, h)
  run : (setAt s i h).xsq.run = true
  awake : (setAt s i h).xsq.suspended = false ∧ (setAt s i h).xsq.halting = false
  due : (setAt s i h).xsq.due = none
  thawed : frozenFor s i 5 = false

theorem ready_of_next {s : State} {k : Gl} {i : Site} {h : Hh} {r : Record} (live : liveSet s k = some (i, h))
    (next : xsqNext s k = some (i, h, r)) : ∃ bs, Ready s k i h bs ∧ r = recordOf bs := by
  simp only [xsqNext, live] at next
  split at next
  · cases next
  · rename_i free
    simp only [Bool.or_eq_true, Bool.not_eq_true', not_or, Bool.not_eq_false, Bool.not_eq_true, Option.isSome_eq_false_iff,
      Option.isNone_iff_eq_none] at free
    obtain ⟨⟨⟨⟨⟨⟨run, susp⟩, halt⟩, due⟩, -⟩, thawed⟩, -⟩ := free
    obtain ⟨bs, -, hr⟩ := Option.map_eq_some_iff.1 next
    exact ⟨bs, ⟨live, run, ⟨susp, halt⟩, due, thawed⟩, by simp_all⟩

/-- A sequencer that stalls on no word acts. -/
theorem xsqSettle_free {s : State} {k : Gl} {i : Site} {h : Hh} (live : liveSet s k = some (i, h))
    (due : (setAt s i h).xsq.due = none) (p : Nat → Bool) (f : State → State) : xsqSettle s k p f = f s := by
  simp only [xsqSettle, live, due]

/-- The next record is cached: the sequencer goes on to it. -/
theorem xsqGoto_kept {s : State} {i : Site} {h : Hh} {pc : Nat} (kept : (xsqBytes (setAt s i h).xsq pc).isSome = true) :
    xsqGoto s i h pc = upXsq s i h fun x => { x with pc := pc } := by
  have same : xsqBytes { (setAt s i h).xsq with pc := pc } pc = xsqBytes (setAt s i h).xsq pc := rfl
  simp only [xsqGoto, xsq_upXsq, same]
  rw [if_neg]
  simp [Option.isSome_iff_ne_none.1 kept]

/-- The first record of a timed program ends the start ramp (R145). -/
def rampEnded (timed : Bool) (c : SiteSt) : SiteSt :=
  if timed = true ∧ c.mx.rampUp = true then { c with mx := { c.mx with rampUp := false, step := 7 } } else c

theorem rampEnded_sets (timed : Bool) (c : SiteSt) : (rampEnded timed c).sets = c.sets := by
  unfold rampEnded; split <;> rfl

theorem setAt_rampEnded (s : State) (i : Site) (h : Hh) (timed : Bool) : setAt (upSite s i (rampEnded timed)) i h = setAt s i h := by
  simp [setAt, rampEnded_sets]

theorem rampEnded_eq (s : State) (i : Site) (timed : Bool) : upSite s i (rampEnded timed) =
    if timed = true ∧ (siteAt s i).mx.rampUp = true then
      upSite s i fun c => { c with mx := { c.mx with rampUp := false, step := 7 } } else s := by
  split
  · rename_i e
    exact upSite_congr s i (if_pos e)
  · rename_i e
    exact upSite_id s i (if_neg e)

/-- A record counts as processed. -/
theorem xsqCount_eq (s : State) (i : Site) (h : Hh) : xsqCount s i h =
    upXsq (upSite s i (rampEnded (modeOf s h == 2))) i h fun x => { x with processed := (x.processed + 1) % 2 ^ 32 } := by
  rw [rampEnded_eq]
  simp only [xsqCount, Bool.and_eq_true, wrapInc]

/- The decode of a control record. -/

/-- Fields of a control record outside a hand-off. -/
theorem ctrl_plain {r : Record} (hc : r.ctrl = 0) : bits r.ctrl 3 2 = 0 ∧ r.handoff = false ∧ r.hq = 0 ∧ r.report = false ∧ r.notify = false := by
  simp [bits, Record.handoff, Record.hq, Record.report, Record.notify, hc]

theorem delta_zero {r : Record} (h : r.delta = 0) : r.wait = 0 ∧ r.signal = 0 := by
  unfold Record.delta at h
  omega

/-- A record without fields but MOD decodes where its DELTA fits the mode. -/
theorem controlBad_bare {timed : Bool} {r : Record} {mask : Nat} (bare : r.ctrl = 0 ∧ r.opa = 0 ∧ r.opb = 0 ∧ r.opd = 0)
    (op : r.op ≠ 3) (delta : if timed = true then (if r.op = 4 then r.delta = 0 else r.delta ≠ 0) else r.delta = 0)
    (mod : r.mod &&& mask = 0) : controlBad timed r mask = none := by
  obtain ⟨hc, ha, hb, hd⟩ := bare
  obtain ⟨c1, c2, c3, -, -⟩ := ctrl_plain hc
  cases timed with
  | false =>
    obtain ⟨w, g⟩ := delta_zero delta
    simp [controlBad, c1, c2, c3, ha, hb, hd, op, mod, w, g]
  | true =>
    by_cases h4 : r.op = 4
    · rw [if_pos rfl, if_pos h4] at delta
      simp [controlBad, c1, c2, c3, ha, hb, hd, mod, h4, delta]
    · rw [if_pos rfl, if_neg h4] at delta
      simp [controlBad, c1, c2, c3, ha, hb, hd, op, mod, h4, delta]

/- The end of a control record. -/

/-- No word of the sequencer of cluster k waits for the ring. -/
def NoWord (s : State) (k : Gl) (h : Hh) : Prop := ∀ w ∈ (hhAt s h).cmd.cqWait, ∀ n, w.owner ≠ some (.cluster k 0, 2 ^ 32 + n)

theorem wordWaits_none {s : State} {k : Gl} {h : Hh} (w : NoWord s k h) (seq : Nat) :
    wordWaits s h (xsqKey k seq).1 (xsqKey k seq).2 = false := by
  simp only [wordWaits, List.any_eq_false, beq_iff_eq]
  exact fun x hx => w x hx seq

theorem xsqEnd_wordless {s : State} {k : Gl} {i : Site} {h : Hh} (w : NoWord s k h) (d : XsqDue) :
    xsqEnd s k i h d false = xsqComplete s k i h d := by
  simp only [xsqEnd, Bool.false_eq_true, if_false, wordWaits_none w]

theorem xsqComplete_ok {s : State} {k : Gl} {i : Site} {h : Hh} {d : XsqDue} (ok : d.status = stOk) (silent : d.notify = false) :
    xsqComplete s k i h d = upXsq s i h fun x => { x with due := none, lastStatus := stOk } := by
  simp [xsqComplete, ok, silent]

/-- A control record without word and doorbell. -/
theorem controlDone_quiet {s : State} {k : Gl} {i : Site} {h : Hh} {r : Record} (w : NoWord s k h)
    (quiet : r.report = false ∧ r.notify = false) (idx : Nat) : controlDone s k i h r idx =
      upXsq s i h fun x => { x with tPrev := x.tPrev + r.delta, due := none, lastStatus := stOk } := by
  obtain ⟨report, notify⟩ := quiet
  unfold controlDone
  rw [report, notify, xsqEnd_wordless (by exact w), xsqComplete_ok rfl rfl, upXsq_upXsq]

/-- A control row that meets its record, which decodes. -/
theorem controlRow_ready {s : State} {k : Gl} {i : Site} {h : Hh} {r : Record} (live : liveSet s k = some (i, h))
    (next : xsqNext s k = some (i, h, r)) {op mask : Nat} (opcode : r.opcode = 0xE0 + op) (hop : op < 32)
    (good : controlBad (modeOf s h == 2) r mask = none) {f : Site → Hh → Record → State → Except Nat State} {t : State}
    (acts : f i h r (xsqCount s i h) = .ok t) : controlRow s k op mask f = t := by
  obtain ⟨bs, ready, -⟩ := ready_of_next live next
  have eng : r.eng = 7 := by unfold Record.eng; omega
  have hr : r.op = op := by unfold Record.op; omega
  have mode : modeOf (xsqCount s i h) h = modeOf s h := by rw [xsqCount_eq]; rfl
  simp [controlRow, xsqSettle_free live ready.due, next, eng, hr, mode, good, acts]

/-- A state with its site at a record that counts: what the rows build on. -/
theorem xsq_xsqCount (s : State) (i : Site) (h : Hh) :
    (setAt (xsqCount s i h) i h).xsq = { (setAt s i h).xsq with processed := ((setAt s i h).xsq.processed + 1) % 2 ^ 32 } := by
  rw [xsqCount_eq, xsq_upXsq, setAt_rampEnded]

/-- A record is counted. -/
def Xsq.counted (x : Xsq) : Xsq := { x with processed := (x.processed + 1) % 2 ^ 32 }
/-- A record has ended with OK and the sequencer stands at another. -/
def Xsq.moved (pc delta : Nat) (x : Xsq) : Xsq := { x with pc := pc, lastStatus := stOk, tPrev := x.tPrev + delta, due := none }

/-- The end of a quiet control record that goes on to a cached one, after its row has changed the registers by f. -/
theorem control_goes {s : State} {k : Gl} {i : Site} {h : Hh} {r : Record} (w : NoWord s k h)
    (quiet : r.report = false ∧ r.notify = false) (f : Xsq → Xsq) {pc : Nat}
    (kept : (xsqBytes (f (setAt s i h).xsq.counted) pc).isSome = true) (idx : Nat) :
    controlDone (xsqGoto (upXsq (xsqCount s i h) i h f) i h pc) k i h r idx =
      upXsq (upSite s i (rampEnded (modeOf s h == 2))) i h fun x => (f x.counted).moved pc r.delta := by
  have kept' : (xsqBytes (setAt (upXsq (xsqCount s i h) i h f) i h).xsq pc).isSome = true := by
    rw [xsq_upXsq, xsq_xsqCount]
    exact kept
  rw [xsqGoto_kept kept', controlDone_quiet (by rw [xsqCount_eq]; exact w) quiet, xsqCount_eq, upXsq_upXsq, upXsq_upXsq, upXsq_upXsq]
  rfl

theorem xsqNopOp_goes {s : State} {k : Gl} {i : Site} {h : Hh} {r : Record} (live : liveSet s k = some (i, h))
    (next : xsqNext s k = some (i, h, r)) (w : NoWord s k h) (opcode : r.opcode = 0xE0)
    (bare : r.ctrl = 0 ∧ r.opa = 0 ∧ r.opb = 0 ∧ r.opd = 0) (good : controlBad (modeOf s h == 2) r allMod = none)
    (kept : (xsqBytes (setAt s i h).xsq ((setAt s i h).xsq.pc + 1)).isSome = true) : xsqNopOp s k =
      upXsq (upSite s i (rampEnded (modeOf s h == 2))) i h fun x => x.counted.moved (x.pc + 1) r.delta := by
  obtain ⟨-, -, -, quiet⟩ := ctrl_plain bare.1
  have pc : xsqPc (xsqCount s i h) i h = (setAt s i h).xsq.pc := by rw [xsqPc, xsq_xsqCount]
  refine (controlRow_ready live next opcode (by omega) good rfl).trans ?_
  have := control_goes w quiet id (pc := (setAt s i h).xsq.pc + 1) kept (setAt s i h).xsq.pc
  rw [upXsq_id _ _ _ rfl] at this
  rw [pc, this]
  exact upXsq_congr _ i h (by rw [setAt_rampEnded]; rfl)

theorem loopOp_goes {s : State} {k : Gl} {i : Site} {h : Hh} {r : Record} (live : liveSet s k = some (i, h))
    (next : xsqNext s k = some (i, h, r)) (w : NoWord s k h) (opcode : r.opcode = 0xE1)
    (bare : r.ctrl = 0 ∧ r.opa = 0 ∧ r.opb = 0 ∧ r.opd = 0) (good : controlBad (modeOf s h == 2) r 0xFFFF0000 = none)
    (level : (setAt s i h).xsq.loops.length < 4) (kept : (xsqBytes (setAt s i h).xsq ((setAt s i h).xsq.pc + 1)).isSome = true) :
    loopOp s k = upXsq (upSite s i (rampEnded (modeOf s h == 2))) i h fun x =>
      { x.counted with loops := ⟨x.pc + 1, bits r.mod 0 16⟩ :: x.loops }.moved (x.pc + 1) r.delta := by
  obtain ⟨-, -, -, quiet⟩ := ctrl_plain bare.1
  have pc : xsqPc (xsqCount s i h) i h = (setAt s i h).xsq.pc := by rw [xsqPc, xsq_xsqCount]
  have open_ : ¬ (setAt (xsqCount s i h) i h).xsq.loops.length ≥ 4 := by rw [xsq_xsqCount]; simpa using level
  refine (controlRow_ready live next opcode (by omega) good (if_neg open_)).trans ?_
  rw [pc, control_goes w quiet (fun x => { x with loops := ⟨(setAt s i h).xsq.pc + 1, bits r.mod 0 16⟩ :: x.loops }) kept]
  exact upXsq_congr _ i h (by rw [setAt_rampEnded]; rfl)

/-- ENDLOOP: the loops that stay and the record that comes next (R143). -/
theorem endloopOp_goes {s : State} {k : Gl} {i : Site} {h : Hh} {r : Record} (live : liveSet s k = some (i, h))
    (next : xsqNext s k = some (i, h, r)) (w : NoWord s k h) (opcode : r.opcode = 0xE2)
    (bare : r.ctrl = 0 ∧ r.opa = 0 ∧ r.opb = 0 ∧ r.opd = 0) (good : controlBad (modeOf s h == 2) r allMod = none)
    {l : Loop} {ls loops : List Loop} {pc : Nat} (top : (setAt s i h).xsq.loops = l :: ls)
    (goes : (if l.left = 0 then (ls, (setAt s i h).xsq.pc + 1) else (⟨l.body, l.left - 1⟩ :: ls, l.body)) = (loops, pc))
    (kept : (xsqBytes (setAt s i h).xsq pc).isSome = true) :
    endloopOp s k = upXsq (upSite s i (rampEnded (modeOf s h == 2))) i h fun x =>
      { x.counted with loops := loops }.moved pc r.delta := by
  obtain ⟨-, -, -, quiet⟩ := ctrl_plain bare.1
  have at_ : xsqPc (xsqCount s i h) i h = (setAt s i h).xsq.pc := by rw [xsqPc, xsq_xsqCount]
  have top' : (setAt (xsqCount s i h) i h).xsq.loops = l :: ls := by rw [xsq_xsqCount]; exact top
  have row : endloopOp s k = controlDone (xsqGoto (upXsq (xsqCount s i h) i h fun x => { x with loops := loops }) i h pc) k i h r
      (setAt s i h).xsq.pc := by
    refine controlRow_ready live next opcode (by omega) good ?_
    simp only [at_, top', goes]
  rw [row, control_goes w quiet (fun x => { x with loops := loops }) kept]

/-- CHECK without schedule check has no effect. -/
theorem checkOp_off {s : State} {k : Gl} {i : Site} {h : Hh} {r : Record} (live : liveSet s k = some (i, h))
    (next : xsqNext s k = some (i, h, r)) (opcode : r.opcode = 0xE4) (off : schedOn s h = false)
    (kept : (xsqBytes (setAt s i h).xsq ((setAt s i h).xsq.pc + 1)).isSome = true) : checkOp s k =
      upXsq (upSite s i (rampEnded (modeOf s h == 2))) i h fun x => { x.counted with pc := x.pc + 1 } := by
  obtain ⟨bs, ready, -⟩ := ready_of_next live next
  have eng : r.eng = 7 := by unfold Record.eng; omega
  have op : r.op = 4 := by unfold Record.op; omega
  have pc : xsqPc (xsqCount s i h) i h = (setAt s i h).xsq.pc := by rw [xsqPc, xsq_xsqCount]
  have sched : schedOn (xsqCount s i h) h = false := by rw [xsqCount_eq]; exact off
  have kept' : (xsqBytes (setAt (xsqCount s i h) i h).xsq ((setAt s i h).xsq.pc + 1)).isSome = true := by
    rw [xsq_xsqCount]
    exact kept
  have row : checkOp s k = xsqGoto (xsqCount s i h) i h ((setAt s i h).xsq.pc + 1) := by
    simp [checkOp, xsqSettle_free live ready.due, next, eng, op, sched, pc]
  rw [row, xsqGoto_kept kept', xsqCount_eq, upXsq_upXsq]
  exact upXsq_congr _ i h (by rw [setAt_rampEnded]; rfl)

/-- The check that a CHECK record names (R148). -/
def checkOf (r : Record) : SchedCheck := ⟨r.mod.testBit 15, bits r.mod 8 6, bits r.mod 0 8⟩
/-- A check binds to the next engine record. -/
def Xsq.bound (c : SchedCheck) (x : Xsq) : Xsq := { x with checks := satInc 16 x.checks, pend := x.pend ++ [c] }

/-- CHECK binds to the next engine record. -/
theorem checkOp_binds {s : State} {k : Gl} {i : Site} {h : Hh} {r : Record} (live : liveSet s k = some (i, h))
    (next : xsqNext s k = some (i, h, r)) (w : NoWord s k h) (opcode : r.opcode = 0xE4) (on : schedOn s h = true)
    (ctrl : r.ctrl = 0) (good : controlBad true r 0xFFFF4000 = none)
    (kept : (xsqBytes (setAt s i h).xsq ((setAt s i h).xsq.pc + 1)).isSome = true) : checkOp s k =
      upXsq (upSite s i (rampEnded (modeOf s h == 2))) i h fun x => (x.counted.bound (checkOf r)).moved (x.pc + 1) r.delta := by
  obtain ⟨bs, ready, -⟩ := ready_of_next live next
  obtain ⟨-, -, -, quiet⟩ := ctrl_plain ctrl
  have eng : r.eng = 7 := by unfold Record.eng; omega
  have op : r.op = 4 := by unfold Record.op; omega
  have pc : xsqPc (xsqCount s i h) i h = (setAt s i h).xsq.pc := by rw [xsqPc, xsq_xsqCount]
  have sched : schedOn (xsqCount s i h) h = true := by rw [xsqCount_eq]; exact on
  have row : checkOp s k = controlDone (xsqGoto (upXsq (xsqCount s i h) i h (Xsq.bound (checkOf r))) i h ((setAt s i h).xsq.pc + 1)) k i h r (setAt s i h).xsq.pc := by
    simp only [checkOp, xsqSettle_free live ready.due, next, eng, op, sched, good, pc]
    rfl
  rw [row, control_goes w quiet (Xsq.bound (checkOf r)) kept]
  exact upXsq_congr _ i h (by rw [setAt_rampEnded])

/- HALT. -/

/-- The registers of a sequencer that halts, before its word (R143). -/
def Xsq.halts (delta : Nat) (x : Xsq) : Xsq := { x with run := false, halting := true, loops := [], pend := [], tPrev := x.tPrev + delta }
/-- The registers of a sequencer that has halted. -/
def Xsq.halted (x : Xsq) : Xsq := { x with halting := false, worded := false, lastStatus := stOk, pc := x.pc + 1 }

theorem xsqInflight_xsq (t : HSet) (x : Xsq) : xsqInflight { t with xsq := x } = xsqInflight t := rfl

theorem setAt_upXsq (s : State) (i : Site) (h : Hh) (f : Xsq → Xsq) :
    setAt (upXsq s i h f) i h = { setAt s i h with xsq := f (setAt s i h).xsq } := by simp [upXsq]

theorem setAt_xsqCount (s : State) (i : Site) (h : Hh) :
    setAt (xsqCount s i h) i h = { setAt s i h with xsq := (setAt s i h).xsq.counted } := by
  rw [xsqCount_eq, setAt_upXsq, setAt_rampEnded]
  rfl

/-- A word with room in the ring is put there. -/
theorem postWord_free {s : State} {h : Hh} (on : (hhAt s h).cmd.cqEnable = true) (first : (hhAt s h).cmd.cqWait = [])
    (free : ringState s h = .free) (w : List Byte) (o : Option (QueueId × Nat)) : postWord s h w o = ringPut s h w := by
  simp [postWord, on, first, free]

theorem wordWaits_empty {s : State} {h : Hh} (first : (hhAt s h).cmd.cqWait = []) (q : QueueId) (seq : Nat) :
    wordWaits s h q seq = false := by
  simp [wordWaits, first]

theorem wordFlags_plain (h : Hh) : wordFlags h false 0 = h.val := by simp [wordFlags, b2n]

/-- The word of a HALT goes to the ring, and the halt is over. -/
theorem haltFinish_free {s : State} {k : Gl} {i : Site} {h : Hh} {r : Record} (on : (hhAt s h).cmd.cqEnable = true)
    (first : (hhAt s h).cmd.cqWait = []) (free : ringState s h = .free) (unworded : (setAt s i h).xsq.worded = false) :
    haltFinish s k i h r = haltEnd (upXsq (ringPut s h (statusWord stOk r.opcode k.val h.val (setAt s i h).xsq.processed 0
      (setAt s i h).xsq.pc)) i h fun x => { x with worded := true }) i h r := by
  have post (w : List Byte) (o : Option (QueueId × Nat)) : postWord (upXsq s i h fun x => { x with worded := true }) h w o =
      upXsq (ringPut s h w) i h fun x => { x with worded := true } :=
    (postWord_free (by exact on) (by exact first) (by exact free) w o).trans (ringPut_upSite ..)
  have wait (w : List Byte) : (hhAt (upXsq (ringPut s h w) i h fun x => { x with worded := true }) h).cmd.cqWait = [] :=
    (ringPut_wait s h w).trans first
  simp only [haltFinish, unworded, post, wordFlags_plain, Bool.false_eq_true, if_false, wordWaits_empty (wait _)]

theorem modeOf_ringPut (s : State) (h g : Hh) (w : List Byte) : modeOf (ringPut s h w) g = modeOf s g := by
  obtain ⟨t, ht, off, -⟩ := ringPut_eq s h w
  have hh : hhAt t g = hhAt s g := congrArg (·.get g) (hhs_of_offCellar off)
  have lease : (hhAt (ringPut s h w) g).lease = (hhAt s g).lease := by
    rw [ht, hhAt_upCmd, hh]
    split <;> rfl
  simp only [modeOf, lease]

theorem haltEnd_silent {s : State} {i : Site} {h : Hh} {r : Record} (silent : r.notify = false) : haltEnd s i h r =
    raise (settleFreeze (haltRamp (upXsq s i h Xsq.halted) i h) i h) (hhSrc h 3) := by
  simp only [haltEnd, silent]
  rfl

theorem ringPut_upXsq (s : State) (i : Site) (g h : Hh) (f : Xsq → Xsq) (w : List Byte) :
    ringPut (upXsq s i g f) h w = upXsq (ringPut s h w) i g f := ringPut_upSite ..

/-- A HALT whose issued records have completed, with room for its word. -/
theorem haltOp_halts {s : State} {k : Gl} {i : Site} {h : Hh} {r : Record} (live : liveSet s k = some (i, h))
    (next : xsqNext s k = some (i, h, r)) (opcode : r.opcode = 0xE5)
    (bare : r.ctrl = 0 ∧ r.opa = 0 ∧ r.opb = 0 ∧ r.opd = 0) (good : controlBad (modeOf s h == 2) r allMod = none)
    (done : xsqInflight (setAt s i h) = false) (on : (hhAt s h).cmd.cqEnable = true) (first : (hhAt s h).cmd.cqWait = [])
    (free : ringState s h = .free) (unworded : (setAt s i h).xsq.worded = false) :
    let t := ringPut (upXsq (upSite s i (rampEnded (modeOf s h == 2))) i h fun x => ((x.counted).halts r.delta).halted) h
      (statusWord stOk 0xE5 k.val h.val (((setAt s i h).xsq.processed + 1) % 2 ^ 32) 0 (setAt s i h).xsq.pc)
    haltOp s k = raise (upSite t i fun c => { c with
      mx := if (modeOf s h == 2) = true then rampsDown c.mx else c.mx, frozen := frozenAfter (setAt t i h) c.frozen }) (hhSrc h 3) := by
  intro t
  obtain ⟨bs, ready, -⟩ := ready_of_next live next
  obtain ⟨-, halting⟩ := ready.awake
  obtain ⟨-, -, -, -, notify⟩ := ctrl_plain bare.1
  let u := upXsq (xsqCount s i h) i h (Xsq.halts r.delta)
  have ux : setAt u i h = { setAt s i h with xsq := (setAt s i h).xsq.counted.halts r.delta } := by
    rw [setAt_upXsq, setAt_xsqCount]
  have row : haltOp s k = haltFinish u k i h r := by
    simp only [haltOp, live, halting, Bool.false_eq_true, if_false]
    refine controlRow_ready live next opcode (by omega) good (congrArg Except.ok (if_neg ?_))
    change ¬ xsqInflight (setAt u i h) = true
    rw [ux, xsqInflight_xsq, done]
    decide
  have hu : hhAt u h = hhAt s h := by simp only [u, xsqCount_eq]; rfl
  have ring : ringState u h = ringState s h := by simp only [u, xsqCount_eq]; rfl
  have finish := haltFinish_free (s := u) (k := k) (i := i) (r := r) (by rw [hu]; exact on) (by rw [hu]; exact first)
    (ring.trans free) (by rw [ux]; exact unworded)
  have mode : modeOf t h = modeOf s h := modeOf_ringPut ..
  have same : upXsq (upXsq (ringPut u h (statusWord stOk r.opcode k.val h.val (setAt u i h).xsq.processed 0
      (setAt u i h).xsq.pc)) i h fun x => { x with worded := true }) i h Xsq.halted = t := by
    rw [ux, opcode]
    simp only [u, t, xsqCount_eq, upXsq_upXsq, ringPut_upXsq]
    rfl
  rw [row, finish, haltEnd_silent notify, same, settleFreeze_haltRamp, mode]

/- HQPUSH. -/

/-- The fields of an HQPUSH into hand-off queue 6 or 7. -/
theorem ctrl_handoff {r : Record} {n : Fin 8} (hc : r.ctrl = 32 + n.val) : bits r.ctrl 3 2 = 0 ∧ r.handoff = true ∧ r.hq = n.val ∧
    r.report = false ∧ r.notify = false := by
  have hn := n.isLt
  simp only [bits, Record.handoff, Record.hq, Record.report, Record.notify, hc]
  refine ⟨by omega, ?_, by omega, Nat.testBit_lt_two_pow (by omega), Nat.testBit_lt_two_pow (by omega)⟩
  rw [Nat.testBit, Nat.shiftRight_eq_div_pow]
  have : (32 + n.val) / 2 ^ 5 = 1 := by omega
  rw [this]
  rfl

theorem controlBad_hqpush {timed : Bool} {r : Record} {n : Fin 8} (hc : r.ctrl = 32 + n.val) (hn : 6 ≤ n.val) (op : r.op = 3)
    (fields : r.opb = 0 ∧ r.opd = 0 ∧ r.mod = 0) (delta : timed = true ↔ r.delta ≠ 0) : controlBad timed r allMod = none := by
  obtain ⟨c1, c2, c3, -, -⟩ := ctrl_handoff hc
  obtain ⟨hb, hd, hm⟩ := fields
  cases timed with
  | false =>
    obtain ⟨w, g⟩ := delta_zero (r := r) (by simpa using delta)
    simp [controlBad, c1, c2, c3, hb, hd, hm, op, w, g, hn]
  | true =>
    have hd0 : r.delta ≠ 0 := delta.1 rfl
    simp [controlBad, c1, c2, c3, hb, hd, hm, op, hn, hd0]

/-- A field of another KIND than 6 names no hand-off queue. -/
theorem isPop_none {f : Nat} (h : bits f 61 3 ≠ 6) : isPop f = none := by
  simp [isPop, h]

theorem popOperands_plain (hqs : Vector (List Nat) 8) {fs : List Nat} (h : ∀ f ∈ fs, isPop f = none) :
    popOperands hqs fs = some (fs.map fun f => (f, false), hqs) := by
  induction fs with
  | nil => rfl
  | cons f fs ih =>
    have hf := h f (by simp)
    simp [popOperands, hf, ih fun g hg => h g (by simp [hg])]

theorem hqpushField_imm (s : State) (i : Site) (h : Hh) {v : Nat} (hv : v < 2 ^ 32) :
    hqpushField s i h false (5 * 2 ^ 61 + v) = .ok (5 * 2 ^ 61 + v) := by
  have kind : bits (5 * 2 ^ 61 + v) 61 3 = 5 := by unfold bits; omega
  have value : bits (5 * 2 ^ 61 + v) 0 32 = v := by unfold bits; omega
  have clean : bits (5 * 2 ^ 61 + v) 32 29 = 0 := by unfold bits; omega
  simp only [hqpushField, rawOperand, kind, rawImm, value, clean]
  rfl

/-- Hand-off queue n with a field more. -/
def pushed (n : Fin 8) (f : Nat) (t : HSet) : HSet := { t with hqs := t.hqs.set n.val (t.hqs.get n ++ [f]) n.isLt }

/- Changes of one site that do not touch each other. -/

theorem rampEnded_upSet (s : State) (i : Site) (h : Hh) (timed : Bool) (f : HSet → HSet) :
    upSite (upSet s i h f) i (rampEnded timed) = upSet (upSite s i (rampEnded timed)) i h f :=
  upSite_comm s i _ _ fun c => by unfold rampEnded; split <;> rfl
theorem rampEnded_setFrozen (s : State) (i : Site) (timed : Bool) (c : Option (FreezeCause × Nat)) :
    upSite (setFrozen s i c) i (rampEnded timed) = setFrozen (upSite s i (rampEnded timed)) i c :=
  upSite_comm s i _ _ fun c => by unfold rampEnded; split <;> rfl
theorem setFrozen_upSet (s : State) (i : Site) (h : Hh) (c : Option (FreezeCause × Nat)) (f : HSet → HSet) :
    setFrozen (upSet s i h f) i c = upSet (setFrozen s i c) i h f :=
  upSite_comm s i _ _ fun _ => rfl

theorem frozenFor_upSet (s : State) (i : Site) (h : Hh) (f : HSet → HSet) (u : Nat) : frozenFor (upSet s i h f) i u = frozenFor s i u := by
  simp [frozenFor]

theorem setAt_setFrozen (s : State) (i : Site) (h : Hh) (c : Option (FreezeCause × Nat)) : setAt (setFrozen s i c) i h = setAt s i h := by
  simp [setAt, setFrozen]

/-- HQPUSH of an immediate with room in its queue. -/
theorem hqpushOp_pushes {s : State} {k : Gl} {i : Site} {h : Hh} {r : Record} {n : Fin 8} {v : Nat} (live : liveSet s k = some (i, h))
    (next : xsqNext s k = some (i, h, r)) (w : NoWord s k h) (opcode : r.opcode = 0xE3) (ctrl : r.ctrl = 32 + n.val)
    (good : controlBad (modeOf s h == 2) r allMod = none) (opa : r.opa = 5 * 2 ^ 61 + v) (hv : v < 2 ^ 32)
    (room : ((setAt s i h).hqs.get n).length < 16) (kept : (xsqBytes (setAt s i h).xsq ((setAt s i h).xsq.pc + 1)).isSome = true) :
    hqpushOp s k = upSet (setFrozen (upSite s i (rampEnded (modeOf s h == 2))) i none) i h fun t =>
      { pushed n r.opa t with xsq := t.xsq.counted.moved ((setAt s i h).xsq.pc + 1) r.delta } := by
  obtain ⟨bs, ready, -⟩ := ready_of_next live next
  obtain ⟨-, -, hq, quiet⟩ := ctrl_handoff ctrl
  have eng : r.eng = 7 := by unfold Record.eng; omega
  have op : r.op = 3 := by unfold Record.op; omega
  have hn : (⟨r.hq % 8, by omega⟩ : Fin 8) = n := Fin.ext (by simp only [hq]; omega)
  have pops := popOperands_plain (setAt s i h).hqs (fs := [r.opa]) (by
    rintro f hf
    rw [List.mem_singleton.1 hf, opa]
    exact isPop_none (by unfold bits; omega))
  have field : hqpushField s i h false r.opa = .ok r.opa := by rw [opa]; exact hqpushField_imm s i h hv
  have full : ¬ ((setAt s i h).hqs.get n).length ≥ 16 := by omega
  let u := setFrozen (upSet s i h (pushed n r.opa)) i none
  have ux : (setAt u i h).xsq = (setAt s i h).xsq := by simp [u, setAt_setFrozen, pushed]
  have row : hqpushOp s k = controlDone (xsqGoto (xsqCount (xsqThaw (upSet s i h (pushed n r.opa)) i) i h) i h
      ((setAt s i h).xsq.pc + 1)) k i h r (setAt s i h).xsq.pc := by
    simp only [hqpushOp, xsqSettle_free live ready.due, next, eng, op, hn, good, pops]
    simp only [List.map_cons, List.map_nil, List.headD_cons, field, full, if_false]
    refine congrArg (fun t => controlDone (xsqGoto (xsqCount (xsqThaw t i) i h) i h _) k i h r _) (upSet_congr s i h ?_)
    simp [pushed, hq, Nat.mod_eq_of_lt n.isLt]
  have goes := control_goes (s := u) (r := r) w quiet id (pc := (setAt s i h).xsq.pc + 1) (by rw [ux]; exact kept) (setAt s i h).xsq.pc
  rw [upXsq_id _ _ _ rfl] at goes
  rw [row, xsqThaw_free ((frozenFor_upSet ..).trans ready.thawed), goes]
  simp only [u, rampEnded_setFrozen, rampEnded_upSet, setFrozen_upSet, upXsq, upSet_upSet]
  rfl

/- An engine record is issued. -/

/-- An accepted command joins its queue with the next SEQ of the series (R106). -/
def joined (e : Entry) (x : EQueue) : EQueue := { x with ents := x.ents ++ [{ e with seq := x.next }], next := (x.next + 1) % 2 ^ 32 }

theorem accept_cluster {s : State} {k : Gl} {i : Site} (site : siteOf s k = some i) (en : Fin 5) (e : Entry) :
    (accept s (.cluster k en) e).1 = upSet s i e.hh (upQueue en (joined e)) := by
  simp only [accept, site]
  exact upSet_congr s i e.hh rfl

/-- The entry of a record that the sequencer issues, before it has its SEQ. -/
def issued (s : State) (h : Hh) (r : Record) (x : Xsq) (timed : Bool) : Entry :=
  { newEntry s h r none x.pc true with t0 := if timed then some (x.tPrev + r.delta) else none, checks := x.pend }

/-- The fields of a record that names no hand-off queue stay as they are. -/
theorem operands_plain (hqs : Vector (List Nat) 8) {r : Record} (fits : r.opa < 2 ^ 64 ∧ r.opb < 2 ^ 64 ∧ r.opd < 2 ^ 64)
    (plain : noOperands r = true ∨ ∀ f ∈ [r.opa, r.opb, r.opd], f / 2 ^ 61 ≠ 6) :
    (if noOperands r then some ([(r.opa, false), (r.opb, false), (r.opd, false)], hqs) else popOperands hqs [r.opa, r.opb, r.opd]) =
      some ([(r.opa, false), (r.opb, false), (r.opd, false)], hqs) := by
  split
  · rfl
  · rename_i some_
    have kinds := plain.resolve_left some_
    have lt : ∀ f ∈ [r.opa, r.opb, r.opd], f < 2 ^ 64 := by simpa using fits
    refine popOperands_plain hqs fun f hf => isPop_none ?_
    have := kinds f hf
    have := lt f hf
    unfold bits
    omega

theorem recordOf_fits (bs : List Byte) : (recordOf bs).opa < 2 ^ 64 ∧ (recordOf bs).opb < 2 ^ 64 ∧ (recordOf bs).opd < 2 ^ 64 :=
  ⟨leAt_lt bs 8 8, leAt_lt bs 16 8, leAt_lt bs 24 8⟩

theorem frozenFor_xsqCount (s : State) (i : Site) (h : Hh) (u : Nat) : frozenFor (xsqCount s i h) i u = frozenFor s i u := by
  have same (b : Bool) (c : SiteSt) : (rampEnded b c).frozen = c.frozen := by unfold rampEnded; split <;> rfl
  rw [xsqCount_eq, upXsq, frozenFor_upSet]
  simp [frozenFor, same]

/-- A record of a compute engine that finds its queue free joins it. -/
theorem recordIssueOp_issues {s : State} {k : Gl} {i : Site} {h : Hh} {r : Record} (live : liveSet s k = some (i, h))
    (next : xsqNext s k = some (i, h, r)) (en : Fin 5) (eng : r.opcode / 32 = en.val) (low : r.opcode < 128)
    (running : ∀ j : Fin 5, j.val < 4 → ((setAt s i h).queues.get j).halted = false)
    (room : ((setAt s i h).queues.get en).ents.length < 64)
    (array : en = 0 → (setAt s i h).psq.busy = false ∨ (setAt s i h).psq.allIssued = true)
    (untimed : modeOf s h ≠ 2 → r.delta = 0)
    (plain : noOperands r = true ∨ ∀ f ∈ [r.opa, r.opb, r.opd], f / 2 ^ 61 ≠ 6)
    (kept : (xsqBytes (setAt s i h).xsq ((setAt s i h).xsq.pc + 1)).isSome = true) :
    recordIssueOp s k = upSet (setFrozen (upSite s i (rampEnded (modeOf s h == 2))) i none) i h fun t =>
      upQueue en (joined (issued s h r t.xsq (modeOf s h == 2))) { t with
        xsq := { t.xsq.counted with pend := [], pc := t.xsq.pc + 1, tPrev := t.xsq.tPrev + r.delta } } := by
  obtain ⟨bs, ready, hr⟩ := ready_of_next live next
  have he : r.eng = en.val := eng
  have e4 : en.val < 4 := by omega
  have hen : (⟨r.eng % 5, by omega⟩ : Fin 5) = en := Fin.ext (by simp only [he]; omega)
  have free : (List.finRange 4).any (fun j => ((setAt s i h).queues.get ⟨j.val, by omega⟩).halted) = false := by
    simp only [List.any_eq_false, Bool.not_eq_true]
    exact fun j _ => running ⟨j.val, by omega⟩ j.isLt
  have held : xsqHeld (setAt s i h) r = false := by
    have fin : fin? 5 r.eng = some en := by simp [fin?, he]
    have full : ¬ ((setAt s i h).queues.get en).ents.length ≥ 64 := by omega
    simp only [xsqHeld, fin, full, decide_false, Bool.false_or]
    by_cases h0 : en = 0
    · rcases array h0 with b | b <;> simp [b]
    · have : (en.val == 0) = false := beq_eq_false_iff_ne.2 fun e => h0 (Fin.ext e)
      simp [this]
  have ops := operands_plain (setAt s i h).hqs (r := r) (by rw [hr]; exact recordOf_fits bs) plain
  let u := upSet (setFrozen (xsqCount s i h) i none) i h fun t => { t with xsq := { t.xsq with pend := [], tPrev := t.xsq.tPrev + r.delta } }
  have row : recordIssueOp s k = xsqGoto (accept u (.cluster k en) (issued s h r (setAt s i h).xsq (modeOf s h == 2))).1 i h
      ((setAt s i h).xsq.pc + 1) := by
    simp only [recordIssueOp, xsqSettle_free live ready.due, next, hen, free, held, ops]
    rw [if_neg (by omega), if_neg (by omega), if_neg (by decide), if_neg (by decide), xsqThaw_free ((frozenFor_xsqCount ..).trans ready.thawed)]
    refine congrArg (fun t => xsqGoto (accept t (.cluster k en) (issued s h r (setAt s i h).xsq (modeOf s h == 2))).1 i h _) ?_
    refine upSet_congr _ i h ?_
    rw [setAt_setFrozen, setAt_xsqCount]
    by_cases timed : modeOf s h = 2
    · simp [Xsq.counted, timed]
    · simp [Xsq.counted, timed, untimed timed]
  have site : siteOf u k = some i := by
    refine Eq.trans ?_ (siteOf_live live)
    simp only [u, xsqCount_eq]
    rfl
  let v := upSet u i h (upQueue en (joined (issued s h r (setAt s i h).xsq (modeOf s h == 2))))
  have vx : (setAt v i h).xsq = { (setAt s i h).xsq.counted with pend := [], tPrev := (setAt s i h).xsq.tPrev + r.delta } := by
    simp only [v, u, upQueue, setAt_upSet, setAt_setFrozen, setAt_xsqCount]
    simp [Xsq.counted]
  have goes := xsqGoto_kept (s := v) (pc := (setAt s i h).xsq.pc + 1) (by rw [vx]; exact kept)
  rw [row, accept_cluster site]
  refine goes.trans ?_
  simp only [v, u, xsqCount_eq, setFrozen_upSet, upXsq, upSet_upSet]
  refine upSet_congr _ i h ?_
  rw [setAt_setFrozen, setAt_rampEnded]
  rfl

/-- A halted compute queue stops the sequencer at its next engine record (R143). -/
theorem recordIssueOp_stops {s : State} {k : Gl} {i : Site} {h : Hh} {r : Record} (live : liveSet s k = some (i, h))
    (next : xsqNext s k = some (i, h, r)) (low : r.opcode < 128) {j : Fin 5} (compute : j.val < 4)
    (halted : ((setAt s i h).queues.get j).halted = true) :
    recordIssueOp s k = upXsq s i h fun x => { x with run := false } := by
  obtain ⟨bs, ready, -⟩ := ready_of_next live next
  have e7 : ¬ r.eng = 7 := by unfold Record.eng; omega
  have e4 : ¬ r.eng ≥ 4 := by unfold Record.eng; omega
  have any : (List.finRange 4).any (fun j => ((setAt s i h).queues.get ⟨j.val, by omega⟩).halted) = true :=
    List.any_eq_true.2 ⟨⟨j.val, compute⟩, List.mem_finRange _, halted⟩
  simp only [recordIssueOp, xsqSettle_free live ready.due, next, any]
  rw [if_neg e7, if_neg e4, if_pos trivial]

/- The advance of a token (R148). -/

/-- The earlier of two advances, the first of two at one time. -/
def earlier (m : Option (Nat × Nat × Bool)) (a : Nat × Nat × Bool) : Option (Nat × Nat × Bool) := match m with
  | none => some a
  | some b => if a.1 < b.1 then some a else some b

theorem foldl_earlier_later {a : Nat × Nat × Bool} {l : List (Nat × Nat × Bool)} (h : ∀ b ∈ l, a.1 ≤ b.1) :
    l.foldl earlier (some a) = some a := by
  induction l with
  | nil => rfl
  | cons b l ih =>
    have hb : ¬ b.1 < a.1 := by have := h b (by simp); omega
    rw [List.foldl_cons, earlier, if_neg hb]
    exact ih fun c hc => h c (by simp [hc])

theorem foldl_earlier_before {t : Nat} {l : List (Nat × Nat × Bool)} (h : ∀ b ∈ l, t < b.1) {m : Option (Nat × Nat × Bool)}
    (hm : ∀ b, m = some b → t < b.1) : ∀ b, l.foldl earlier m = some b → t < b.1 := by
  induction l generalizing m with
  | nil => exact hm
  | cons c l ih =>
    have hc := h c (by simp)
    refine ih (fun b hb => h b (by simp [hb])) fun b hb => ?_
    cases m with
    | none => cases hb; exact hc
    | some d =>
      have hd := hm d rfl
      simp only [earlier] at hb
      split at hb <;> cases hb <;> assumption

/-- The earliest open advance is taken next. -/
theorem nextAdvance_first {x : Xsq} {t n : Nat} {pre post : List (Nat × Nat × Bool)} (adv : x.adv = pre ++ (t, n, false) :: post)
    (before : ∀ a ∈ pre, a.2.2 = true ∨ t < a.1) (after : ∀ a ∈ post, a.2.2 = true ∨ t ≤ a.1) :
    nextAdvance x = some (t, n, false) := by
  have pre' : ∀ b ∈ pre.filter fun a => !a.2.2, t < b.1 := by
    intro b hb
    obtain ⟨mem, open_⟩ := List.mem_filter.1 hb
    exact (before b mem).resolve_left (by simpa using open_)
  have post' : ∀ b ∈ post.filter fun a => !a.2.2, t ≤ b.1 := by
    intro b hb
    obtain ⟨mem, open_⟩ := List.mem_filter.1 hb
    exact (after b mem).resolve_left (by simpa using open_)
  have fold : nextAdvance x = (x.adv.filter fun a => !a.2.2).foldl earlier none := rfl
  have step : earlier ((pre.filter fun a => !a.2.2).foldl earlier none) (t, n, false) = some (t, n, false) := by
    have := foldl_earlier_before pre' (m := none) (by simp)
    cases hm : (pre.filter fun a => !a.2.2).foldl earlier none with
    | none => rfl
    | some b => exact if_pos (this b hm)
  rw [fold, adv, List.filter_append, List.filter_cons_of_pos (by rfl), List.foldl_append, List.foldl_cons, step]
  exact foldl_earlier_later post'

theorem tokenAdvanceOp_takes {s : State} {k : Gl} {i : Site} {h : Hh} (live : liveSet s k = some (i, h)) {t n : Nat}
    {pre post : List (Nat × Nat × Bool)} (adv : (setAt s i h).xsq.adv = pre ++ (t, n, false) :: post) (hn : n < 64)
    (before : ∀ a ∈ pre, a.2.2 = true ∨ t < a.1) (after : ∀ a ∈ post, a.2.2 = true ∨ t ≤ a.1) :
    tokenAdvanceOp s k = upXsq s i h fun x => { x with
      gen := Vector.ofFn fun m => if m.val = n then (x.gen.get m + 1) % 256 else x.gen.get m
      adv := pre ++ (t, n, true) :: post } := by
  have other : ∀ a ∈ pre, (a != (t, n, false)) = true := by
    intro a ha
    simp only [bne_iff_ne]
    rintro rfl
    rcases before _ ha with e | e
    · cases e
    · exact Nat.lt_irrefl _ e
  have fin : fin? 64 n = some ⟨n, hn⟩ := by simp [fin?, hn]
  simp only [tokenAdvanceOp, live, nextAdvance_first adv before after, fin]
  refine upXsq_congr s i h ?_
  have take : (setAt s i h).xsq.adv.takeWhile (· != (t, n, false)) = pre := by
    rw [adv, List.takeWhile_append_of_pos other]
    simp
  have drop : (setAt s i h).xsq.adv.dropWhile (· != (t, n, false)) = (t, n, false) :: post := by
    rw [adv, List.dropWhile_append_of_pos other]
    simp
  have gen : vmod (setAt s i h).xsq.gen ⟨n, hn⟩ (wrapInc 8) =
      Vector.ofFn fun m => if m.val = n then ((setAt s i h).xsq.gen.get m + 1) % 256 else (setAt s i h).xsq.gen.get m := by
    apply Vector.ext
    intro m hm
    simp only [vmod, Vector.getElem_set, Vector.getElem_ofFn, get_val, wrapInc]
    by_cases e : n = m
    · subst e; simp
    · simp [e, Ne.symm e]
  simp only [take, drop]
  rw [← gen]
  simp

/- MOD of a LOOP and of a CHECK. -/

theorem loop_mod {m : Nat} (h : m < 65536) : m &&& 0xFFFF0000 = 0 := by
  refine Nat.eq_of_testBit_eq fun j => ?_
  rw [Nat.testBit_and, Nat.zero_testBit]
  by_cases hj : j < 16
  · have low : ∀ j < 16, Nat.testBit 0xFFFF0000 j = false := by decide
    rw [low j hj, Bool.and_false]
  · rw [Nat.testBit_lt_two_pow (Nat.lt_of_lt_of_le h (Nat.pow_le_pow_right (n := 2) (i := 16) (by decide) (by omega))), Bool.false_and]

theorem check_mod {p : Bool} {n g : Nat} (hn : n < 64) (hg : g < 256) :
    (b2n p * 2 ^ 15 + n * 2 ^ 8 + g) &&& 0xFFFF4000 = 0 ∧
      (b2n p * 2 ^ 15 + n * 2 ^ 8 + g).testBit 15 = p ∧ bits (b2n p * 2 ^ 15 + n * 2 ^ 8 + g) 8 6 = n ∧
      bits (b2n p * 2 ^ 15 + n * 2 ^ 8 + g) 0 8 = g := by
  have hp := b2n_lt p
  refine ⟨Nat.eq_of_testBit_eq fun j => ?_, ?_, ?_, ?_⟩
  · rw [Nat.testBit_and, Nat.zero_testBit]
    by_cases hj : j < 16
    · by_cases h14 : j = 14
      · rw [h14, testBit_of_div (b := false) (by change _ = 0; omega), Bool.false_and]
      · have low : ∀ j < 16, j ≠ 14 → Nat.testBit 0xFFFF4000 j = false := by decide
        rw [low j hj h14, Bool.and_false]
    · rw [Nat.testBit_lt_two_pow (Nat.lt_of_lt_of_le (m := 2 ^ 16) (by omega) (Nat.pow_le_pow_right (by decide) (by omega))), Bool.false_and]
  · exact testBit_of_div (by omega)
  · unfold bits; omega
  · unfold bits; omega

/-- Settles O40: each record by the row that acts on it; what all of them share is the counted record and the ramp that it ends. -/
theorem sequencerRecords : Obligations.SequencerRecords := by
  intro s k i h live x timed kept up
  have up_eq : up = upSite s i (rampEnded timed) := (rampEnded_eq s i timed).symm
  refine ⟨?_, ?_, ?_⟩
  · intro r next mode delta words went bare
    obtain ⟨bs, ready, -⟩ := ready_of_next live next
    have went_eq (loops : List Loop) (pc : Nat) : upXsq (upSite s i (rampEnded timed)) i h (fun y =>
        { y.counted with loops := loops }.moved pc r.delta) = went loops pc := by
      simp only [went, up_eq]
      refine upXsq_congr _ i h ?_
      rw [setAt_rampEnded]
      simp [Xsq.moved, Xsq.counted, ready.due]
    have good {op mask : Nat} (opcode : r.opcode = 0xE0 + op) (low : op < 3 ∨ op = 5) (b : bare) (mod : r.mod &&& mask = 0) :
        controlBad (modeOf s h == 2) r mask = none := by
      have hop : r.op = op := by unfold Record.op; omega
      refine controlBad_bare b (by omega) ?_ mod
      have h4 : r.op ≠ 4 := by omega
      simp only [if_neg h4]
      split
      · rename_i ht
        exact delta.1 ht
      · rename_i ht
        exact not_not.1 fun hd => ht (delta.2 hd)
    refine ⟨?_, ?_, ?_, ?_, ?_, ?_, ?_⟩
    · intro opcode b mod hk
      refine congrArg Host.Outcome.next ((xsqNopOp_goes live next words opcode b
        (good (op := 0) opcode (by omega) b (by simp [mod])) hk).trans ((upXsq_congr _ i h ?_).trans (went_eq _ _)))
      rw [setAt_rampEnded]
      rfl
    · intro opcode b mod level hk
      refine congrArg Host.Outcome.next ((loopOp_goes live next words opcode b
        (good (op := 1) opcode (by omega) b (loop_mod mod)) level hk).trans ((upXsq_congr _ i h ?_).trans (went_eq _ _)))
      rw [setAt_rampEnded]
      simp [bits, Nat.mod_eq_of_lt mod, Xsq.counted, x]
    · intro opcode b mod l ls top
      have g := good (op := 2) (mask := allMod) opcode (by omega) b (by simp [mod])
      constructor
      · intro left hk
        exact congrArg Host.Outcome.next ((endloopOp_goes live next words opcode b g top (by rw [if_pos left]) hk).trans (went_eq _ _))
      · intro left hk
        exact congrArg Host.Outcome.next ((endloopOp_goes live next words opcode b g top (by rw [if_neg (by omega)]) hk).trans (went_eq _ _))
    · intro opcode b mod done first on free unworded t
      have g := good (op := 5) (mask := allMod) opcode (by omega) b (by simp [mod])
      refine congrArg Host.Outcome.next ((haltOp_halts live next opcode b g done on first free unworded).trans ?_)
      have same : ringPut (upXsq (upSite s i (rampEnded timed)) i h fun x => ((x.counted).halts r.delta).halted) h
          (statusWord stOk 0xE5 k.val h.val ((x.processed + 1) % 2 ^ 32) 0 x.pc) = t := by
        simp only [t, up_eq]
        rfl
      rw [same]
      refine congrArg (raise · _) (upSite_congr t i ?_)
      have frozen : frozenAfter (setAt t i h) (siteAt t i).frozen = match (siteAt t i).frozen with
          | some (b, n) => if freezeLasts (setAt t i h) b n then some (b, n) else none
          | none => none := by
        cases (siteAt t i).frozen <;> rfl
      simp only [frozen, rampsDown, ← ite_and]
      rfl
    · intro n v opcode ctrl hn opa hv hb hd hm room hk
      have op : r.op = 3 := by unfold Record.op; omega
      refine congrArg Host.Outcome.next ((hqpushOp_pushes live next words opcode ctrl
        (controlBad_hqpush ctrl hn op ⟨hb, hd, hm⟩ delta) opa hv room hk).trans ?_)
      rw [up_eq]
      refine upSet_congr _ i h ?_
      rw [setAt_setFrozen, setAt_rampEnded]
      simp [pushed, Xsq.moved, Xsq.counted, ready.due, x]
    · intro en eng low running room array hk plain
      have untimed : modeOf s h ≠ 2 → r.delta = 0 := fun h2 => not_not.1 fun hd => h2 (by simpa [timed] using delta.2 hd)
      refine congrArg Host.Outcome.next ((recordIssueOp_issues live next en eng low running room array untimed plain hk).trans ?_)
      rw [up_eq]
      refine upSet_congr _ i h ?_
      rw [setAt_setFrozen, setAt_rampEnded]
      rfl
    · intro j low compute halted
      exact congrArg Host.Outcome.next (recordIssueOp_stops live next low compute halted)
  · intro r next opcode hk words
    constructor
    · intro off
      refine congrArg Host.Outcome.next ((checkOp_off live next opcode off hk).trans ?_)
      rw [up_eq]
      refine upXsq_congr _ i h ?_
      rw [setAt_rampEnded]
      rfl
    · intro on ctrl delta ha hb hd p g n hn hg mod
      obtain ⟨bs, ready, -⟩ := ready_of_next live next
      obtain ⟨mask, produce, token, gen⟩ := check_mod (p := p) hn hg
      have op : r.op = 4 := by unfold Record.op; omega
      have good : controlBad true r 0xFFFF4000 = none :=
        controlBad_bare ⟨ctrl, ha, hb, hd⟩ (by omega) (by rw [if_pos rfl, if_pos op]; exact delta) (by rw [mod]; exact mask)
      refine congrArg Host.Outcome.next ((checkOp_binds live next words opcode on ctrl good hk).trans ?_)
      rw [up_eq]
      refine upXsq_congr _ i h ?_
      rw [setAt_rampEnded]
      have checked : checkOf r = ⟨p, n, g⟩ := by rw [checkOf, mod, produce, token, gen]
      simp [Xsq.bound, Xsq.moved, Xsq.counted, checked, ready.due, delta, satInc]
  · intro t n pre post adv hn before after
    exact congrArg Host.Outcome.next (tokenAdvanceOp_takes live adv hn before after)

end Sys2Proof.Machine
end

section
/-! PROOFS. The start of a command in its queue, NOP and SETGEO (O22). -/

namespace Sys2Proof.Machine

/- What leaves the queues, the memory, the households and the doorbells alone. -/

/-- The queues of t are those of s, and the clusters run the same sets. -/
structure SameQueues (s t : State) : Prop where
  map : t.map = s.map
  wall : t.pw = s.pw
  sites : ∀ j, (siteAt t j).dead = (siteAt s j).dead ∧ (siteAt t j).served = (siteAt s j).served
  sets : ∀ j h, (setAt t j h).queues = (setAt s j h).queues
  regions : ∀ r, (regAt t r).mve.ents = (regAt s r).mve.ents ∧ (regAt t r).larder.ents = (regAt s r).larder.ents

/-- State t has the queues, the memory, the households, the doorbells, the pools and the loader of s. -/
structure Quiet (s t : State) : Prop extends SameQueues s t where
  cellar : t.cellar = s.cellar
  hhs : t.hhs = s.hhs
  db : t.db = s.db
  pools : t.pools = s.pools ∧ t.loader = s.loader

theorem SameQueues.refl (s : State) : SameQueues s s := ⟨rfl, rfl, fun _ => ⟨rfl, rfl⟩, fun _ _ => rfl, fun _ => ⟨rfl, rfl⟩⟩
theorem SameQueues.trans {s t u : State} (a : SameQueues s t) (b : SameQueues t u) : SameQueues s u :=
  ⟨b.map.trans a.map, b.wall.trans a.wall, fun j => ⟨(b.sites j).1.trans (a.sites j).1, (b.sites j).2.trans (a.sites j).2⟩,
    fun j h => (b.sets j h).trans (a.sets j h),
    fun r => ⟨(b.regions r).1.trans (a.regions r).1, (b.regions r).2.trans (a.regions r).2⟩⟩
theorem Quiet.refl (s : State) : Quiet s s := ⟨.refl s, rfl, rfl, rfl, rfl, rfl⟩
theorem Quiet.trans {s t u : State} (a : Quiet s t) (b : Quiet t u) : Quiet s u :=
  ⟨a.toSameQueues.trans b.toSameQueues, b.cellar.trans a.cellar, b.hhs.trans a.hhs, b.db.trans a.db,
    b.pools.1.trans a.pools.1, b.pools.2.trans a.pools.2⟩

theorem Quiet.calm {s t : State} (a : Quiet s t) (c : calm s) : calm t :=
  ⟨fun i => by rw [a.pools.1]; exact c.1 i, by rw [a.pools.2]; exact c.2⟩

theorem SameQueues.live {s t : State} (a : SameQueues s t) (k : Gl) : liveSet t k = liveSet s k :=
  liveSet_congr a.map a.wall a.sites k
theorem SameQueues.site {s t : State} (a : SameQueues s t) (k : Gl) : siteOf t k = siteOf s k := by
  simp only [siteOf, a.map]
theorem SameQueues.ents {s t : State} (a : SameQueues s t) (q : QueueId) : qEnts t q = qEnts s q := by
  cases q with
  | cluster k en => simp only [qEnts, a.live, a.sets]
  | mve r => exact (a.regions r).1
  | larder r => exact (a.regions r).2

theorem quiet_upSite (s : State) (i : Site) {f : SiteSt → SiteSt}
    (hf : ∀ c, (f c).dead = c.dead ∧ (f c).served = c.served ∧ (f c).sets = c.sets) : Quiet s (upSite s i f) := by
  refine ⟨⟨rfl, rfl, fun j => ?_, fun j h => ?_, fun _ => ⟨rfl, rfl⟩⟩, rfl, rfl, rfl, rfl, rfl⟩
  · rw [siteAt_upSite]
    split
    · exact ⟨(hf _).1, (hf _).2.1⟩
    · exact ⟨rfl, rfl⟩
  · rw [setAt, siteAt_upSite]
    split
    · rw [(hf _).2.2]; rfl
    · rfl
theorem quiet_upSet (s : State) (i : Site) (h : Hh) {f : HSet → HSet} (hf : ∀ x, (f x).queues = x.queues) :
    Quiet s (upSet s i h f) := by
  refine ⟨⟨rfl, rfl, fun j => ?_, fun j g => ?_, fun _ => ⟨rfl, rfl⟩⟩, rfl, rfl, rfl, rfl, rfl⟩
  · rw [siteAt_upSet]
    split <;> exact ⟨rfl, rfl⟩
  · rw [setAt_upSet]
    split
    · exact hf _
    · rfl
theorem quiet_upReg (s : State) (r : Rg) {f : RegionSt → RegionSt}
    (hf : ∀ g, (f g).mve.ents = g.mve.ents ∧ (f g).larder.ents = g.larder.ents) : Quiet s (upReg s r f) := by
  refine ⟨⟨rfl, rfl, fun _ => ⟨rfl, rfl⟩, fun _ _ => rfl, fun j => ?_⟩, rfl, rfl, rfl, rfl, rfl⟩
  rw [regAt_upReg]
  split
  · exact hf _
  · exact ⟨rfl, rfl⟩
theorem quiet_tickFresh (s : State) : Quiet s (tickFresh s) :=
  ⟨⟨rfl, rfl, fun _ => ⟨rfl, rfl⟩, fun _ _ => rfl, fun _ => ⟨rfl, rfl⟩⟩, rfl, rfl, rfl, rfl, rfl⟩

theorem Quiet.tick {s t : State} (a : Quiet s t) : Quiet s (tickFresh t) := a.trans (quiet_tickFresh t)

theorem quiet_setFrozen (s : State) (i : Site) (c : Option (FreezeCause × Nat)) : Quiet s (setFrozen s i c) :=
  quiet_upSite s i fun _ => ⟨rfl, rfl, rfl⟩

theorem quiet_thaw (s : State) (q : QueueId) : Quiet s (thaw s q) := by
  unfold thaw
  split
  · split
    · exact quiet_setFrozen ..
    · exact .refl s
  · exact .refl s

theorem quiet_stallOf (s : State) (q : QueueId) (h : Hh) (c : FreezeCause) : Quiet s (stallOf s q h c) := by
  have note (x : Fin 10) : Quiet s (stallNote s q h x) := by
    cases q with
    | cluster k en =>
      cases hs : siteOf s k with
      | none => simp only [stallNote, stallFor, hs]; exact quiet_tickFresh s
      | some i =>
        obtain ⟨g, hg⟩ := stallNote_cluster hs en h x
        rw [hg]
        exact Quiet.tick (Quiet.tick (quiet_upSite s i fun _ => ⟨rfl, rfl, rfl⟩))
    | mve r => exact Quiet.tick (quiet_upReg s r fun _ => ⟨rfl, rfl⟩)
    | larder r => exact Quiet.tick (quiet_upReg s r fun _ => ⟨rfl, rfl⟩)
  unfold stallOf
  cases q with
  | cluster k en =>
    dsimp only
    split
    · split
      · exact (note _).trans (quiet_setFrozen ..)
      · exact note _
    · exact note _
  | mve r => exact note _
  | larder r => exact note _

/- The start of a command. -/

theorem quiet_takeWait {s t : State} {q : QueueId} {e : Entry} (h : takeWait s q e = some t) : Quiet s t := by
  unfold takeWait at h
  split at h
  · cases h; exact .refl s
  · split at h
    · cases h
    · rename_i i _
      dsimp only at h
      split at h
      · split at h
        · cases h
        · cases h; exact quiet_upSet s i e.hh fun _ => rfl
      · split at h
        · cases h
        · cases h; exact quiet_upSet s i e.hh fun _ => rfl

theorem quiet_startRegs (s : State) (q : QueueId) (e : Entry) : Quiet s (startRegs s q e) := by
  unfold startRegs
  split
  · exact .refl s
  · split
    case h_8 => exact .refl s
    all_goals exact quiet_upSite s _ fun _ => ⟨rfl, rfl, rfl⟩

theorem quiet_rampStart (s : State) (q : QueueId) (e : Entry) : Quiet s (rampStart s q e) := by
  unfold rampStart
  split
  · split
    · exact quiet_upSite s _ fun _ => ⟨rfl, rfl, rfl⟩
    · exact .refl s
  · exact .refl s

theorem quiet_putStream (s : State) (q : QueueId) (e : Entry) (w : Bool) (f : Feed) : Quiet s (putStream s q e w f) := by
  obtain ⟨g, hg⟩ := putStream_streams s q e w f
  rw [hg]
  cases q with
  | cluster k en =>
    unfold upStreams
    dsimp only
    split
    · exact quiet_upSite s _ fun _ => ⟨rfl, rfl, rfl⟩
    · exact .refl s
  | mve r => exact quiet_upReg s r fun _ => ⟨rfl, rfl⟩
  | larder r => exact quiet_upReg s r fun _ => ⟨rfl, rfl⟩

theorem quiet_openStream (s : State) (q : QueueId) (e : Entry) : Quiet s (openStream s q e) := by
  have reads (s : State) : Quiet s (match e.opA with
      | .cellar t sb => putStream s q e false (tensorFeed s e.hh .read t sb)
      | _ => s) := by
    split
    · exact quiet_putStream ..
    · exact .refl s
  have writes (s : State) : Quiet s (match e.opD with
      | .cellar t sb => putStream s q e true (tensorFeed s e.hh .write t sb)
      | _ => s) := by
    split
    · exact quiet_putStream ..
    · exact .refl s
  unfold openStream
  dsimp only
  split
  · split
    · exact reads s
    · exact .refl s
  · split
    · exact writes s
    · exact .refl s
  · split
    · split
      · exact (reads s).trans (writes _)
      · exact .refl s
    · exact .refl s
  · split
    · exact quiet_putStream ..
    · exact .refl s
  · exact .refl s

theorem quiet_takeSlot (s : State) (r : Rg) (e : Entry) : Quiet s (takeSlot s r e) := by
  unfold takeSlot
  dsimp only
  split
  · exact .refl s
  · split
    · exact .refl s
    · exact quiet_upReg s r fun _ => ⟨rfl, rfl⟩

/- One command changed. -/

/-- A command changed in its queue, and nothing else. -/
structure Changes (s t : State) (q : QueueId) (e : Entry) (f : Entry → Entry) : Prop where
  ents : qEnts t q = changed (qEnts s q) e f
  cellar : t.cellar = s.cellar
  hhs : t.hhs = s.hhs
  db : t.db = s.db

theorem map_eq_changed (es : List Entry) (e : Entry) (f : Entry → Entry) :
    (es.map fun x => if x.hh == e.hh && x.seq == e.seq then f x else x) = changed es e f := by
  simp [changed]

theorem changes_upEntry (s : State) (q : QueueId) (e : Entry) (f : Entry → Entry) :
    Changes s (upEntry s q e.hh e.seq f) q e f := by
  cases q with
  | cluster k en =>
    cases live : liveSet s k with
    | none =>
      have ents : qEnts s (.cluster k en) = [] := by simp only [qEnts, live]
      have same : upEntry s (.cluster k en) e.hh e.seq f = s := by simp only [upEntry, upEnts, live]
      rw [same]
      exact ⟨by rw [ents]; rfl, rfl, rfl, rfl⟩
    | some x => exact ⟨qEnts_upEntry live en e f, by rw [upEntry_cluster live]; rfl, by rw [upEntry_cluster live]; rfl,
        by rw [upEntry_cluster live]; rfl⟩
  | mve r =>
    refine ⟨?_, rfl, rfl, rfl⟩
    simp only [upEntry, upEnts, qEnts, regAt_upReg, if_true, map_eq_changed]
  | larder r =>
    refine ⟨?_, rfl, rfl, rfl⟩
    simp only [upEntry, upEnts, qEnts, regAt_upReg, if_true, map_eq_changed]

theorem Changes.of_quiet {s t u v : State} {q : QueueId} {e : Entry} {f : Entry → Entry} (a : Quiet s t) (b : Changes t u q e f)
    (c : Quiet u v) : Changes s v q e f :=
  ⟨by rw [c.ents, b.ents, a.ents], c.cellar.trans (b.cellar.trans a.cellar), c.hhs.trans (b.hhs.trans a.hhs),
    c.db.trans (b.db.trans a.db)⟩

/- A command that runs. -/

/-- A command starts with its operands: it runs, and nothing but its engine's registers and translation caches changes besides. -/
def launched (s : State) (q : QueueId) (e : Entry) : State :=
  thaw (tickFresh (startRegs (rampStart (startTimed (upEntry (cacheOps s q e) q e.hh e.seq fun _ => e) q e) q e) q e)) q

/-- Command e stands in its queue as given; memory and doorbells stand, and households but for translation caches. -/
structure Started (s t : State) (q : QueueId) (e : Entry) : Prop where
  ents : qEnts t q = changed (qEnts s q) e fun _ => e
  cellar : t.cellar = s.cellar
  hhs : t.hhs.map noTlb = s.hhs.map noTlb
  db : t.db = s.db

theorem Started.of_quiet {s t u v : State} {q : QueueId} {e : Entry} (a : Quiet s t) (b : Started t u q e) (c : Quiet u v) :
    Started s v q e :=
  ⟨by rw [c.ents, b.ents, a.ents], c.cellar.trans (b.cellar.trans a.cellar), by rw [c.hhs, b.hhs, a.hhs],
    c.db.trans (b.db.trans a.db)⟩

theorem cacheOps_eq (s : State) (q : QueueId) (e : Entry) :
    ∃ hs, cacheOps s q e = besides s.fresh hs s ∧ hs.map noTlb = s.hhs.map noTlb := by
  unfold cacheOps
  dsimp only
  obtain ⟨l, hl⟩ := cachePages_eq s e.hh (tlbUnit 5 0) _
  rw [hl]
  obtain ⟨m, hm⟩ := cachePages_eq (upTr s e.hh fun x => { x with tlb := l }) e.hh _ _
  rw [hm]
  exact ⟨_, rfl, (upTr_tlb_hhs _ e.hh m).trans (upTr_tlb_hhs s e.hh l)⟩

theorem started_launched (s : State) (q : QueueId) {e : Entry} (untimed : e.t0 = none) : Started s (launched s q e) q e := by
  obtain ⟨hs, cached, same⟩ := cacheOps_eq s q e
  have queues : SameQueues s (besides s.fresh hs s) := ⟨rfl, rfl, fun _ => ⟨rfl, rfl⟩, fun _ _ => rfl, fun _ => ⟨rfl, rfl⟩⟩
  have run := changes_upEntry (besides s.fresh hs s) q e fun _ => e
  have timed (t : State) : startTimed t q e = t := by
    simp only [startTimed, untimed]
  have quiet (t : State) : Quiet t (thaw (tickFresh (startRegs (rampStart t q e) q e)) q) :=
    (((quiet_rampStart t q e).trans (quiet_startRegs _ q e)).tick).trans (quiet_thaw _ q)
  unfold launched
  rw [cached, timed]
  obtain ⟨ents, cellar, hhs, db⟩ := Changes.of_quiet (.refl _) run (quiet _)
  exact ⟨by rw [ents, queues.ents], cellar, by rw [hhs]; exact same, db⟩

/- What COMMAND_START does. -/

theorem startOp_idle {s : State} {q : QueueId} (h : nextToStart s q = none) : startOp s q = s := by
  simp only [startOp, h]

theorem startOp_resumed {s : State} {q : QueueId} {e : Entry} (h : nextToStart s q = some e) (p : e.phase = .resumed) :
    startOp s q = upEntry s q e.hh e.seq fun x => { x with phase := .running } := by
  simp [startOp, h, p]

theorem startOp_waits {s : State} {q : QueueId} {e : Entry} (h : nextToStart s q = some e) (p : e.phase = .queued)
    (w : takeWait s q e = none ∨ semYields s q e = true) : startOp s q = s := by
  rcases w with w | w <;> simp [startOp, h, p, w]

/-- The next command of a queue, whose waits are met in s and taken in s1. -/
structure Starts (s s1 : State) (q : QueueId) (e : Entry) : Prop where
  next : nextToStart s q = some e
  queued : e.phase = .queued
  taken : takeWait s q e = some s1
  first : semYields s q e = false

theorem queued_running : (Phase.queued == Phase.resumed) = false := rfl

/-- A command over with the status of its decode. -/
def refused (s : State) (q : QueueId) (e : Entry) (st : Nat) : State :=
  thaw (tickFresh (upEntry s q e.hh e.seq fun x => { x with phase := .done, status := st, summary := summaryAt x st })) q

theorem startOp_bad {s s1 : State} {q : QueueId} {e : Entry} (h : Starts s s1 q e) {st : Nat}
    (bad : decode s1 q e = .bad st none) : startOp s q = refused (if st == stEngAbsent then errBell (match e.core with
      | some r => noteReject s1 r st e.hh.val
      | none => s1) e.hh else s1) q e st := by
  obtain ⟨next, queued, taken, first⟩ := h
  simp only [startOp, next, queued, queued_running, Bool.false_eq_true, if_false, taken, first, bad]
  rfl

theorem startOp_plain {s s1 : State} {q : QueueId} {e : Entry} (h : Starts s s1 q e) {a b d : Opnd}
    (good : decode s1 q e = .good a b d) (none : noOperands e.cmd = true) :
    startOp s q = launched s1 q { e with opA := a, opB := b, opD := d, phase := .running } := by
  obtain ⟨next, queued, taken, first⟩ := h
  simp only [startOp, next, queued, queued_running, Bool.false_eq_true, if_false, taken, first, good, none, if_true]
  rfl

theorem changes_refused (s : State) (q : QueueId) (e : Entry) (st : Nat) :
    Changes s (refused s q e st) q e fun x => { x with phase := .done, status := st, summary := summaryAt x st } :=
  .of_quiet (.refl s) (changes_upEntry ..) (((quiet_tickFresh _).trans (quiet_thaw _ q)))

/-- A queued command with the operands of its decode. -/
def Entry.decoded (e : Entry) (a b d : Opnd) : Entry := { e with opA := a, opB := b, opD := d, phase := .running }

theorem nextToStart_site {s : State} {k : Gl} {en : Fin 5} {e : Entry} (h : nextToStart s (.cluster k en) = some e) :
    ∃ i, siteOf s k = some i := by
  cases live : liveSet s k with
  | none => simp [nextToStart, live] at h
  | some x => exact ⟨x.1, siteOf_live live⟩

section
variable {s s1 : State} {k : Gl} {en : Fin 5} {e : Entry} {a b d : Opnd}

/-- A command of a compute engine that uses no landing buffer. -/
theorem startOp_compute (h : Starts s s1 (.cluster k en) e) (good : decode s1 (.cluster k en) e = .good a b d)
    (operands : noOperands e.cmd = false) (compute : en.val ≤ 3) (buffer : (needsLanding e.cmd && pmeOwnsLanding s (regionOf k)) = false) :
    startOp s (.cluster k en) = launched s1 (.cluster k en) (e.decoded a b d) := by
  obtain ⟨next, queued, taken, first⟩ := h
  obtain ⟨i, site⟩ := nextToStart_site next
  simp only [startOp, next, queued, queued_running, Bool.false_eq_true, if_false, taken, first, good, operands, site, buffer, if_pos compute]
  rfl

/-- Landing buffer lb of a region goes to a command that waits no longer (R149). -/
def landingTaken (w : Fin 34 × Hh × Nat) (lb : Fin 2) (g : RegionSt) : RegionSt :=
  { g with landing := g.landing.set lb.val (some w.1) lb.isLt, lbWait := g.lbWait.filter (· != w) }

/-- A PME command takes its landing buffer. -/
theorem startOp_lands (h : Starts s s1 (.cluster k en) e) (good : decode s1 (.cluster k en) e = .good a b d)
    (operands : noOperands e.cmd = false) (compute : en.val ≤ 3) (buffer : (needsLanding e.cmd && pmeOwnsLanding s (regionOf k)) = true)
    {lb : Fin 2} (turn : landingTurn s (regionOf k) (k, e.hh, e.seq) = some lb) :
    startOp s (.cluster k en) = launched (upReg s1 (regionOf k) (landingTaken (k, e.hh, e.seq) lb)) (.cluster k en) (e.decoded a b d) := by
  obtain ⟨next, queued, taken, first⟩ := h
  obtain ⟨i, site⟩ := nextToStart_site next
  simp only [startOp, next, queued, queued_running, Bool.false_eq_true, if_false, taken, first, good, operands, site, buffer, turn,
    if_pos compute, if_true]
  rfl

/-- A PME command waits for its landing buffer. -/
theorem startOp_waitsLanding (h : Starts s s1 (.cluster k en) e) (good : decode s1 (.cluster k en) e = .good a b d)
    (operands : noOperands e.cmd = false) (compute : en.val ≤ 3) (buffer : (needsLanding e.cmd && pmeOwnsLanding s (regionOf k)) = true)
    (turn : landingTurn s (regionOf k) (k, e.hh, e.seq) = none) :
    startOp s (.cluster k en) = upReg (stallOf s (.cluster k en) e.hh .landingBusy) (regionOf k) fun g => { g with
      lbWait := if g.lbWait.contains (k, e.hh, e.seq) then g.lbWait else g.lbWait.filter (lbWaits s) ++ [(k, e.hh, e.seq)] } := by
  obtain ⟨next, queued, taken, first⟩ := h
  obtain ⟨i, site⟩ := nextToStart_site next
  simp only [startOp, next, queued, queued_running, Bool.false_eq_true, if_false, taken, first, good, operands, site, buffer, turn,
    if_pos compute, if_true]

/-- A transfer of the stream unit asks for its cellar operands. -/
theorem startOp_streams (h : Starts s s1 (.cluster k en) e) (good : decode s1 (.cluster k en) e = .good a b d)
    (operands : noOperands e.cmd = false) (access : ¬ en.val ≤ 3) :
    startOp s (.cluster k en) = openStream (launched s1 (.cluster k en) (e.decoded a b d)) (.cluster k en) (e.decoded a b d) := by
  obtain ⟨next, queued, taken, first⟩ := h
  obtain ⟨i, site⟩ := nextToStart_site next
  simp only [startOp, next, queued, queued_running, Bool.false_eq_true, if_false, taken, first, good, operands, site, if_neg access]
  rfl

theorem startOp_mve {r : Rg} (h : Starts s s1 (.mve r) e) (good : decode s1 (.mve r) e = .good a b d)
    (operands : noOperands e.cmd = false) (quantum : poolWaits s (.mve r) e a false = false ∧ poolWaits s (.mve r) e d true = false) :
    startOp s (.mve r) = openStream (launched s1 (.mve r) (e.decoded a b d)) (.mve r) (e.decoded a b d) := by
  obtain ⟨next, queued, taken, first⟩ := h
  have waits (dest : Bool) (o : Opnd) : poolWaits s (.mve r) { e with opA := a, opB := b, opD := d, phase := .running } o dest =
      poolWaits s (.mve r) e o dest := rfl
  simp only [startOp, next, queued, queued_running, Bool.false_eq_true, if_false, taken, first, good, operands, waits, quantum,
    Bool.or_self]
  rfl

theorem startOp_larder {r : Rg} (h : Starts s s1 (.larder r) e) (good : decode s1 (.larder r) e = .good a b d)
    (operands : noOperands e.cmd = false) : startOp s (.larder r) =
      openStream (takeSlot (launched s1 (.larder r) (e.decoded a b d)) r (e.decoded a b d)) (.larder r) (e.decoded a b d) := by
  obtain ⟨next, queued, taken, first⟩ := h
  simp only [startOp, next, queued, queued_running, Bool.false_eq_true, if_false, taken, first, good, operands]
  rfl

end

/-- A command whose operands decode and that has what it needs runs. -/
theorem started_startOp {s s1 : State} {q : QueueId} {e : Entry} (h : Starts s s1 q e) (untimed : e.t0 = none) {a b d : Opnd}
    (good : decode s1 q e = .good a b d) (quantum : poolWaits s q e a false = false ∧ poolWaits s q e d true = false)
    (buffer : ∀ k en, q = .cluster k en → en.val ≤ 3 → needsLanding e.cmd = true → pmeOwnsLanding s (regionOf k) = true →
      (landingTurn s (regionOf k) (k, e.hh, e.seq)).isSome = true) : Started s (startOp s q) q (e.decoded a b d) := by
  have taken := quiet_takeWait h.taken
  have run (t u : State) (x : Quiet s t) (y : Quiet (launched t q (e.decoded a b d)) u) : Started s u q (e.decoded a b d) :=
    .of_quiet x (started_launched t q (e := e.decoded a b d) untimed) y
  cases operands : noOperands e.cmd with
  | true =>
    rw [startOp_plain h good operands]
    exact run s1 _ taken (.refl _)
  | false =>
    cases q with
    | cluster k en =>
      by_cases compute : en.val ≤ 3
      · cases hb : needsLanding e.cmd && pmeOwnsLanding s (regionOf k) with
        | false =>
          rw [startOp_compute h good operands compute hb]
          exact run s1 _ taken (.refl _)
        | true =>
          obtain ⟨needs, owns⟩ := Bool.and_eq_true_iff.1 hb
          obtain ⟨lb, turn⟩ := Option.isSome_iff_exists.1 (buffer k en rfl compute needs owns)
          rw [startOp_lands h good operands compute hb turn]
          exact run _ _ (taken.trans (quiet_upReg s1 (regionOf k) (f := landingTaken (k, e.hh, e.seq) lb) fun _ => ⟨rfl, rfl⟩)) (.refl _)
      · rw [startOp_streams h good operands compute]
        exact run s1 _ taken (quiet_openStream _ _ _)
    | mve r =>
      rw [startOp_mve h good operands quantum]
      exact run s1 _ taken (quiet_openStream _ _ _)
    | larder r =>
      rw [startOp_larder h good operands]
      exact run s1 _ taken ((quiet_takeSlot _ _ _).trans (quiet_openStream _ _ _))

/-- A command that waits for its landing buffer stands among those that do, in order of arrival. -/
theorem startOp_queuesForLanding {s s1 : State} {k : Gl} {en : Fin 5} {e : Entry} {a b d : Opnd} (h : Starts s s1 (.cluster k en) e)
    (good : decode s1 (.cluster k en) e = .good a b d) (operands : noOperands e.cmd = false) (compute : en.val ≤ 3)
    (buffer : (needsLanding e.cmd && pmeOwnsLanding s (regionOf k)) = true)
    (turn : landingTurn s (regionOf k) (k, e.hh, e.seq) = none) :
    Quiet s (startOp s (.cluster k en)) ∧ (k, e.hh, e.seq) ∈ (regAt (startOp s (.cluster k en)) (regionOf k)).lbWait := by
  rw [startOp_waitsLanding h good operands compute buffer turn]
  constructor
  · exact (quiet_stallOf ..).trans (quiet_upReg _ _ fun _ => ⟨rfl, rfl⟩)
  · rw [regAt_upReg, if_pos rfl]
    dsimp only
    split
    · rename_i waits
      simpa using waits
    · simp

/- A command that its decode refuses. -/

theorem quiet_noteReject (s : State) (r : Rg) (st ctx : Nat) : Quiet s (noteReject s r st ctx) := quiet_upReg s r fun _ => ⟨rfl, rfl⟩

theorem sameQueues_errBell (s : State) (h : Hh) : SameQueues s (errBell s h) := by
  refine ⟨errBell_map .., errBell_pw .., fun j => ?_, fun j g => ?_, fun r => ?_⟩
  · rw [siteAt_errBell]; exact ⟨rfl, rfl⟩
  · simp only [setAt, siteAt_errBell]
  · rw [regAt_errBell]; exact ⟨rfl, rfl⟩

theorem coreAt_thaw (s : State) (q : QueueId) (r : Rg) : coreAt (thaw s q) r = coreAt s r := by
  unfold thaw
  split
  · split <;> rfl
  · rfl

theorem coreAt_upEntry (s : State) (q : QueueId) (h : Hh) (seq : Nat) (f : Entry → Entry) (r : Rg) :
    coreAt (upEntry s q h seq f) r = coreAt s r := by
  cases q with
  | cluster k en =>
    simp only [upEntry, upEnts]
    split <;> rfl
  | mve g =>
    simp only [upEntry, upEnts, coreAt, regAt_upReg]
    split <;> rfl
  | larder g =>
    simp only [upEntry, upEnts, coreAt, regAt_upReg]
    split <;> rfl

theorem coreAt_refused (s : State) (q : QueueId) (e : Entry) (st : Nat) (r : Rg) : coreAt (refused s q e st) r = coreAt s r := by
  rw [refused, coreAt_thaw, coreAt_tickFresh, coreAt_upEntry]

theorem coreAt_takeWait {s t : State} {q : QueueId} {e : Entry} (h : takeWait s q e = some t) (r : Rg) : coreAt t r = coreAt s r := by
  unfold takeWait at h
  split at h
  · cases h; rfl
  · split at h
    · cases h
    · dsimp only at h
      split at h
      · split at h <;> cases h
        rfl
      · split at h <;> cases h
        rfl

/-- A command that names an absent engine rings the error doorbell and is logged on its core (R6, R132). -/
theorem startOp_absent {s s1 : State} {q : QueueId} {e : Entry} (h : Starts s s1 q e) (bad : decode s1 q e = .bad stEngAbsent none) :
    ∃ t, startOp s q = t ∧
      qEnts t q = changed (qEnts s q) e (fun x => { x with phase := .done, status := stEngAbsent, summary := summaryAt x stEngAbsent }) ∧
      t.cellar = s.cellar ∧ t.hhs = s.hhs ∧ t.db = (raise s (hhSrc e.hh 0)).db ∧
      ∀ r, e.core = some r → (coreAt t r).rejStatus = stEngAbsent ∧ (coreAt t r).rejCtx = e.hh.val ∧
        (coreAt t r).rejCount = min ((coreAt s r).rejCount + 1) 65535 := by
  let v := match e.core with
    | some r => noteReject s1 r stEngAbsent e.hh.val
    | none => s1
  have logged : Quiet s v := by
    refine (quiet_takeWait h.taken).trans ?_
    simp only [v]
    split
    · exact quiet_noteReject ..
    · exact .refl s1
  have bell := sameQueues_errBell v e.hh
  obtain ⟨ents, cellar, hhs, db⟩ := changes_refused (errBell v e.hh) q e stEngAbsent
  have ends : startOp s q = refused (errBell v e.hh) q e stEngAbsent := by
    rw [startOp_bad h bad, if_pos (by decide)]
  refine ⟨refused (errBell v e.hh) q e stEngAbsent, ends, ?_, ?_, ?_, ?_, ?_⟩
  · rw [ents, bell.ents, logged.ents]
  · rw [cellar, errBell_cellar, logged.cellar]
  · rw [hhs, errBell_hhs, logged.hhs]
  · rw [db]
    exact raise_db_congr logged.db _
  · intro r hr
    have core : coreAt (refused (errBell v e.hh) q e stEngAbsent) r = coreAt (noteReject s1 r stEngAbsent e.hh.val) r := by
      rw [coreAt_refused, coreAt, regAt_errBell]
      simp only [v, hr]
      rfl
    rw [core, noteReject, coreAt_upCore, if_pos rfl, coreAt_takeWait h.taken]
    exact ⟨rfl, rfl, satInc_eq_min _⟩

theorem startOp_refuses {s s1 : State} {q : QueueId} {e : Entry} (h : Starts s s1 q e) {st : Nat} (bad : decode s1 q e = .bad st none)
    (present : st ≠ stEngAbsent) :
    Changes s (startOp s q) q e fun x => { x with phase := .done, status := st, summary := summaryAt x st } := by
  have off : ¬ (st == stEngAbsent) = true := by simpa using present
  rw [startOp_bad h bad, if_neg off]
  exact .of_quiet (quiet_takeWait h.taken) (changes_refused s1 q e st) (.refl _)

/- The semaphore that a WAIT takes (R135). -/

theorem takeWait_semaphore {s : State} {k : Gl} {en : Fin 5} {i : Site} {e : Entry} (untimed : e.t0 = none) (site : siteOf s k = some i)
    (on : e.cmd.waitEn = true) (rows : row1 s (.cluster k en) e = true ∧ row2 s (.cluster k en) e = true) (count : e.cmd.credit = false) :
    let n : Fin 16 := ⟨e.cmd.wait % 16, by omega⟩
    let x := (setAt s i e.hh).sems.get n
    takeWait s (.cluster k en) e = if x.count = 0 then none
      else some (upSet s i e.hh fun t => { t with sems := t.sems.set n.val { x with count := x.count - 1 } n.isLt }) := by
  obtain ⟨r1, r2⟩ := rows
  have timed : hasWait e = true := by simp [hasWait, untimed]
  simp only [takeWait, timed, on, r1, r2, waitGl, site, count]
  simp only [Bool.not_true, Bool.and_self, Bool.or_self, Bool.false_eq_true, if_false]
  split
  · rfl
  · exact congrArg some (upSet_congr s i e.hh rfl)

theorem takeWait_off {s : State} {q : QueueId} {e : Entry} (off : e.cmd.waitEn = false) : takeWait s q e = some s := by
  simp [takeWait, off]

/- NOP and SETGEO. -/

theorem qGeo_upEntry (s : State) (q : QueueId) (h : Hh) (seq : Nat) (f : Entry → Entry) (g : Hh) :
    qGeo (upEntry s q h seq f) q g = qGeo s q g := by
  cases q with
  | cluster k en =>
    simp only [upEntry, upEnts]
    split
    · rename_i i o live
      simp only [qGeo, siteOf_upSet, siteOf_live live, setAt_upSet]
      split <;> rfl
    · rfl
  | mve r => simp only [upEntry, upEnts, qGeo, regAt_upReg, if_true]
  | larder r => simp only [upEntry, upEnts, qGeo, regAt_upReg, if_true]

/-- A command ends with a status that names no operand, and nothing else changes. -/
theorem changes_endEntry (s : State) (q : QueueId) (e : Entry) (st : Nat) :
    Changes s (endEntry s q e st 0 0) q e (fun x => overWith x st 0 0) ∧ ∀ h, qGeo (endEntry s q e st 0 0) q h = qGeo s q h := by
  rw [endEntry_plain]
  exact ⟨changes_upEntry .., qGeo_upEntry _ _ _ _ _⟩

theorem checkFails_none {s : State} {i : Site} {e : Entry} (h : e.t0 = none ∨ ∀ c ∈ e.checks, c.produce = true) :
    checkFails s i e = false := by
  rcases h with h | h
  · simp [checkFails, h]
  · have pass : checksPass s i e = true := List.all_eq_true.2 fun c hc => by simp [h c hc]
    simp [checkFails, pass]

/-- A NOP whose checks pass ends with OK. -/
theorem execNop_ok {s : State} {q : QueueId} {e : Entry} (first : (qEnts s q).find? (fun e => e.phase == .running && e.cmd.op == 0) = some e)
    (pass : e.t0 = none ∨ ∀ c ∈ e.checks, c.produce = true) : execNop q s = .next (endEntry s q e stOk 0 0) := by
  simp only [execNop, first]
  split
  · rw [checkFails_none pass]; rfl
  · rfl

theorem qSite_live {s : State} {k : Gl} {i : Site} {h : Hh} (live : liveSet s k = some (i, h)) (en : Fin 5) :
    qSite s (.cluster k en) = some i := by simp [qSite, live]

theorem execNop_violates {s : State} {k : Gl} {en : Fin 5} {e : Entry} {i : Site} (live : liveSet s k = some (i, e.hh))
    (first : (qEnts s (.cluster k en)).find? (fun e => e.phase == .running && e.cmd.op == 0) = some e)
    (timed : e.t0.isSome = true) (fails : checksPass s i e = false) :
    execNop (.cluster k en) s = .next (endEntry s (.cluster k en) e stSched 0 0) := by
  simp only [execNop, first, qSite_live live, checkFails, timed, fails]
  rfl

/-- The conditions on the fields of a SETGEO (R125). -/
def geoFits (r : Record) : Prop :=
  0 < r.mod ∧ r.mod < 16 ∧ bits r.opa 0 2 ≠ 3 ∧ 0 < bits r.opa 38 18 ∧ bits r.opa 38 18 ≤ 131072 ∧
    sext 32 (bits r.opb 0 32) % (2 ^ bits r.opa 0 2 : Nat) = 0 ∧ sext 32 (bits r.opd 0 32) % (2 ^ bits r.opa 0 2 : Nat) = 0 ∧
    sext 32 (bits r.opb 32 32) % 4 = 0 ∧ bits r.opa 56 8 = 0 ∧ bits r.opa 2 14 = 0 ∧ bits r.opd 32 32 = 0
/-- The slot that a SETGEO with such fields gives. -/
def namedGeo (r : Record) : Geo :=
  ⟨false, bits r.opa 0 2, bits r.opa 38 18, bits r.opa 26 12 + 1, bits r.opa 16 10 + 1, sext 32 (bits r.opb 0 32),
    sext 32 (bits r.opd 0 32), sext 32 (bits r.opb 32 32)⟩

theorem setgeoValue_fits {r : Record} (h : geoFits r) : setgeoValue r = some (namedGeo r) := by
  obtain ⟨m0, m16, es, i0, i1, s1, s2, so, z1, z2, z3⟩ := h
  have m0' : ¬ r.mod = 0 := by omega
  have m16' : ¬ r.mod ≥ 16 := by omega
  have i0' : ¬ bits r.opa 38 18 = 0 := by omega
  have i1' : ¬ bits r.opa 38 18 > 131072 := by omega
  simp only [setgeoValue, namedGeo, m0', m16', es, i0', i1', s1, s2, so, z1, z2, z3]
  rfl

theorem setgeoValue_unfit {r : Record} (h : ¬ geoFits r) : setgeoValue r = none := by
  unfold setgeoValue
  dsimp only
  refine if_pos ?_
  by_contra good
  refine h ?_
  simp only [Bool.or_eq_true, decide_eq_true_eq, not_or, not_not] at good
  obtain ⟨⟨⟨⟨⟨⟨⟨⟨⟨⟨m0, m16⟩, es⟩, i0⟩, i1⟩, s1⟩, s2⟩, so⟩, z1⟩, z2⟩, z3⟩ := good
  exact ⟨by omega, by omega, es, by omega, by omega, s1, s2, so, z1, z2, z3⟩

theorem execSetgeo_unfit {s : State} {q : QueueId} {e : Entry}
    (first : (qEnts s q).find? (fun e => e.phase == .running && e.cmd.op == 31) = some e) (untimed : e.t0 = none)
    (bad : ¬ geoFits e.cmd) : execSetgeo q s = .next (endEntry s q e stRange 0 0) := by
  simp only [execSetgeo, first, checkFails_none (Or.inl untimed), setgeoValue_unfit bad]
  split <;> rfl

theorem execSetgeo_fits {s : State} {q : QueueId} {e : Entry}
    (first : (qEnts s q).find? (fun e => e.phase == .running && e.cmd.op == 31) = some e) (untimed : e.t0 = none)
    (fits : geoFits e.cmd) :
    execSetgeo q s = .next (endEntry (setGeoSlot s q e.hh ⟨e.cmd.mod, fits.2.1⟩ (namedGeo e.cmd)) q e stOk 0 0) := by
  have slot : fin? 16 e.cmd.mod = some ⟨e.cmd.mod, fits.2.1⟩ := by simp [fin?, fits.2.1]
  simp only [execSetgeo, first, checkFails_none (Or.inl untimed), setgeoValue_fits fits, slot]
  split <;> rfl

theorem quiet_setGeoSlot (s : State) (q : QueueId) (h : Hh) (n : Fin 16) (g : Geo) : Quiet s (setGeoSlot s q h n g) := by
  unfold setGeoSlot
  split
  · split
    · exact quiet_upSet s _ h fun _ => rfl
    · exact .refl s
  · exact quiet_upReg s _ fun _ => ⟨rfl, rfl⟩
  · exact quiet_upReg s _ fun _ => ⟨rfl, rfl⟩

theorem qGeo_setGeoSlot {s : State} {q : QueueId} (h : Hh) (n : Fin 16) (g : Geo)
    (site : ∀ k en, q = .cluster k en → ∃ i, siteOf s k = some i) (m : Fin 16) :
    (qGeo (setGeoSlot s q h n g) q h).get m = if m.val = n.val then g else (qGeo s q h).get m := by
  have slot (v : Vector Geo 16) : (v.set n.val g n.isLt).get m = if m.val = n.val then g else v.get m := by
    rw [set_get]
    simp only [Fin.ext_iff, eq_comm (a := n.val)]
  cases q with
  | cluster k en =>
    obtain ⟨i, hi⟩ := site k en rfl
    simp only [setGeoSlot, qGeo, hi, siteOf_upSet, setAt_upSet, and_self, if_true, vmod_get, slot]
  | mve r => simp only [setGeoSlot, qGeo, regAt_upReg, if_true, vmod_get, slot]
  | larder r => simp only [setGeoSlot, qGeo, regAt_upReg, if_true, vmod_get, slot]

/-- Settles O22: COMMAND_START by how the waits and the decode turn out, NOP and SETGEO by the end of their command. -/
theorem commandsStart : Obligations.CommandsStart := by
  constructor
  · intro s q e
    refine ⟨?_, ?_, ?_⟩
    · intro h
      exact congrArg Host.Outcome.next (startOp_idle h)
    · intro h p
      exact congrArg Host.Outcome.next (startOp_resumed h p)
    · intro h p untimed
      refine ⟨?_, ?_, takeWait_off, ?_⟩
      · intro w
        exact congrArg Host.Outcome.next (startOp_waits h p w)
      · intro k en i hq site on r1 r2 count
        subst hq
        exact takeWait_semaphore untimed site on ⟨r1, r2⟩ count
      · intro s1 taken first
        have starts : Starts s s1 q e := ⟨h, p, taken, first⟩
        refine ⟨?_, ?_, ?_⟩
        · intro st bad present
          obtain ⟨ents, cellar, hhs, db⟩ := startOp_refuses starts bad present
          exact ⟨startOp s q, rfl, ents, cellar, hhs, db⟩
        · intro bad
          obtain ⟨t, ht, rest⟩ := startOp_absent starts bad
          exact ⟨t, congrArg Host.Outcome.next ht, rest⟩
        · intro a b d good wa wd
          constructor
          · intro buffer
            obtain ⟨ents, cellar, hhs, db⟩ := started_startOp starts untimed good ⟨wa, wd⟩ buffer
            exact ⟨startOp s q, rfl, ents, cellar, hhs, db⟩
          · intro k en hq compute operands needs owns turn
            subst hq
            obtain ⟨quiet, waits⟩ := startOp_queuesForLanding starts good operands compute (by rw [needs, owns]; rfl) turn
            exact ⟨startOp s _, rfl, quiet.ents _, waits, quiet.cellar, quiet.hhs, quiet.db⟩
  · intro s q e live ends
    constructor
    · intro first
      constructor
      · intro pass
        obtain ⟨⟨ents, cellar, hhs, db⟩, geo⟩ := changes_endEntry s q e stOk
        exact ⟨_, execNop_ok first pass, ⟨ents, cellar, hhs, db⟩, geo⟩
      · intro k en i hq at_ timed fails
        subst hq
        obtain ⟨⟨ents, cellar, hhs, db⟩, -⟩ := changes_endEntry s (.cluster k en) e stSched
        exact ⟨_, execNop_violates at_ first timed fails, ents, cellar, hhs, db⟩
    · intro first untimed r field es s1 s2 so good
      constructor
      · intro fits
        have site : ∀ k en, q = .cluster k en → ∃ i, siteOf s k = some i := fun k en hq =>
          let ⟨i, hi⟩ := live k en hq
          ⟨i, siteOf_live hi⟩
        obtain ⟨done, geo⟩ := changes_endEntry (setGeoSlot s q e.hh ⟨e.cmd.mod, fits.2.1⟩ (namedGeo e.cmd)) q e stOk
        obtain ⟨ents, cellar, hhs, db⟩ := Changes.of_quiet (quiet_setGeoSlot ..) done (.refl _)
        refine ⟨_, execSetgeo_fits first untimed fits, ⟨ents, cellar, hhs, db⟩, fun n => ?_⟩
        rw [geo, qGeo_setGeoSlot e.hh _ _ site]
        rfl
      · intro unfit
        obtain ⟨⟨ents, cellar, hhs, db⟩, geo⟩ := changes_endEntry s q e stRange
        exact ⟨_, execSetgeo_unfit first untimed unfit, ⟨ents, cellar, hhs, db⟩, geo⟩

end Sys2Proof.Machine
end

section
/-! PROOFS. The completion of a command (O23). -/

namespace Sys2Proof.Machine

/- What the end of a command leaves alone. -/

/-- A state with the clusters, the memory, the households, the pools and the loader of s. -/
structure Frame (s t : State) : Prop where
  map : t.map = s.map
  wall : t.pw = s.pw
  sites : ∀ j, (siteAt t j).dead = (siteAt s j).dead ∧ (siteAt t j).served = (siteAt s j).served
  cellar : t.cellar = s.cellar
  hhs : t.hhs = s.hhs
  calm : calm s → calm t

/-- What a queue of a region shows of its commands: the commands, the halted households and DONE. -/
def RQueue.shown (q : RQueue) : List Entry × Vector Bool 16 × Nat := (q.ents, q.halted, q.doneSeq)

/-- Besides, every set and every queue of a region stands. -/
structure Beside (s t : State) : Prop extends Frame s t where
  sets : ∀ j h, setAt t j h = setAt s j h
  regions : ∀ r, (regAt t r).mve.shown = (regAt s r).mve.shown ∧ (regAt t r).larder.shown = (regAt s r).larder.shown

theorem Frame.refl (s : State) : Frame s s := ⟨rfl, rfl, fun _ => ⟨rfl, rfl⟩, rfl, rfl, id⟩
theorem Frame.trans {s t u : State} (a : Frame s t) (b : Frame t u) : Frame s u :=
  ⟨b.map.trans a.map, b.wall.trans a.wall, fun j => ⟨(b.sites j).1.trans (a.sites j).1, (b.sites j).2.trans (a.sites j).2⟩,
    b.cellar.trans a.cellar, b.hhs.trans a.hhs, fun c => b.calm (a.calm c)⟩
theorem Beside.refl (s : State) : Beside s s := ⟨.refl s, fun _ _ => rfl, fun _ => ⟨rfl, rfl⟩⟩
theorem Beside.trans {s t u : State} (a : Beside s t) (b : Beside t u) : Beside s u :=
  ⟨a.toFrame.trans b.toFrame, fun j h => (b.sets j h).trans (a.sets j h),
    fun r => ⟨(b.regions r).1.trans (a.regions r).1, (b.regions r).2.trans (a.regions r).2⟩⟩

theorem Frame.live {s t : State} (a : Frame s t) (k : Gl) : liveSet t k = liveSet s k := liveSet_congr a.map a.wall a.sites k
theorem Frame.site {s t : State} (a : Frame s t) (k : Gl) : siteOf t k = siteOf s k := by simp only [siteOf, a.map]
theorem Frame.household {s t : State} (a : Frame s t) (h : Hh) : hhAt t h = hhAt s h := by simp only [hhAt, a.hhs]
theorem Frame.mode {s t : State} (a : Frame s t) (h : Hh) : modeOf t h = modeOf s h := by simp only [modeOf, a.household]

/-- Besides, the queues and what they show stand. -/
structure Keeps (s t : State) : Prop extends Frame s t where
  queues : ∀ j h, (setAt t j h).queues = (setAt s j h).queues
  regions : ∀ r, (regAt t r).mve.shown = (regAt s r).mve.shown ∧ (regAt t r).larder.shown = (regAt s r).larder.shown

theorem Keeps.trans {s t u : State} (a : Keeps s t) (b : Keeps t u) : Keeps s u :=
  ⟨a.toFrame.trans b.toFrame, fun j h => (b.queues j h).trans (a.queues j h),
    fun r => ⟨(b.regions r).1.trans (a.regions r).1, (b.regions r).2.trans (a.regions r).2⟩⟩
theorem Beside.keeps {s t : State} (a : Beside s t) : Keeps s t := ⟨a.toFrame, fun j h => by rw [a.sets], a.regions⟩

theorem Keeps.halted {s t : State} (a : Keeps s t) (q : QueueId) (h : Hh) : qHalted t q h = qHalted s q h := by
  cases q with
  | cluster k en => simp only [qHalted, a.site, a.queues]
  | mve r => exact congrArg (fun x => x.2.1.get h) (a.regions r).1
  | larder r => exact congrArg (fun x => x.2.1.get h) (a.regions r).2
theorem Keeps.ents {s t : State} (a : Keeps s t) (q : QueueId) : qEnts t q = qEnts s q := by
  cases q with
  | cluster k en => simp only [qEnts, a.live, a.queues]
  | mve r => exact congrArg (·.1) (a.regions r).1
  | larder r => exact congrArg (·.1) (a.regions r).2

theorem keeps_upSet (s : State) (i : Site) (h : Hh) {f : HSet → HSet} (hf : ∀ x, (f x).queues = x.queues) : Keeps s (upSet s i h f) := by
  refine ⟨⟨rfl, rfl, fun j => ?_, rfl, rfl, id⟩, fun j g => ?_, fun _ => ⟨rfl, rfl⟩⟩
  · rw [siteAt_upSet]
    split <;> exact ⟨rfl, rfl⟩
  · rw [setAt_upSet]
    split
    · exact hf _
    · rfl

theorem frame_upSet (s : State) (i : Site) (h : Hh) (f : HSet → HSet) : Frame s (upSet s i h f) := by
  refine ⟨rfl, rfl, fun j => ?_, rfl, rfl, id⟩
  rw [siteAt_upSet]
  split <;> exact ⟨rfl, rfl⟩
theorem frame_upReg (s : State) (r : Rg) (f : RegionSt → RegionSt) : Frame s (upReg s r f) :=
  ⟨rfl, rfl, fun _ => ⟨rfl, rfl⟩, rfl, rfl, id⟩
theorem beside_upSite (s : State) (i : Site) {f : SiteSt → SiteSt}
    (hf : ∀ c, (f c).dead = c.dead ∧ (f c).served = c.served ∧ (f c).sets = c.sets) : Beside s (upSite s i f) := by
  refine ⟨⟨rfl, rfl, fun j => ?_, rfl, rfl, id⟩, fun j h => ?_, fun _ => ⟨rfl, rfl⟩⟩
  · rw [siteAt_upSite]
    split
    · exact ⟨(hf _).1, (hf _).2.1⟩
    · exact ⟨rfl, rfl⟩
  · rw [setAt, siteAt_upSite]
    split
    · rw [(hf _).2.2]; rfl
    · rfl
theorem beside_upReg (s : State) (r : Rg) {f : RegionSt → RegionSt}
    (hf : ∀ g, (f g).mve.shown = g.mve.shown ∧ (f g).larder.shown = g.larder.shown) : Beside s (upReg s r f) := by
  refine ⟨frame_upReg s r f, fun _ _ => rfl, fun j => ?_⟩
  rw [regAt_upReg]
  split
  · exact hf _
  · exact ⟨rfl, rfl⟩
theorem beside_raise (s : State) (x : Nat) : Beside s (raise s x) := by
  obtain ⟨d, e⟩ := raise_eq s x
  rw [e]
  exact ⟨⟨rfl, rfl, fun _ => ⟨rfl, rfl⟩, rfl, rfl, id⟩, fun _ _ => rfl, fun _ => ⟨rfl, rfl⟩⟩

theorem beside_thaw (s : State) (q : QueueId) : Beside s (thaw s q) ∧ (thaw s q).db = s.db := by
  unfold thaw
  split
  · split
    · exact ⟨beside_upSite s _ fun _ => ⟨rfl, rfl, rfl⟩, rfl⟩
    · exact ⟨.refl s, rfl⟩
  · exact ⟨.refl s, rfl⟩

theorem beside_sweep (s : State) (q : QueueId) : Beside s (sweep s q) ∧ (sweep s q).db = s.db := by
  cases q with
  | cluster k en =>
    cases live : liveSet s k with
    | none =>
      have same : sweep s (.cluster k en) = s := by simp only [sweep, live]
      rw [same]
      exact ⟨.refl s, rfl⟩
    | some x =>
      obtain ⟨f, hf⟩ := sweep_cluster (i := x.1) (h := x.2) live en
      rw [hf]
      exact ⟨beside_upSite s _ fun _ => ⟨rfl, rfl, rfl⟩, rfl⟩
  | mve r => exact ⟨beside_upReg s r fun _ => ⟨rfl, rfl⟩, rfl⟩
  | larder r => exact ⟨beside_upReg s r fun _ => ⟨rfl, rfl⟩, rfl⟩

theorem beside_noteWork (s : State) (k : Gl) : Beside s (noteWork s k) ∧ (noteWork s k).db = s.db := by
  unfold noteWork
  split
  · refine ⟨⟨⟨rfl, rfl, fun _ => ⟨rfl, rfl⟩, rfl, rfl, fun c => ⟨fun j => ?_, c.2⟩⟩, fun _ _ => rfl, fun _ => ⟨rfl, rfl⟩⟩, rfl⟩
    simp only [upPool, vmod_get]
    split <;> exact c.1 j
  · exact ⟨.refl s, rfl⟩

/- A command leaves its queue. -/

/-- The commands of a queue without one of them. -/
def without (e : Entry) (es : List Entry) : List Entry := es.filter fun y => !(y.hh == e.hh && y.seq == e.seq)
/-- A cluster queue that a command has left (R134). -/
def EQueue.left (e : Entry) (x : EQueue) : EQueue := { x with ents := without e x.ents, doneSeq := e.seq, lastStatus := e.status }

/-- The command leaves its queue, DONE and LAST are noted and its streams end. -/
def departed (s : State) (q : QueueId) (e : Entry) : State :=
  sweep (noteDone (dropEntry s q e.hh e.seq) q e.hh e.seq e.status) q

theorem departed_cluster {s : State} {k : Gl} {i : Site} {e : Entry} (live : liveSet s k = some (i, e.hh)) (en : Fin 5) :
    Frame s (departed s (.cluster k en) e) ∧ (departed s (.cluster k en) e).db = s.db ∧
      ∀ j h, setAt (departed s (.cluster k en) e) j h =
        if i = j ∧ e.hh = h then upQueue en (EQueue.left e) (setAt s j h) else setAt s j h := by
  let s1 := upSet s i e.hh (upQueue en fun x => { x with ents := without e x.ents })
  have drop : dropEntry s (.cluster k en) e.hh e.seq = s1 := by simp only [dropEntry, upEnts, live]; rfl
  have site : siteOf s1 k = some i := (siteOf_live live : siteOf s k = some i)
  obtain ⟨work, wdb⟩ := beside_noteWork s1 k
  let s2 := upSite (noteWork s1 k) i fun c => { c with worked := vmod c.worked ⟨en.val, by omega⟩ fun _ => true }
  have two : Beside s1 s2 := work.trans (beside_upSite _ i fun _ => ⟨rfl, rfl, rfl⟩)
  let s3 := upSet s2 i e.hh (upQueue en fun x => { x with doneSeq := e.seq, lastStatus := e.status })
  have done : noteDone s1 (.cluster k en) e.hh e.seq e.status = s3 := by simp only [noteDone, site]; rfl
  obtain ⟨swept, sdb⟩ := beside_sweep s3 (.cluster k en)
  unfold departed
  rw [drop, done]
  refine ⟨(frame_upSet ..).trans (two.toFrame.trans ((frame_upSet ..).trans swept.toFrame)), sdb.trans wdb, fun j h => ?_⟩
  rw [swept.sets, setAt_upSet, two.sets, setAt_upSet]
  split
  · exact upQueue_upQueue ..
  · rfl

theorem departed_mve (s : State) (r : Rg) (e : Entry) :
    Frame s (departed s (.mve r) e) ∧ (departed s (.mve r) e).db = s.db ∧ (∀ j h, setAt (departed s (.mve r) e) j h = setAt s j h) ∧
      (regAt (departed s (.mve r) e) r).mve.shown =
        (without e (regAt s r).mve.ents, (regAt s r).mve.halted, e.seq) := by
  let s1 := upReg (upReg s r fun g => { g with mve := { g.mve with ents := without e g.mve.ents } }) r fun g =>
    { g with mve := { g.mve with doneSeq := e.seq, worked := true } }
  obtain ⟨swept, sdb⟩ := beside_sweep s1 (.mve r)
  refine ⟨((frame_upReg ..).trans (frame_upReg ..)).trans swept.toFrame, sdb, swept.sets, (swept.regions r).1.trans ?_⟩
  simp [s1, RQueue.shown]

theorem departed_larder (s : State) (r : Rg) (e : Entry) :
    Frame s (departed s (.larder r) e) ∧ (departed s (.larder r) e).db = s.db ∧ (∀ j h, setAt (departed s (.larder r) e) j h = setAt s j h) ∧
      (regAt (departed s (.larder r) e) r).larder.shown =
        (without e (regAt s r).larder.ents, (regAt s r).larder.halted, e.seq) := by
  let s1 := upReg (upReg s r fun g => { g with larder := { g.larder with ents := without e g.larder.ents } }) r fun g =>
    { g with larder := { g.larder with doneSeq := e.seq, worked := true } }
  obtain ⟨swept, sdb⟩ := beside_sweep s1 (.larder r)
  refine ⟨((frame_upReg ..).trans (frame_upReg ..)).trans swept.toFrame, sdb, swept.sets, (swept.regions r).2.trans ?_⟩
  simp [s1, RQueue.shown]

/- The halt of a queue outside timed mode (R137, R143). -/

/-- A set whose queue halts: a compute queue stops the sequencer. -/
def haltedSet (en : Fin 5) (st : Nat) (t : HSet) : HSet := { upQueue en (fun x => { x with halted := true }) t with
  xsq := if en.val < 4 then { t.xsq with run := false, lastStatus := st } else t.xsq }

theorem haltQueue_cluster {s : State} {k : Gl} {i : Site} (site : siteOf s k = some i) (en : Fin 5) {h : Hh} (untimed : modeOf s h ≠ 2)
    (st : Nat) : haltQueue s (.cluster k en) h st = upSet s i h (haltedSet en st) := by
  have mode : modeOf (upSet s i h fun t => { t with queues := vmod t.queues en fun x => { x with halted := true } }) h ≠ 2 := untimed
  simp only [haltQueue, setHalted, site, siteOf_upSet, beq_iff_eq, mode, if_false]
  split
  · rename_i compute
    rw [upSet_upSet]
    refine upSet_congr s i h ?_
    simp only [haltedSet, if_pos compute]
    rfl
  · rename_i access
    refine upSet_congr s i h ?_
    simp only [haltedSet, if_neg access]
    rfl

/- The word of a command that is over. -/

/-- The status word of a command goes to the ring, when it asks for it or has failed (R138). -/
def posted (s : State) (q : QueueId) (e : Entry) : State :=
  if e.cmd.report = true ∨ e.status ≠ stOk then ringPut s e.hh (entryWord q e) else s

/-- A word in the ring changes the cellar and the household's registers. -/
theorem ringPut_frame (s : State) (h : Hh) (w : List Byte) : ∃ c hs, ringPut s h w = { s with cellar := c, hhs := hs } := by
  obtain ⟨t, ht, off, -⟩ := ringPut_eq s h w
  have same : t = { s with cellar := t.cellar } := by
    calc t = { offCellar t with cellar := t.cellar } := rfl
      _ = { offCellar s with cellar := t.cellar } := by rw [off]
      _ = { s with cellar := t.cellar } := rfl
  rw [ht, same]
  exact ⟨_, _, rfl⟩

theorem posted_frame (s : State) (q : QueueId) (e : Entry) : ∃ c hs, posted s q e = { s with cellar := c, hhs := hs } := by
  unfold posted
  split
  · exact ringPut_frame ..
  · exact ⟨s.cellar, s.hhs, rfl⟩

theorem tx_ringPut (s : State) (h g : Hh) (w : List Byte) : (hhAt (ringPut s h w) g).tx = (hhAt s g).tx := by
  obtain ⟨t, ht, off, -⟩ := ringPut_eq s h w
  have hh : hhAt t g = hhAt s g := congrArg (·.get g) (hhs_of_offCellar off)
  rw [ht, hhAt_upCmd, hh]
  split <;> rfl

/-- A command that is next to complete, of an engine that is not frozen, with room for its word. -/
structure Completes (s : State) (q : QueueId) (e : Entry) : Prop where
  next : completing s q = some e
  thawed : queueFrozen s q = false
  unworded : e.worded = false
  first : (hhAt s e.hh).cmd.cqWait = []
  ring : e.cmd.report = true ∨ e.status ≠ stOk → (hhAt s e.hh).cmd.cqEnable = true ∧ ringState s e.hh = .free

section
variable {s : State} {q : QueueId} {e : Entry}

theorem posted_wait (first : (hhAt s e.hh).cmd.cqWait = []) : (hhAt (posted s q e) e.hh).cmd.cqWait = [] := by
  unfold posted
  split
  · rw [ringPut_wait, first]
  · exact first
theorem posted_mode (h : Hh) : modeOf (posted s q e) h = modeOf s h := by
  unfold posted
  split
  · exact modeOf_ringPut ..
  · rfl
theorem posted_tx (h : Hh) : (hhAt (posted s q e) h).tx = (hhAt s h).tx := by
  unfold posted
  split
  · exact tx_ringPut ..
  · rfl

/-- The word of COMMAND_COMPLETE. -/
theorem posts (c : Completes s q e) : (if ((e.cmd.report || !(e.status == stOk)) && !e.worded) = true then
    postWord s e.hh (entryWord q e) (some (q, e.seq)) else s) = posted s q e := by
  have needs : ((e.cmd.report || !(e.status == stOk)) && !e.worded) = true ↔ e.cmd.report = true ∨ e.status ≠ stOk := by
    simp [c.unworded]
  by_cases n : e.cmd.report = true ∨ e.status ≠ stOk
  · obtain ⟨on, free⟩ := c.ring n
    rw [if_pos (needs.2 n), posted, if_pos n, postWord_free on c.first free]
  · rw [if_neg fun h => n (needs.1 h), posted, if_neg n]

end

/-- The field of a command goes to the hand-off queue it names (R142). -/
def handed (e : Entry) (ho : Option (Site × Fin 8 × Nat)) (s : State) : State := match ho with
  | some (i, n, f) => upSet s i e.hh (pushed n f)
  | none => s
/-- NOTIFY of a command (R140). -/
def notified (e : Entry) (s : State) : State := if e.cmd.notify then raise s (hhSrc e.hh 1) else s


/-- What a command does as it completes, before it leaves its queue: its word, hand-off, signal and bells. -/
def delivered (s : State) (q : QueueId) (e : Entry) : State :=
  let ok := e.status == stOk
  let s2 := handed e (if ok then handoffOf s q e else none) (thaw (posted s q e) q)
  let s3 := if ok then signal s2 q e else s2
  let s4 := if e.cmd.notify && e.phase == .done then raise s3 (hhSrc e.hh 1) else s3
  if ok then s4 else errBell s4 e.hh
/-- How a command leaves its queue, or stays in it suspended. -/
def concluded (v : State) (q : QueueId) (e : Entry) : State :=
  if e.phase == .faulted then
    haltQueue (upEntry v q e.hh e.seq fun x => { x with phase := .suspended, worded := false }) q e.hh e.status
  else
    let abort := (hhAt v e.hh).tx.opened && (abortsGroup e.status || e.keyFail)
    let t := streamHalt (departed v q e) q e
    let t := psqNote (if !(e.status == stOk) && !abort then haltQueue t q e.hh e.status else t) q e
    let t := if abort then txAbort t e.hh ⟨e.status, e.cmd.opcode, qUnit q, e.seq, e.recIdx⟩ true else t
    askRetire t q e.status

/-- COMMAND_COMPLETE of a command that owes no summary and finds room. -/
theorem complete_delivers {s : State} {q : QueueId} {e : Entry} (c : Completes s q e) (owes : owesSummary e = false)
    (room : e.status = stOk → ∀ i n f, handoffOf s q e = some (i, n, f) → ((setAt s i e.hh).hqs.get n).length < 16) :
    complete s q = concluded (delivered s q e) q e := by
  have full : ∀ ho, ho = (if e.status == stOk then handoffOf s q e else none) → ¬ (match ho with
      | some (i, n, _) => decide (((setAt s i e.hh).hqs.get n).length ≥ 16)
      | none => false) = true := by
    intro ho hho
    split
    · rename_i i n f
      split at hho
      · rename_i ok
        simpa using room (by simpa using ok) i n f hho.symm
      · cases hho
    · decide
  have waits : ¬ wordWaits s e.hh q e.seq = true := by rw [wordWaits_empty c.first]; decide
  have waits' (b : Bool) : ¬ (b && wordWaits (posted s q e) e.hh q e.seq) = true := by
    rw [wordWaits_empty (posted_wait c.first), Bool.and_false]
    decide
  unfold complete
  rw [c.next]
  refine (if_neg (by rw [owes, c.thawed]; decide)).trans ?_
  refine (if_neg (full _ rfl)).trans ?_
  refine (if_neg waits).trans ?_
  dsimp only
  rw [posts c]
  exact if_neg (waits' _)

/-- What a command leaves of its queue, once it is gone (R134): its entry goes, DONE and LAST are noted, and the queue halts for its
household where it has failed. -/
structure Left (s t : State) (q : QueueId) (e : Entry) (halt : Bool) : Prop where
  ents : qEnts t q = without e (qEnts s q)
  halted : ∀ h, qHalted t q h = if halt = true ∧ h = e.hh then true else qHalted s q h
  shown : match q with
    | .cluster k en => ∀ i, siteOf s k = some i → ∀ j, (setAt t i e.hh).queues.get j =
        if j = en then { EQueue.left e ((setAt s i e.hh).queues.get j) with halted := ((setAt s i e.hh).queues.get j).halted || halt }
        else (setAt s i e.hh).queues.get j
    | .mve r => (regAt t r).mve.doneSeq = e.seq
    | .larder r => (regAt t r).larder.doneSeq = e.seq

theorem Left.of_keeps {s v t : State} {q : QueueId} {e : Entry} {halt : Bool} (a : Keeps s v) (l : Left v t q e halt) : Left s t q e halt := by
  refine ⟨by rw [l.ents, a.ents], fun h => by rw [l.halted, a.halted], ?_⟩
  cases q with
  | cluster k en =>
    intro i hi j
    rw [← a.queues]
    exact l.shown i (by rw [a.site]; exact hi) j
  | mve r => exact l.shown
  | larder r => exact l.shown

/-- A cluster queue in a set that a command has left, or that has halted with it. -/
theorem left_cluster {s t : State} {k : Gl} {i : Site} {e : Entry} (live : liveSet s k = some (i, e.hh)) (frame : Frame s t) (en : Fin 5)
    (halt : Bool) (f : HSet → HSet) (sets : ∀ j h, setAt t j h = if i = j ∧ e.hh = h then f (setAt s j h) else setAt s j h)
    (hf : ∀ x j, (f x).queues.get j = if j = en then { EQueue.left e (x.queues.get j) with halted := (x.queues.get j).halted || halt }
      else x.queues.get j) : Left s t (.cluster k en) e halt := by
  have live' : liveSet t k = some (i, e.hh) := (frame.live k).trans live
  have site : siteOf s k = some i := siteOf_live live
  have own : setAt t i e.hh = f (setAt s i e.hh) := by rw [sets, if_pos ⟨rfl, rfl⟩]
  refine ⟨?_, fun h => ?_, fun j hj m => ?_⟩
  · rw [qEnts_cluster live', qEnts_cluster live, own, hf, if_pos rfl]
    rfl
  · have at_ : qHalted t (.cluster k en) h = ((setAt t i h).queues.get en).halted := by simp only [qHalted, frame.site, site]
    have at0 : qHalted s (.cluster k en) h = ((setAt s i h).queues.get en).halted := by simp only [qHalted, site]
    rw [at_, at0, sets]
    by_cases hh : e.hh = h
    · subst hh
      rw [if_pos ⟨rfl, rfl⟩, hf, if_pos rfl]
      cases halt <;> simp
    · rw [if_neg fun x => hh x.2, if_neg fun x => hh x.2.symm]
  · cases Option.some.inj (site.symm.trans hj)
    rw [own, hf]

theorem EQueue.left_running (e : Entry) (x : EQueue) : { EQueue.left e x with halted := x.halted || false } = EQueue.left e x := by
  simp [EQueue.left]

/-- A command that has left its queue, which runs on. -/
theorem departs {v : State} {q : QueueId} {e : Entry} (live : ∀ k en, q = .cluster k en → ∃ i, liveSet v k = some (i, e.hh)) :
    Left v (departed v q e) q e false ∧ Frame v (departed v q e) ∧ (departed v q e).db = v.db ∧
      ∀ j h, (setAt (departed v q e) j h).sems = (setAt v j h).sems ∧ (setAt (departed v q e) j h).hqs = (setAt v j h).hqs := by
  cases q with
  | cluster k en =>
    obtain ⟨i, hi⟩ := live k en rfl
    obtain ⟨frame, db, sets⟩ := departed_cluster hi en
    refine ⟨left_cluster hi frame en false _ sets fun x j => ?_, frame, db, fun j h => ?_⟩
    · rw [upQueue_queues, EQueue.left_running]
    · rw [sets]
      split <;> exact ⟨rfl, rfl⟩
  | mve r =>
    obtain ⟨frame, db, sets, shown⟩ := departed_mve v r e
    refine ⟨⟨congrArg (·.1) shown, fun h => ?_, congrArg (·.2.2) shown⟩, frame, db, fun j h => by rw [sets]; exact ⟨rfl, rfl⟩⟩
    exact congrArg (fun x => x.2.1.get h) shown
  | larder r =>
    obtain ⟨frame, db, sets, shown⟩ := departed_larder v r e
    refine ⟨⟨congrArg (·.1) shown, fun h => ?_, congrArg (·.2.2) shown⟩, frame, db, fun j h => by rw [sets]; exact ⟨rfl, rfl⟩⟩
    exact congrArg (fun x => x.2.1.get h) shown

/-- A command that has left its queue, which halts for its household. -/
theorem halts {v : State} {q : QueueId} {e : Entry} (live : ∀ k en, q = .cluster k en → ∃ i, liveSet v k = some (i, e.hh))
    (untimed : modeOf v e.hh ≠ 2) :
    let t := haltQueue (departed v q e) q e.hh e.status
    Left v t q e true ∧ Frame v t ∧ t.db = v.db ∧ ∀ k en i, q = .cluster k en → siteOf v k = some i →
      (setAt t i e.hh).sems = (setAt v i e.hh).sems ∧ (setAt t i e.hh).xsq =
        if en.val < 4 then { (setAt v i e.hh).xsq with run := false, lastStatus := e.status } else (setAt v i e.hh).xsq := by
  intro t
  cases q with
  | cluster k en =>
    obtain ⟨i, hi⟩ := live k en rfl
    obtain ⟨frame, db, sets⟩ := departed_cluster hi en
    have ht : t = upSet (departed v (.cluster k en) e) i e.hh (haltedSet en e.status) :=
      haltQueue_cluster ((frame.site k).trans (siteOf_live hi)) en (by rw [frame.mode]; exact untimed) e.status
    have frame' : Frame v t := by rw [ht]; exact frame.trans (frame_upSet ..)
    have sets' (j : Site) (h : Hh) : setAt t j h =
        if i = j ∧ e.hh = h then haltedSet en e.status (upQueue en (EQueue.left e) (setAt v j h)) else setAt v j h := by
      rw [ht, setAt_upSet, sets]
      by_cases at_ : i = j ∧ e.hh = h
      · simp only [if_pos at_]
      · simp only [if_neg at_]
    refine ⟨left_cluster hi frame' en true (fun x => haltedSet en e.status (upQueue en (EQueue.left e) x)) sets' fun x j => ?_,
      frame', by rw [ht]; exact db, fun k' en' i' hq hi' => ?_⟩
    · change (upQueue en _ (upQueue en _ x)).queues.get j = _
      rw [upQueue_queues, upQueue_queues]
      split <;> simp
    · cases hq
      cases Option.some.inj ((siteOf_live hi).symm.trans hi')
      rw [sets', if_pos ⟨rfl, rfl⟩]
      exact ⟨rfl, rfl⟩
  | mve r =>
    obtain ⟨frame, db, sets, shown⟩ := departed_mve v r e
    have reg : regAt t r = { regAt (departed v (.mve r) e) r with mve := { (regAt (departed v (.mve r) e) r).mve with
        halted := (regAt (departed v (.mve r) e) r).mve.halted.set e.hh.val true e.hh.isLt } } := by
      simp only [t, haltQueue, setHalted, regAt_upReg, if_true]
    refine ⟨⟨?_, fun h => ?_, ?_⟩, frame.trans (frame_upReg ..), db, fun _ _ _ hq => by cases hq⟩
    · simp only [qEnts, reg]
      exact congrArg (·.1) shown
    · simp only [qHalted, reg]
      rw [show (regAt (departed v (.mve r) e) r).mve.halted = (regAt v r).mve.halted from congrArg (·.2.1) shown, set_get]
      simp [eq_comm (a := e.hh)]
    · simp only [reg]
      exact congrArg (·.2.2) shown
  | larder r =>
    obtain ⟨frame, db, sets, shown⟩ := departed_larder v r e
    have reg : regAt t r = { regAt (departed v (.larder r) e) r with larder := { (regAt (departed v (.larder r) e) r).larder with
        halted := (regAt (departed v (.larder r) e) r).larder.halted.set e.hh.val true e.hh.isLt } } := by
      simp only [t, haltQueue, setHalted, regAt_upReg, if_true]
    refine ⟨⟨?_, fun h => ?_, ?_⟩, frame.trans (frame_upReg ..), db, fun _ _ _ hq => by cases hq⟩
    · simp only [qEnts, reg]
      exact congrArg (·.1) shown
    · simp only [qHalted, reg]
      rw [show (regAt (departed v (.larder r) e) r).larder.halted = (regAt v r).larder.halted from congrArg (·.2.1) shown, set_get]
      simp [eq_comm (a := e.hh)]
    · simp only [reg]
      exact congrArg (·.2.2) shown

/- What a command does as it completes. -/

section
variable {s : State} {q : QueueId} {e : Entry}

theorem keeps_thaw (s : State) (q : QueueId) : Keeps s (thaw s q) := (beside_thaw s q).1.keeps
theorem keeps_raise (s : State) (x : Nat) : Keeps s (raise s x) := (beside_raise s x).keeps
theorem keeps_handed (s : State) (e : Entry) (ho : Option (Site × Fin 8 × Nat)) : Keeps s (handed e ho s) := by
  cases ho with
  | none => exact (Beside.refl s).keeps
  | some x => exact keeps_upSet s x.1 e.hh fun _ => rfl
theorem keeps_signal (s : State) (q : QueueId) (e : Entry) : Keeps s (signal s q e) := by
  unfold signal
  split
  · split
    · exact (Beside.refl s).keeps
    · exact keeps_upSet s _ e.hh fun _ => rfl
  · exact (Beside.refl s).keeps

theorem db_handed (s : State) (e : Entry) (ho : Option (Site × Fin 8 × Nat)) : (handed e ho s).db = s.db := by
  cases ho <;> rfl
theorem db_signal (s : State) (q : QueueId) (e : Entry) : (signal s q e).db = s.db := by
  unfold signal
  split
  · split <;> rfl
  · rfl

theorem sems_handed (s : State) (e : Entry) (ho : Option (Site × Fin 8 × Nat)) (j : Site) (h : Hh) :
    (setAt (handed e ho s) j h).sems = (setAt s j h).sems := by
  cases ho with
  | none => rfl
  | some x =>
    simp only [handed, setAt_upSet]
    split <;> rfl
theorem hqs_handed (s : State) (e : Entry) (i : Site) (n : Fin 8) (f : Nat) :
    (setAt (handed e (some (i, n, f)) s) i e.hh).hqs.get n = (setAt s i e.hh).hqs.get n ++ [f] := by
  simp [handed, pushed]

/-- A semaphore that hardware increments saturates with OVF (R136). -/
def Sem.signalled (x : Sem) : Sem := if x.count ≥ 65535 then ⟨65535, true⟩ else ⟨x.count + 1, x.ovf⟩

theorem hqs_signal (s : State) (q : QueueId) (e : Entry) (j : Site) (h : Hh) : (setAt (signal s q e) j h).hqs = (setAt s j h).hqs := by
  unfold signal
  split
  · split
    · rfl
    · rw [setAt_upSet]
      split <;> rfl
  · rfl
theorem sems_signal {i : Site} (site : siteOf s (waitGl q e.cmd.signal) = some i) (n : Fin 16) :
    (setAt (signal s q e) i e.hh).sems.get n = if e.t0 = none ∧ e.cmd.sigEn = true ∧ n.val = e.cmd.signal % 16 then
      ((setAt s i e.hh).sems.get n).signalled else (setAt s i e.hh).sems.get n := by
  unfold signal
  by_cases on : (hasWait e && e.cmd.sigEn) = true
  · obtain ⟨untimed, signals⟩ : e.t0 = none ∧ e.cmd.sigEn = true := by simpa [hasWait] using on
    have named : ((⟨e.cmd.signal % 16, by omega⟩ : Fin 16) = n) = (n.val = e.cmd.signal % 16) :=
      propext ⟨fun h => by rw [← h], fun h => Fin.ext h.symm⟩
    rw [if_pos on, site]
    simp only [setAt_upSet, and_self, if_true, vmod_get, named, untimed, signals, true_and]
    rfl
  · have off : ¬ (e.t0 = none ∧ e.cmd.sigEn = true ∧ n.val = e.cmd.signal % 16) := fun h => on (by simp [hasWait, h.1, h.2.1])
    rw [if_neg on, if_neg off]

/-- NOTIFY raises source 1 of the household (R140). -/
theorem notified_eq (e : Entry) (s : State) : notified e s = if e.cmd.notify = true then raise s (256 + 48 * e.hh.val + 1) else s := rfl
theorem beside_notified (e : Entry) (s : State) : Beside s (notified e s) := by
  unfold notified
  split
  · exact beside_raise ..
  · exact .refl s
theorem db_notified {t : State} (e : Entry) (db : t.db = s.db) : (notified e t).db = (notified e s).db := by
  unfold notified
  split
  · exact raise_db_congr db _
  · exact db

theorem delivered_ok (done : e.phase = .done) (ok : e.status = stOk) : delivered s q e =
    notified e (signal (handed e (handoffOf s q e) (thaw (posted s q e) q)) q e) := by
  simp [delivered, done, ok, notified]
theorem delivered_fails (done : e.phase = .done) (bad : e.status ≠ stOk) : delivered s q e =
    errBell (notified e (thaw (posted s q e) q)) e.hh := by
  simp [delivered, done, bad, notified, handed]
theorem delivered_faulted (p : e.phase = .faulted) (bad : e.status ≠ stOk) : delivered s q e =
    errBell (thaw (posted s q e) q) e.hh := by
  simp [delivered, p, bad, handed]

/- How a command leaves. -/

theorem streamHalt_untimed {s : State} {q : QueueId} {e : Entry} (untimed : e.status = stOk ∨ modeOf s e.hh ≠ 2) : streamHalt s q e = s := by
  cases q with
  | larder r =>
    refine if_neg fun h => ?_
    simp only [Bool.and_eq_true, bne_iff_ne, beq_iff_eq] at h
    exact untimed.elim h.1.2 fun u => u h.2
  | cluster k en => rfl
  | mve r => rfl

theorem psqNote_command {s : State} {q : QueueId} {e : Entry} (own : e.fromPsq = false) : psqNote s q e = s := by
  cases q with
  | cluster k en =>
    cases site : siteOf s k with
    | none => simp only [psqNote, site]
    | some i => simp [psqNote, site, own]
  | mve r => rfl
  | larder r => rfl

theorem askRetire_whole {s : State} {q : QueueId} {st : Nat} (whole : st ≠ stAbft) : askRetire s q st = s := by
  cases q with
  | cluster k en => simp [askRetire, whole]
  | mve r => rfl
  | larder r => rfl

theorem concluded_ok {v : State} (done : e.phase = .done) (ok : e.status = stOk) (key : e.keyFail = false) (own : e.fromPsq = false) :
    concluded v q e = departed v q e := by
  have goes : ((hhAt v e.hh).tx.opened && (abortsGroup e.status || e.keyFail)) = false := by
    rw [ok, key, show (abortsGroup stOk || false) = false by decide, Bool.and_false]
  unfold concluded
  rw [done, if_neg (by decide)]
  simp only [goes, streamHalt_untimed (.inl ok), psqNote_command own]
  rw [askRetire_whole (by rw [ok]; decide), ok]
  rfl

theorem concluded_fails {v : State} (done : e.phase = .done) (bad : e.status ≠ stOk) (whole : e.status ≠ stAbft)
    (own : e.fromPsq = false) (closed : (hhAt v e.hh).tx.opened = false) (untimed : modeOf (departed v q e) e.hh ≠ 2) :
    concluded v q e = haltQueue (departed v q e) q e.hh e.status := by
  have halting : (!(e.status == stOk) && !false) = true := by simp [bad]
  unfold concluded
  rw [done, if_neg (by decide)]
  simp only [closed, Bool.false_and, streamHalt_untimed (.inr untimed), psqNote_command own, halting, if_true, askRetire_whole whole]
  rfl

theorem concluded_faulted {v : State} (p : e.phase = .faulted) : concluded v q e =
    haltQueue (upEntry v q e.hh e.seq fun x => { x with phase := .suspended, worded := false }) q e.hh e.status := by
  unfold concluded
  rw [p, if_pos (by decide)]

end

/- A command that stays, suspended. -/

theorem frame_upEntry (s : State) (q : QueueId) (h : Hh) (seq : Nat) (f : Entry → Entry) : Frame s (upEntry s q h seq f) := by
  cases q with
  | cluster k en =>
    cases live : liveSet s k with
    | none =>
      have same : upEntry s (.cluster k en) h seq f = s := by simp only [upEntry, upEnts, live]
      rw [same]
      exact .refl s
    | some x =>
      simp only [upEntry, upEnts, live]
      exact frame_upSet ..
  | mve r => exact frame_upReg ..
  | larder r => exact frame_upReg ..

/-- A queue that halts keeps its commands. -/
structure Halted (s t : State) (q : QueueId) (h : Hh) : Prop extends Frame s t where
  db : t.db = s.db
  halted : qHalted t q h = true
  ents : qEnts t q = qEnts s q

theorem haltQueue_halted {s : State} {q : QueueId} {h : Hh} (live : ∀ k en, q = .cluster k en → ∃ i, liveSet s k = some (i, h))
    (untimed : modeOf s h ≠ 2) (st : Nat) : Halted s (haltQueue s q h st) q h := by
  cases q with
  | cluster k en =>
    obtain ⟨i, hi⟩ := live k en rfl
    have site : siteOf s k = some i := siteOf_live hi
    rw [haltQueue_cluster site en untimed st]
    refine ⟨frame_upSet .., rfl, ?_, ?_⟩
    · have at_ : siteOf (upSet s i h (haltedSet en st)) k = some i := site
      simp [qHalted, at_, haltedSet, upQueue]
    · rw [qEnts_cluster (((frame_upSet ..).live k).trans hi), qEnts_cluster hi]
      simp [haltedSet, upQueue]
  | mve r =>
    refine ⟨frame_upReg .., rfl, ?_, ?_⟩
    · simp [qHalted, haltQueue, setHalted]
    · simp [qEnts, haltQueue, setHalted]
  | larder r =>
    refine ⟨frame_upReg .., rfl, ?_, ?_⟩
    · simp [qHalted, haltQueue, setHalted]
    · simp [qEnts, haltQueue, setHalted]

/- COMMAND_COMPLETE. -/

section
variable {s : State} {q : QueueId} {e : Entry}

theorem complete_idle (h : completing s q = none) : complete s q = s := by
  unfold complete
  rw [h]

theorem complete_handoffFull (c : Completes s q e) (owes : owesSummary e = false) (ok : e.status = stOk) {i : Site} {n : Fin 8} {f : Nat}
    (ho : handoffOf s q e = some (i, n, f)) (full : 16 ≤ ((setAt s i e.hh).hqs.get n).length) :
    complete s q = stallOf s q e.hh .handoffFull := by
  unfold complete
  rw [c.next]
  refine (if_neg (by rw [owes, c.thawed]; decide)).trans ?_
  simp only [ok, beq_self_eq_true, if_true, ho]
  exact if_pos (decide_eq_true full)

theorem posted_calm (c : calm s) : calm (posted s q e) := by
  obtain ⟨_, _, eq⟩ := posted_frame s q e
  rw [eq]
  exact c
theorem posted_db : (posted s q e).db = s.db := by
  obtain ⟨_, _, eq⟩ := posted_frame s q e
  rw [eq]

theorem posted_live (live : ∀ k en, q = .cluster k en → ∃ i, liveSet s k = some (i, e.hh)) (k : Gl) (en : Fin 5) (hq : q = .cluster k en) :
    ∃ i, liveSet (posted s q e) k = some (i, e.hh) := by
  obtain ⟨_, _, eq⟩ := posted_frame s q e
  rw [eq]
  exact live k en hq

/-- The posted word does not touch the queues. -/
theorem Left.of_posted {t : State} {halt : Bool} (l : Left (posted s q e) t q e halt) : Left s t q e halt := by
  obtain ⟨_, _, eq⟩ := posted_frame s q e
  rw [eq] at l
  cases q <;> exact ⟨l.ents, l.halted, l.shown⟩

/-- Nor the sets of a cluster. -/
theorem posted_sets (j : Site) (h : Hh) : setAt (posted s q e) j h = setAt s j h := by
  obtain ⟨_, _, eq⟩ := posted_frame s q e
  rw [eq]
  rfl
theorem posted_site (k : Gl) : siteOf (posted s q e) k = siteOf s k := by
  obtain ⟨_, _, eq⟩ := posted_frame s q e
  rw [eq]
  rfl

/-- A command that ends well (R134, R142). -/
theorem complete_ok (c : Completes s q e) (live : ∀ k en, q = .cluster k en → ∃ i, liveSet s k = some (i, e.hh)) (done : e.phase = .done)
    (summed : e.summary = none) (key : e.keyFail = false) (own : e.fromPsq = false) (ok : e.status = stOk)
    (room : ∀ i n f, handoffOf s q e = some (i, n, f) → ((setAt s i e.hh).hqs.get n).length < 16) :
    let t := complete s q
    Left s t q e false ∧ Frame (posted s q e) t ∧ t.db = (notified e s).db ∧
      (∀ i, siteOf s (waitGl q e.cmd.signal) = some i → ∀ n : Fin 16, (setAt t i e.hh).sems.get n =
        if e.t0 = none ∧ e.cmd.sigEn = true ∧ n.val = e.cmd.signal % 16 then ((setAt s i e.hh).sems.get n).signalled
        else (setAt s i e.hh).sems.get n) ∧
      ∀ i n f, handoffOf s q e = some (i, n, f) → (setAt t i e.hh).hqs.get n = (setAt s i e.hh).hqs.get n ++ [f] := by
  intro t
  have ht : t = departed (delivered s q e) q e := by
    rw [← concluded_ok done ok key own]
    exact complete_delivers c (by simp [owesSummary, summed]) fun _ => room
  have thawed := keeps_thaw (posted s q e) q
  have handedOff := thawed.trans (keeps_handed _ e (handoffOf s q e))
  have signalled := handedOff.trans (keeps_signal _ q e)
  have told := beside_notified e (signal (handed e (handoffOf s q e) (thaw (posted s q e) q)) q e)
  have keeps : Keeps (posted s q e) (delivered s q e) := by
    rw [delivered_ok done ok]
    exact signalled.trans told.keeps
  obtain ⟨left, frame, db, sets⟩ := departs (v := delivered s q e) (q := q) (e := e) fun k en hq => by
    rw [keeps.live]
    exact posted_live live k en hq
  rw [← ht] at left frame db sets
  refine ⟨(left.of_keeps keeps).of_posted, keeps.toFrame.trans frame, ?_, fun i site n => ?_, fun i n f ho => ?_⟩
  · rw [db, delivered_ok done ok]
    refine db_notified e ?_
    rw [db_signal, db_handed, (beside_thaw ..).2, posted_db]
  · have site' : siteOf (handed e (handoffOf s q e) (thaw (posted s q e) q)) (waitGl q e.cmd.signal) = some i := by
      rw [handedOff.site, posted_site, site]
    rw [(sets i e.hh).1, delivered_ok done ok, told.sets, sems_signal site' n, sems_handed, (beside_thaw ..).1.sets, posted_sets]
  · rw [(sets i e.hh).2, delivered_ok done ok, told.sets, hqs_signal, ho, hqs_handed, (beside_thaw ..).1.sets, posted_sets]

/-- A command that fails halts its queue (R137, R143). -/
theorem complete_fails (c : Completes s q e) (live : ∀ k en, q = .cluster k en → ∃ i, liveSet s k = some (i, e.hh)) (done : e.phase = .done)
    (summed : e.summary = none) (own : e.fromPsq = false) (bad : e.status ≠ stOk) (whole : e.status ≠ stAbft)
    (untimed : modeOf s e.hh ≠ 2) (closed : (hhAt s e.hh).tx.opened = false) :
    let t := complete s q
    Left s t q e true ∧ Frame (posted s q e) t ∧ t.db = (raise (notified e s) (256 + 48 * e.hh.val)).db ∧
      ∀ k en i, q = .cluster k en → siteOf s k = some i → (setAt t i e.hh).sems = (setAt s i e.hh).sems ∧
        (setAt t i e.hh).xsq =
          if en.val < 4 then { (setAt s i e.hh).xsq with run := false, lastStatus := e.status } else (setAt s i e.hh).xsq := by
  intro t
  have beside : Beside (posted s q e) (delivered s q e) := by
    rw [delivered_fails done bad]
    exact (beside_thaw ..).1.trans ((beside_notified ..).trans (beside_raise ..))
  have live' (k : Gl) (en : Fin 5) (hq : q = .cluster k en) : ∃ i, liveSet (delivered s q e) k = some (i, e.hh) := by
    rw [beside.live]
    exact posted_live live k en hq
  have untimed' : modeOf (delivered s q e) e.hh ≠ 2 := by rw [beside.mode, posted_mode]; exact untimed
  have ht : t = haltQueue (departed (delivered s q e) q e) q e.hh e.status := by
    rw [← concluded_fails done bad whole own (by rw [beside.household, posted_tx]; exact closed)
      (by rw [(departs live').2.1.mode]; exact untimed')]
    exact complete_delivers c (by simp [owesSummary, summed]) fun ok => absurd ok bad
  obtain ⟨left, frame, db, sets⟩ := halts live' untimed'
  rw [← ht] at left frame db sets
  refine ⟨(left.of_keeps beside.keeps).of_posted, beside.toFrame.trans frame, ?_, fun k en i hq site => ?_⟩
  · rw [db, delivered_fails done bad]
    refine raise_db_congr (db_notified e ?_) _
    rw [(beside_thaw ..).2, posted_db]
  · obtain ⟨sems, xsq⟩ := sets k en i hq (by rw [beside.site, posted_site, site])
    rw [beside.sets, posted_sets] at sems xsq
    exact ⟨sems, xsq⟩

/-- A command with a fault is suspended in its halted queue (R137). -/
theorem complete_faulted (c : Completes s q e) (live : ∀ k en, q = .cluster k en → ∃ i, liveSet s k = some (i, e.hh))
    (p : e.phase = .faulted) (bad : e.status ≠ stOk) (untimed : modeOf s e.hh ≠ 2) :
    let t := complete s q
    Frame (posted s q e) t ∧ t.db = (raise s (256 + 48 * e.hh.val)).db ∧ qHalted t q e.hh = true ∧
      qEnts t q = changed (qEnts s q) e fun x => { x with phase := .suspended, worded := false } := by
  intro t
  have beside : Beside (posted s q e) (delivered s q e) := by
    rw [delivered_faulted p bad]
    exact (beside_thaw ..).1.trans (beside_raise ..)
  let u := upEntry (delivered s q e) q e.hh e.seq fun x => { x with phase := .suspended, worded := false }
  have suspends : Changes (delivered s q e) u q e _ := changes_upEntry ..
  have frame : Frame (posted s q e) u := beside.toFrame.trans (frame_upEntry ..)
  have ht : t = haltQueue u q e.hh e.status := by
    rw [← concluded_faulted p]
    exact complete_delivers c (by simp [owesSummary, p]) fun ok => absurd ok bad
  have halt : Halted u t q e.hh := by
    rw [ht]
    refine haltQueue_halted (fun k en hq => ?_) (by rw [frame.mode, posted_mode]; exact untimed) e.status
    rw [frame.live]
    exact posted_live live k en hq
  refine ⟨frame.trans halt.toFrame, ?_, halt.halted, ?_⟩
  · rw [halt.db, suspends.db, delivered_faulted p bad]
    refine raise_db_congr ?_ _
    rw [(beside_thaw ..).2, posted_db]
  · obtain ⟨_, _, eq⟩ := posted_frame s q e
    rw [halt.ents, suspends.ents, beside.keeps.ents, eq]
    rfl

/-- The word of a command has SUSP where it has faulted (R138). -/
theorem posted_eq (s : State) (q : QueueId) (e : Entry) : posted s q e = if e.cmd.report = true ∨ e.status ≠ stOk then ringPut s e.hh
    (statusWord e.status e.cmd.opcode (qUnit q) (64 * b2n (e.phase == .faulted) + 16 * e.operand + e.hh.val) e.seq e.offset e.recIdx)
    else s := by
  simp only [posted, entryWord, wordFlags, Nat.mul_comm]

theorem exec_complete (c : calm (complete s q)) : exec (.commandComplete q) s = .next (complete s q) := by
  change Host.Outcome.next (settle (complete s q)) = _
  rw [settle_calm c]

end

/-- Settles O23: the end of a command, in its word, its hand-off, its signal and bells, and its queue. -/
theorem commandsComplete : Obligations.CommandsComplete := by
  unfold Obligations.CommandsComplete
  intro s q e cs
  refine ⟨fun idle => ?_, fun next live thawed unworded first ring => ?_⟩
  · have same : complete s q = s := complete_idle idle
    rw [exec_complete (by rw [same]; exact cs), same]
  have c : Completes s q e := ⟨next, thawed, unworded, first, ring⟩
  have ends {t : State} (frame : Frame (posted s q e) t) (ht : t = complete s q) : exec (.commandComplete q) s = .next t := by
    subst ht
    exact exec_complete (frame.calm (posted_calm cs))
  refine ⟨fun done summed key own => ⟨fun ok room => ?_, fun ok ⟨i, n, f, ho, full⟩ => ?_, fun bad whole untimed closed => ?_⟩,
    fun p bad untimed => ?_⟩
  · obtain ⟨left, frame, db, sems, hqs⟩ := complete_ok c live done summed key own ok room
    have word := posted_eq s q e
    rw [done] at word
    refine ⟨_, ends frame rfl, by rw [frame.cellar, word]; rfl, by rw [frame.hhs, word]; rfl, db, ?_, sems, hqs⟩
    cases q <;> exact ⟨left.ents, left.halted, left.shown⟩
  · have held := complete_handoffFull c (by simp [owesSummary, summed]) ok ho full
    have quiet := quiet_stallOf s q e.hh .handoffFull
    rw [← held] at quiet
    exact ⟨_, exec_complete (quiet.calm cs), quiet.ents q, quiet.cellar, quiet.hhs, quiet.db⟩
  · obtain ⟨left, frame, db, sets⟩ := complete_fails c live done summed own bad whole untimed closed
    have word := posted_eq s q e
    rw [done] at word
    refine ⟨_, ends frame rfl, by rw [frame.cellar, word]; rfl, by rw [frame.hhs, word]; rfl, db, ?_, sets⟩
    cases q <;> exact ⟨left.ents, left.halted, left.shown⟩
  · obtain ⟨frame, db, halted, ents⟩ := complete_faulted c live p bad untimed
    have word := posted_eq s q e
    rw [p] at word
    exact ⟨_, ends frame rfl, by rw [frame.cellar, word]; rfl, by rw [frame.hhs, word]; rfl, db, halted, ents⟩

end Sys2Proof.Machine
end
